-- ==== Sys2Proof/Word.lean ====
section
/-! DEFINITION. The word types of the C9 and their plainest arithmetic (R4, R61). -/

namespace Sys2Proof

/-- A byte of memory. -/
abbrev Byte := BitVec 8

/-- A 64-bit scalar or address register (R26). -/
abbrev Word := BitVec 64

/-- A vector or command register (R26): 128 bytes, byte 0 least significant. -/
abbrev Vec := BitVec 1024

/-- A 32-bit lane word (R28). -/
abbrev LaneWord := BitVec 32

/-- A mask register: one bit per byte of a vector (R26). -/
abbrev Mask := BitVec 128

/-- Bits `[lo + w - 1 : lo]` of a natural number, as a natural number. -/
def bitsOf (x lo w : Nat) : Nat := (x >>> lo) % 2 ^ w

/-- The signed value of a `w`-bit pattern held in a natural number (two's complement, R61). -/
def toSigned (w x : Nat) : Int :=
  if x % 2 ^ w < 2 ^ (w - 1) then (x % 2 ^ w : Nat) else ((x % 2 ^ w : Nat) : Int) - (2 ^ w : Nat)

/-- The `w`-bit pattern of an integer, modulo `2 ^ w` (R10). -/
def ofInt (w : Nat) (i : Int) : Nat := (i % ((2 ^ w : Nat) : Int)).toNat

end Sys2Proof
end

