-- ==== Sys2Proof/Config.lean ====
section
/-! DEFINITION. What an implementation fixes, and the free values: constants with no body, so that nothing can
be proved of a particular value. The assumption log says what each stands for. -/

namespace Sys2Proof

/-- Cycles that pass with machine step `n` (DESIGN CHOICE, log 2). -/
opaque Config.stepCycles : Nat → Nat

/-- A free natural number, drawn with the counter `fresh` of the state (DESIGN CHOICE, log 14). -/
opaque Config.freeNat : Nat → Nat

/-- What the use `n` of the rounding mode or seed by stream X takes while the SYSWR that drew `key` waits for X: its effect on earlier
instructions is not defined, and is the same each time they are executed (R66, R77, log 38). -/
opaque Config.earlyFp : (key n : Nat) → Nat

/-- The firmware of a blob's body: its image, loaded at an address of tenant 0, the argument of its job, and the pages of 4 KiB that it maps
for tenant 0, by virtual and physical address (R255, R256). -/
structure Firmware where
  image : Nat
  args : Nat
  pages : List (Nat × Nat)
  bytes : List Byte
  deriving DecidableEq, Repr, Inhabited

/-- The firmware that a blob's body holds, which the manual does not lay out (DESIGN CHOICE, log 12). -/
opaque Config.firmware : List Byte → Firmware

/-- Entry of a cluster and a slice in the staging latency table, fixed at boot (R95, DESIGN CHOICE, log 11). -/
opaque Config.stagingLatency : Nat → Nat → Byte

/-- The vendor's public key in ROM, as a little-endian number (R255, DESIGN CHOICE, log 8). -/
opaque Config.vendorKey : BitVec 256

/-- The private identity key that the PUF gives, as a little-endian number (R258, DESIGN CHOICE, log 8). -/
opaque Config.identitySecret : BitVec 256

/-- Whether a die governor's share of the module limit allows another permit beside those granted (R120, DESIGN CHOICE, log 15). -/
opaque Config.permitFits : Nat → Bool

/-- Whether the table area of a tenant has room for a mapping beside as many as it holds (R98, DESIGN CHOICE, log 10). -/
opaque Config.tableRoom : Nat → Nat → Bool

/-- The `pod_module` that a blob body holds (R255, DESIGN CHOICE, log 12). -/
opaque Config.blobPod : List Byte → BitVec 13

/-- The address of a buddy's receive area in the space that its tenant 0 gives to checkpoint messages (R260, DESIGN CHOICE, log 35). -/
opaque Config.buddyArea : BitVec 16 → Nat

/-- The index of the error count of a memory (R263's rows) and address (R265, DESIGN CHOICE, log 36). -/
opaque Config.subArray : Nat → Nat → Nat

/-- The cycles that a requester loses at a bank in a span of time, by the span's number and 64 * requester + bank (R272, DESIGN CHOICE,
log 26). -/
opaque Config.conflicts : Nat → Nat → Nat

/-- The number of 64 KiB units one kept launch state takes, by number of instances (R205, DESIGN CHOICE, log 19). -/
opaque Config.keptUnits : Nat → Nat

end Sys2Proof
end

