-- ==== Sys2Proof/Syntax.lean ====
section
/-! DEFINITION. The abstract syntax: one constructor of `Instr` for each row of the opcode table, lane
instructions (R277-R286), command kinds (R102-R104) and the machine's events (95_what_each_step_holds). -/

namespace Sys2Proof

/-- The three streams of a core (R25). -/
inductive Lane where
  | c | a | x
  deriving DecidableEq, Repr

/-- The four command rings of a core (R105), coded 0 L, 1 K, 2 S, 3 G (R282). -/
inductive RingId where
  | l | k | s | g
  deriving DecidableEq, Repr

/-- The predicate pair of a word: `preg[p] xor n` governs it (R274). -/
structure Guard where
  p : BitVec 3
  n : Bool
  deriving DecidableEq, Repr

/-- The mask pair of a V-format word (R277, R279). -/
structure MaskSel where
  m : BitVec 3
  z : Bool
  deriving DecidableEq, Repr

/-- The engines that Markhor supervises (R223). -/
inductive EngineId where
  | array (cluster : BitVec 6)
  | copy (core : BitVec 8)
  | vec (core : BitVec 8)
  | coll (die : BitVec 2)
  deriving DecidableEq, Repr

/-- A fragment of a Gemsbok message: the 32 header bytes (byte 0 least significant), the CRC of flit 0
and the payload of flits 1-8 (R235, R236). -/
structure Fragment where
  hdr : BitVec 256
  crc : BitVec 32
  payload : List Byte
  deriving DecidableEq, Repr

/-- What the scrubber finds in an ECC word (R263). -/
inductive ScrubFinding where
  | clean | corrected | uncorrectable
  deriving DecidableEq, Repr

/-- The boot steps that fail, and that hang, when they run: bit `i` is step `i` + 1 (R256, R257). -/
structure BootFaults where
  failing : BitVec 9
  hanging : BitVec 9
  deriving DecidableEq, Repr

/-- The tenant of the host's context, and the Edzan Link port that its access names (R250). -/
structure HostSide where
  who : BitVec 6
  port : Bool
  deriving DecidableEq, Repr

/-- The instructions, command kinds and events of the C9. -/
inductive Instr where
  -- integer arithmetic (majors 0x01-0x0B)
  | add (g : Guard) (d a b : BitVec 5)
  | sub (g : Guard) (d a b : BitVec 5)
  | and (g : Guard) (d a b : BitVec 5)
  | or (g : Guard) (d a b : BitVec 5)
  | xor (g : Guard) (d a b : BitVec 5)
  | andn (g : Guard) (d a b : BitVec 5)
  | shl (g : Guard) (d a b : BitVec 5)
  | shr (g : Guard) (d a b : BitVec 5)
  | sar (g : Guard) (d a b : BitVec 5)
  | min (g : Guard) (d a b : BitVec 5)
  | minn (g : Guard) (d a b : BitVec 5)
  | max (g : Guard) (d a b : BitVec 5)
  | maxn (g : Guard) (d a b : BitVec 5)
  | mov (g : Guard) (d a : BitVec 5)
  | clz (g : Guard) (d a : BitVec 5)
  | ctz (g : Guard) (d a : BitVec 5)
  | popc (g : Guard) (d a : BitVec 5)
  | sel (g : Guard) (d a b : BitVec 5)
  | mul (g : Guard) (d a b : BitVec 5)
  | mulh (g : Guard) (d a b : BitVec 5)
  | mulhn (g : Guard) (d a b : BitVec 5)
  | div (g : Guard) (d a b : BitVec 5)
  | divn (g : Guard) (d a b : BitVec 5)
  | rem (g : Guard) (d a b : BitVec 5)
  | remn (g : Guard) (d a b : BitVec 5)
  | addi (g : Guard) (d a : BitVec 5) (i : BitVec 12)
  | andi (g : Guard) (d a : BitVec 5) (i : BitVec 12)
  | ori (g : Guard) (d a : BitVec 5) (i : BitVec 12)
  | xori (g : Guard) (d a : BitVec 5) (i : BitVec 12)
  | shli (g : Guard) (d a : BitVec 5) (s : BitVec 6)
  | shri (g : Guard) (d a : BitVec 5) (s : BitVec 6)
  | sari (g : Guard) (d a : BitVec 5) (s : BitVec 6)
  | funl (g : Guard) (d a b : BitVec 5) (s : BitVec 6)
  | funr (g : Guard) (d a b : BitVec 5) (s : BitVec 6)
  | cmp (g : Guard) (c : BitVec 2) (t : BitVec 3) (a b : BitVec 5) (w : BitVec 2) (k : BitVec 4)
  | cmpi (g : Guard) (c : BitVec 2) (t : BitVec 3) (a : BitVec 5) (k : BitVec 4) (i : BitVec 8)
  | li (g : Guard) (d : BitVec 5) (i : BitVec 17)
  | lui (g : Guard) (d : BitVec 5) (i : BitVec 17)
  | plog (g : Guard) (t a b : BitVec 3) (e : BitVec 4)
  -- addresses (majors 0x0D, 0x0E)
  | adda (g : Guard) (d a b : BitVec 5)
  | mova (g : Guard) (d a : BitVec 5)
  | movs (g : Guard) (d a : BitVec 5)
  | addai (g : Guard) (d a : BitVec 5) (i : BitVec 12)
  -- scalar floating point (majors 0x10-0x13)
  | fadd (g : Guard) (d a b : BitVec 5) (t : BitVec 3)
  | fsub (g : Guard) (d a b : BitVec 5) (t : BitVec 3)
  | fmul (g : Guard) (d a b : BitVec 5) (t : BitVec 3)
  | fmin (g : Guard) (d a b : BitVec 5) (t : BitVec 3)
  | fmax (g : Guard) (d a b : BitVec 5) (t : BitVec 3)
  | fclass (g : Guard) (d a : BitVec 5) (t : BitVec 3)
  | ffma (g : Guard) (d a b : BitVec 5) (t : BitVec 3)
  | fcmp (g : Guard) (c : BitVec 2) (u : BitVec 3) (a b : BitVec 5) (t k : BitVec 3)
  | fcvt (g : Guard) (d a : BitVec 5) (s : BitVec 4) (t : Bool) (y : BitVec 4) (r : BitVec 3)
  -- control transfer (majors 0x14-0x1A)
  | br (g : Guard) (l : BitVec 3) (o : BitVec 19)
  | jmp (l : BitVec 3) (o : BitVec 19)
  | call (g : Guard) (l : BitVec 3) (o : BitVec 19)
  | jmpi (g : Guard) (a : BitVec 5)
  | ret (g : Guard)
  | retA (g : Guard)
  | calli (g : Guard) (a : BitVec 5)
  | brx (g : Guard) (l : BitVec 3) (o : BitVec 19)
  | brq (q : BitVec 3) (n : Bool) (l : BitVec 3) (o : BitVec 19)
  | loop (g : Guard) (i : BitVec 4) (s : Bool) (a : BitVec 5) (st : BitVec 3)
  | endl (g : Guard) (i : BitVec 4) (m : Bool)
  -- memory (majors 0x1B-0x1F)
  | ld (g : Guard) (d a : BitVec 5) (c : BitVec 4) (z : BitVec 2) (o : BitVec 6)
  | lds (g : Guard) (d a : BitVec 5) (c : BitVec 4) (z : BitVec 2) (o : BitVec 6)
  | st (g : Guard) (d a : BitVec 5) (c : BitVec 4) (z : BitVec 2) (o : BitVec 6)
  | ldq (g : Guard) (q : BitVec 2) (a : BitVec 5) (c : BitVec 4) (o : BitVec 6)
  | stq (g : Guard) (a : BitVec 5) (c : BitVec 4) (z : BitVec 2) (o : BitVec 6)
  -- vectors (majors 0x20-0x2F)
  | vadd (k : MaskSel) (d a b : BitVec 5) (t : BitVec 4)
  | vsub (k : MaskSel) (d a b : BitVec 5) (t : BitVec 4)
  | vmul (k : MaskSel) (d a b : BitVec 5) (t : BitVec 4)
  | vmin (k : MaskSel) (d a b : BitVec 5) (t : BitVec 4)
  | vmax (k : MaskSel) (d a b : BitVec 5) (t : BitVec 4)
  | vabs (k : MaskSel) (d a : BitVec 5) (t : BitVec 4)
  | vneg (k : MaskSel) (d a : BitVec 5) (t : BitVec 4)
  | vfma (k : MaskSel) (d a b : BitVec 5) (t : BitVec 4)
  | vshl (k : MaskSel) (d a b : BitVec 5) (t : BitVec 4)
  | vshr (k : MaskSel) (d a b : BitVec 5) (t : BitVec 4)
  | vsar (k : MaskSel) (d a b : BitVec 5) (t : BitVec 4)
  | lut3 (m : BitVec 3) (d a b : BitVec 5) (i : BitVec 8)
  | vfunl (m : BitVec 3) (d a b : BitVec 5) (s : BitVec 6)
  | vfunr (m : BitVec 3) (d a b : BitVec 5) (s : BitVec 6)
  | vcmp (m : BitVec 3) (d : BitVec 3) (a b : BitVec 5) (t : BitVec 4) (c : BitVec 3)
  | vsel (m : BitVec 3) (d a b : BitVec 5)
  | vcvt (k : MaskSel) (d a : BitVec 5) (s : BitVec 4) (u : Bool) (y : BitVec 4) (r : BitVec 3)
  | vcvtbInto (e : BitVec 3) (d a : BitVec 5) (t : BitVec 4) (f : BitVec 2) (r : BitVec 3)
  | vcvtbOut (d a : BitVec 5) (t : BitVec 4) (f : BitVec 2) (r : BitVec 3)
  | vred (m : BitVec 3) (d a : BitVec 5) (t : BitVec 4) (o : BitVec 3)
  | vscan (k : MaskSel) (d a : BitVec 5) (t : BitVec 4) (o : BitVec 3)
  | vtopk (m : BitVec 3) (d a b : BitVec 5) (t : BitVec 4) (p : BitVec 2)
  | vperm (k : MaskSel) (d a b : BitVec 5) (t : BitVec 4)
  | vbcst (k : MaskSel) (d a : BitVec 5) (t : BitVec 4)
  | viota (k : MaskSel) (d : BitVec 5) (t : BitVec 4)
  | vext (d a b : BitVec 5) (t : BitVec 4)
  | vins (d a b : BitVec 5) (t : BitVec 4)
  | vexp2 (k : MaskSel) (d a : BitVec 5) (t : BitVec 4)
  | vlog2 (k : MaskSel) (d a : BitVec 5) (t : BitVec 4)
  | vrcp (k : MaskSel) (d a : BitVec 5) (t : BitVec 4)
  | vrsq (k : MaskSel) (d a : BitVec 5) (t : BitVec 4)
  | vrnd (k : MaskSel) (d : BitVec 5)
  | vpopc (k : MaskSel) (d a : BitVec 5) (t : BitVec 4)
  | vclz (k : MaskSel) (d a : BitVec 5) (t : BitVec 4)
  | vmask (k : MaskSel) (d : BitVec 5) (a : BitVec 3) (t : BitVec 4)
  | vld (k : Bool) (g : BitVec 2) (d a : BitVec 5) (c : BitVec 4) (o : BitVec 6)
  | vst (k : Bool) (g : BitVec 2) (d a : BitVec 5) (c : BitVec 4) (o : BitVec 6)
  -- command registers and rings (majors 0x32-0x35)
  | kclr (g : Guard) (k : BitVec 3)
  | kset (g : Guard) (k : BitVec 3) (w s : BitVec 5)
  | ksetd (g : Guard) (k : BitVec 3) (w s : BitVec 5)
  | kget (g : Guard) (k : BitVec 3) (w s : BitVec 5)
  | kld (g : Guard) (k : BitVec 3) (s : BitVec 5) (c : BitVec 4)
  | kst (g : Guard) (k : BitVec 3) (s : BitVec 5) (c : BitVec 4)
  | kseti (g : Guard) (k : BitVec 3) (w : BitVec 5) (i : BitVec 14)
  | kpush (g : Guard) (d a : BitVec 5) (q : BitVec 2)
  | knote (g : Guard) (d a : BitVec 5) (q : BitVec 2)
  | qkick (g : Guard) (a : BitVec 5) (q : Bool)
  | qlink (g : Guard) (q : Bool) (a b : BitVec 5)
  | qpop (g : Guard) (d : BitVec 5) (q : BitVec 3) (t : Bool) (f : BitVec 2)
  | qpush (g : Guard) (q : BitVec 3) (a : BitVec 5) (t : Bool) (f : BitVec 2)
  | qpeek (g : Guard) (d : BitVec 5) (q : BitVec 3)
  | qstat (g : Guard) (d a : BitVec 5) (r : BitVec 2)
  -- banks, accumulator, buffer rings (major 0x36)
  | bankm (g : Guard) (a b : BitVec 5)
  | bankf (g : Guard) (a b : BitVec 5)
  | accal (g : Guard) (d a : BitVec 5)
  | accfr (g : Guard) (a b : BitVec 5)
  | accgive (g : Guard) (a b : BitVec 5)
  | bacq (g : Guard) (d a : BitVec 5)
  | brel (g : Guard) (a : BitVec 5)
  | slotrel (g : Guard) (a b : BitVec 5)
  | cflush (g : Guard) (a : BitVec 5)
  | pref (g : Guard) (a : BitVec 5)
  -- reuse entries (major 0x37)
  | ruarm (g : Guard) (d a : BitVec 5)
  | ruinv (g : Guard) (d a : BitVec 5)
  | rustat (g : Guard) (d a : BitVec 5)
  -- synchronisation (majors 0x38-0x3B)
  | scpost (g : Guard) (a b : BitVec 5)
  | scread (g : Guard) (d a : BitVec 5)
  | scwait (g : Guard) (d a b : BitVec 5)
  | amo (g : Guard) (d a : BitVec 5) (c : BitVec 4) (w r q : Bool) (o : BitVec 4)
  | lock (g : Guard) (d a : BitVec 5)
  | unlock (g : Guard) (d a : BitVec 5)
  | bara (g : Guard) (d a : BitVec 5)
  | barw (g : Guard) (d a : BitVec 5) (q : BitVec 3)
  | baraw (g : Guard) (d a : BitVec 5) (q : BitVec 3)
  | wreg (g : Guard) (a : BitVec 5)
  | wdereg (g : Guard) (a : BitVec 5)
  | whold (g : Guard) (a : BitVec 5)
  | wholdRel (g : Guard) (a : BitVec 5)
  | mon (g : Guard) (d a : BitVec 5)
  | mwait (g : Guard) (d a : BitVec 5)
  | rend
  | fence (g : Guard) (m : BitVec 16)
  | fencesc (g : Guard)
  -- system (majors 0x3C, 0x3D, 0x3F)
  | sysrd (g : Guard) (d a : BitVec 5)
  | syswr (g : Guard) (a b : BitVec 5)
  | trap (g : Guard) (a : BitVec 5)
  | eret (g : Guard) (a b : BitVec 5)
  | bkpt (g : Guard)
  | time (g : Guard) (d : BitVec 5) (s : Bool)
  | pause (g : Guard) (a : BitVec 5)
  | idle (g : Guard)
  | nop (g : Guard)
  | gath (g : Guard) (q : BitVec 2) (a b : BitVec 5) (w : BitVec 2)
  | scat (g : Guard) (a b : BitVec 5) (w : BitVec 2)
  | ximm (i : BitVec 26)
  -- command kinds: the record of the named ring that is in state 7 (or, for LINK and NOTE, is fetched)
  | copy (core : BitVec 8) (ring : RingId)
  | gcopy (core : BitVec 8) (ring : RingId)
  | mcast (core : BitVec 8) (ring : RingId)
  | mxd (core : BitVec 8)
  | mxc (core : BitVec 8)
  | mxl (core : BitVec 8)
  | mxr (core : BitVec 8)
  | mxdrn (core : BitVec 8)
  | coll (core : BitVec 8)
  | null (core : BitVec 8) (ring : RingId)
  | link (core : BitVec 8) (ring : RingId)
  | note (core : BitVec 8) (ring : RingId)
  -- stages of a record
  | recordFetch (core : BitVec 8) (ring : RingId)
  | recordWaitsSatisfied (core : BitVec 8) (ring : RingId)
  | recordOrderSatisfied (core : BitVec 8) (ring : RingId)
  | permitGrant (core : BitVec 8) (ring : RingId)
  | recordTokenPop (core : BitVec 8) (ring : RingId)
  | progressMark (core : BitVec 8) (ring : RingId)
  | tileCommit (core : BitVec 8)
  | recordRetire (core : BitVec 8) (ring : RingId)
  | chainModeEnter (core : BitVec 8) (ring : RingId)
  | chainFetch (core : BitVec 8) (ring : RingId)
  | copyShareSplit (core : BitVec 8)
  | leaseRunTimeout (cluster : BitVec 6)
  | leasePermitStall (cluster : BitVec 6)
  -- core events
  | jobComplete (core : BitVec 8)
  | hostCompletionEntry (tenant : BitVec 6)
  | queueDeadlockTrap (core : BitVec 8)
  | addressQueueFault (core : BitVec 8)
  | tlbWalkComplete (die : BitVec 2)
  | bankmApply (cluster : BitVec 6) (bank : BitVec 6)
  -- Tahr store
  | counterPostPerform (die : BitVec 2)
  | postRefusalReturn (die : BitVec 2)
  | unregisteredRecheck (core : BitVec 8) (lane : Lane)
  | tahrForward (die : BitVec 2)
  | mwaitTimeout (core : BitVec 8)
  | idleTimeout (core : BitVec 8)
  | pauseExpire (core : BitVec 8) (lane : Lane)
  | fencescCompletion (core : BitVec 8) (lane : Lane)
  | objAlloc (die : BitVec 2)
  | objFree (die : BitVec 2)
  | objRearm (die : BitVec 2)
  -- translation and system registers
  | map (die : BitVec 2)
  | unmap (die : BitVec 2)
  | changePermissions (die : BitVec 2)
  | mapShootdownDone (die : BitVec 2)
  -- scheduling
  | launchPlace (tenant : BitVec 6) (queue : BitVec 3) (record : BitVec 32)
  | preempt (core : BitVec 8)
  | preemptSave (core : BitVec 8)
  | restore (saved : Nat) (core : BitVec 8)
  | gangGateOpen (tenant : BitVec 6) (queue : BitVec 3) (record : BitVec 32)
  | gangCancel (tenant : BitVec 6) (queue : BitVec 3) (record : BitVec 32)
  | recordStallStop (core : BitVec 8) (ring : RingId)
  | faultQueueCopy (tenant : BitVec 6)
  -- Markhor
  | watchdogAlarm (engine : EngineId)
  | scrubResetDue (engine : EngineId)
  | markhorDrainDone (engine : EngineId)
  | markhorHoldExpire (engine : EngineId)
  | markhorReload (engine : EngineId) (readable : Bool)
  | coreResetComplete (core : BitVec 8) (readable : Bool)
  | mkctlEngineReset (die : BitVec 2)
  | mkctlCoreReset (die : BitVec 2)
  | mkctlDieWarmReset (die : BitVec 2)
  | mkctlTenantReset (die : BitVec 2)
  | mkctlModuleReset (die : BitVec 2)
  | dieQuiesceDone (die : BitVec 2)
  | dieWritebackDone (die : BitVec 2)
  | dieResetDone (die : BitVec 2)
  | dieRetrainDone (die : BitVec 2)
  | dieReadmit (die : BitVec 2)
  -- fabric
  | recvNackDeadline (die : BitVec 2) (src : BitVec 16) (msgid : BitVec 32)
  | recvAbandonDeadline (die : BitVec 2) (src : BitVec 16) (msgid : BitVec 32)
  | sendRetransmitTimeout (die : BitVec 2) (msgid : BitVec 32)
  | sendLossTimeout (die : BitVec 2) (msgid : BitVec 32)
  | collTimeout (core : BitVec 8)
  | routeSwap (die : BitVec 2)
  -- host, boot, checkpoint
  | submitSysregWrite (tenant : BitVec 6)
  | submitAttestation (tenant : BitVec 6)
  | submitPreemptionNotice (tenant : BitVec 6)
  -- reliability and debug
  | auditReplay (die : BitVec 2)
  | auditCompare (die : BitVec 2)
  -- what comes from outside the module, and what its controller does
  | parityAlarm (engine : EngineId)
  | protocolAlarm (engine : EngineId)
  | ucieLinkDown (d e : BitVec 2)
  | ucieLinkUp (d e : BitVec 2)
  | fragmentDataReceive (die : BitVec 2) (frag : Fragment)
  | fragmentParityReceive (die : BitVec 2) (frag : Fragment)
  | ackReceive (die : BitVec 2) (frag : Fragment)
  | nackReceive (die : BitVec 2) (frag : Fragment)
  | lossReceive (die : BitVec 2) (frag : Fragment)
  | gangCancelReceive (die : BitVec 2) (frag : Fragment)
  | portDown (port : BitVec 5)
  | portUp (port : BitVec 5)
  | edzanPortDown (port : Bool)
  | edzanPortUp (port : Bool)
  | powerOnBoot (failing : BootFaults)
  | hsqtailWrite (who tenant : BitVec 6) (value : Word)
  | stgcfgCacheWrite (tenant : BitVec 6) (slice : BitVec 7) (value : Word)
  | lqtailWrite (who tenant : BitVec 6) (queue : BitVec 3) (value : Word)
  | fqresWrite (who tenant : BitVec 6) (value : Word)
  | rtswapWrite (who : BitVec 6) (die : BitVec 2) (value : Word)
  | bootclrWrite (who : BitVec 6) (value : Word)
  | mmclrWrite (who : BitVec 6) (die : BitVec 2) (value : Word)
  | sysregWrite (who : BitVec 6) (number : BitVec 32) (value : Word)
  | systemSpaceAccess (who : BitVec 6) (addr : Word) (write : Bool) (value : Word)
  | hostMemoryAccess (port : HostSide) (addr : Word) (write : Bool) (data : List Byte)
  | scrubWord (die : BitVec 2) (memory : BitVec 3) (addr : Nat) (finding : ScrubFinding)
  | dbgSoftHalt (core : BitVec 8)
  | dbgHardHalt (core : BitVec 8)
  | dbgPreciseHalt (core : BitVec 8) (level : BitVec 4)
  | dbgResume (core : BitVec 8)
  | throttlingBubble (cycles : Nat)
  | portNotice
  | ckctlSnapshot
  | ckctlRestore
  | ckctlDiscard
  | checkpointChunkCopy
  | snapshotComplete
  | mismatchSave
  deriving DecidableEq, Repr

end Sys2Proof
end

