-- ==== Sys2Proof/WellFormed.lean ====
section
/-! DEFINITION. Well-formed instructions: the checks of R275 that do not depend on the stream (check 6, and the
codes check 4 reserves), and the checks that do: the streams of R27 and R40 (check 5) and the registers a stream
has (check 7, R278). -/

namespace Sys2Proof

/-- The floating-point types f32, bf16 and f16 of R283. -/
def isF (t : BitVec 4) : Bool := t == 0 || t == 2 || t == 3

/-- The integer types s8 to n64 of R283. -/
def isI (t : BitVec 4) : Bool := 6 ≤ t.toNat && t.toNat ≤ 13

/-- F or I (R283). -/
def isFI (t : BitVec 4) : Bool := isF t || isI t

/-- A scalar floating-point type code of R280. -/
def scalarTypeOk (t : BitVec 3) : Bool := t.toNat ≤ 3

/-- A combine code of CMP that is not reserved (R309). -/
def combineOk (c : BitVec 2) : Bool := c != 3

/-- A condition code of CMP that is not reserved (R309). -/
def condOk (k : BitVec 4) : Bool := k.toNat ≤ 9

/-- A rounding code that an instruction may name (R327). -/
def roundOk (r : BitVec 3) : Bool := r.toNat ≤ 5

/-- A type code of R62. -/
def typeOk (t : BitVec 4) : Bool := t.toNat ≤ 13

/-- A type VCVT converts: F, I, e4m3 or e5m2 (R283). -/
def vcvtTypeOk (t : BitVec 4) : Bool := isFI t || t == 4 || t == 5

/-- An operation of VRED and VSCAN that the type allows (R399). -/
def redOk (t : BitVec 4) (o : BitVec 3) : Bool := isFI t && (o.toNat ≤ 2 || (o.toNat ≤ 5 && isI t))

/-- Token bit and agent field (R282, R284): agent 2 is X itself, and an agent needs the token bit. -/
def tokenOk (t : Bool) (f : BitVec 2) : Bool := f != 2 && (t || f == 0)

/-- The stream that pops a queue register (R40). -/
def queueConsumer (q : BitVec 3) : Lane :=
  if q == 4 || q == 5 then .a else if q == 7 then .c else .x

/-- The stream that may name a queue register in QPUSH (R40, R372), when there is one. -/
def queuePusher (q : BitVec 3) : Option Lane :=
  if q == 4 || q == 7 then some .x else if q == 5 || q == 6 then some .c else none

/-- The checks on an instruction's fields that are the same in every stream. An instruction that fails them is the
decoding of no word. -/
def Instr.wellFormed : Instr → Bool
  | .cmp _ c _ _ _ _ k => combineOk c && condOk k
  | .cmpi _ c _ _ k _ => combineOk c && condOk k
  | .fadd _ _ _ _ t | .fsub _ _ _ _ t | .fmul _ _ _ _ t | .fmin _ _ _ _ t | .fmax _ _ _ _ t
  | .ffma _ _ _ _ t => scalarTypeOk t
  | .fclass _ _ _ t => scalarTypeOk t
  | .fcmp _ c _ _ _ t _ => combineOk c && scalarTypeOk t
  | .fcvt _ _ _ s _ y r => typeOk s && typeOk y && roundOk r
  | .br g _ _ => !(g.p == 0 && !g.n)
  | .jmpi _ a => !(a == 31) && !(a == 15)
  | .brq q _ _ _ => q.toNat ≤ 2
  | .loop _ _ sp _ n => if sp then n.toNat ≤ 4 else n == 0
  | .vadd _ _ _ _ t | .vsub _ _ _ _ t | .vmul _ _ _ _ t | .vmin _ _ _ _ t | .vmax _ _ _ _ t
  | .vperm _ _ _ _ t => isFI t
  | .vabs _ _ _ t | .vneg _ _ _ t => isF t || (isI t && t.toNat ≤ 9)
  | .vfma _ _ _ _ t => isF t
  | .vshl _ _ _ _ t | .vshr _ _ _ _ t | .vsar _ _ _ _ t => isI t
  | .vcmp _ _ _ _ t c => isFI t && (c.toNat ≤ 5 || isF t)
  | .vcvt _ _ _ s _ y r => vcvtTypeOk s && vcvtTypeOk y && roundOk r
  | .vcvtbInto e _ _ t f r =>
    isF t && roundOk r && (if f.toNat ≤ 1 then r == 0 else e == 0)
  | .vcvtbOut _ _ t _ r => isF t && roundOk r
  | .vred _ _ _ t o => redOk t o
  | .vscan _ _ _ t o => redOk t o
  | .vtopk _ _ _ _ t p => isFI t && p != 3
  | .vbcst _ _ _ t => isFI t
  | .viota _ _ t => isFI t
  | .vext _ _ _ t | .vins _ _ _ t => isFI t
  | .vexp2 _ _ _ t | .vlog2 _ _ _ t | .vrcp _ _ _ t | .vrsq _ _ _ t => isF t
  | .vpopc _ _ _ t | .vclz _ _ _ t => isI t
  | .vmask _ _ _ t => isI t
  | .vld k g _ _ _ _ | .vst k g _ _ _ _ => tokenOk k g
  | .ksetd _ _ w _ => !w.getLsbD 0
  | .qpop _ _ q t f => tokenOk t f && (!t || queueConsumer q == .x)
  | .qpush _ q _ t f => tokenOk t f && (!t || queuePusher q == some .x)
  | .amo _ _ _ _ _ _ _ o => o.toNat ≤ 10
  | _ => true

/-- An instruction that a stream executes: a row of the table with an encoding. -/
def Instr.isLane : Instr → Bool
  | .add .. | .sub .. | .and .. | .or .. | .xor .. | .andn .. | .shl .. | .shr .. | .sar .. | .min .. | .minn ..
  | .max .. | .maxn .. | .mov .. | .clz .. | .ctz .. | .popc .. | .sel .. | .mul .. | .mulh .. | .mulhn ..
  | .div .. | .divn .. | .rem .. | .remn .. | .addi .. | .andi .. | .ori .. | .xori .. | .shli .. | .shri ..
  | .sari .. | .funl .. | .funr .. | .cmp .. | .cmpi .. | .li .. | .lui .. | .plog .. | .adda .. | .mova ..
  | .movs .. | .addai .. | .fadd .. | .fsub .. | .fmul .. | .fmin .. | .fmax .. | .fclass .. | .ffma .. | .fcmp ..
  | .fcvt .. | .br .. | .jmp .. | .call .. | .jmpi .. | .ret .. | .retA .. | .calli .. | .brx .. | .brq .. | .loop ..
  | .endl .. | .ld .. | .lds .. | .st .. | .ldq .. | .stq .. | .vadd .. | .vsub .. | .vmul .. | .vmin .. | .vmax ..
  | .vabs .. | .vneg .. | .vfma .. | .vshl .. | .vshr .. | .vsar .. | .lut3 .. | .vfunl .. | .vfunr .. | .vcmp ..
  | .vsel .. | .vcvt .. | .vcvtbInto .. | .vcvtbOut .. | .vred .. | .vscan .. | .vtopk .. | .vperm .. | .vbcst ..
  | .viota .. | .vext .. | .vins .. | .vexp2 .. | .vlog2 .. | .vrcp .. | .vrsq .. | .vrnd .. | .vpopc .. | .vclz ..
  | .vmask .. | .vld .. | .vst .. | .kclr .. | .kset .. | .ksetd .. | .kget .. | .kld .. | .kst .. | .kseti ..
  | .kpush .. | .knote .. | .qkick .. | .qlink .. | .qpop .. | .qpush .. | .qpeek .. | .qstat .. | .bankm ..
  | .bankf .. | .accal .. | .accfr .. | .accgive .. | .bacq .. | .brel .. | .slotrel .. | .cflush .. | .pref ..
  | .ruarm .. | .ruinv .. | .rustat .. | .scpost .. | .scread .. | .scwait .. | .amo .. | .lock .. | .unlock ..
  | .bara .. | .barw .. | .baraw .. | .wreg .. | .wdereg .. | .whold .. | .wholdRel .. | .mon .. | .mwait .. | .rend
  | .fence .. | .fencesc .. | .sysrd .. | .syswr .. | .trap .. | .eret .. | .bkpt .. | .time .. | .pause .. | .idle ..
  | .nop .. | .gath .. | .scat .. | .ximm .. => true
  | _ => false

/-- The streams that may execute an instruction with its selection of queue or ring (R27, R40, R280-R285). -/
def Instr.streams : Instr → List Lane
  | .adda .. | .mova .. | .movs .. | .addai .. | .brx .. | .ld .. | .lds .. | .st .. | .kclr .. | .kset ..
  | .ksetd .. | .kget .. | .kld .. | .kst .. | .kseti .. | .bacq .. | .brel .. | .scread .. | .amo ..
  | .pause .. => [.c, .a]
  | .fadd .. | .fsub .. | .fmul .. | .fmin .. | .fmax .. | .fclass .. | .ffma .. | .fcmp .. | .fcvt .. => [.c, .x]
  | .ldq .. | .stq .. | .gath .. | .scat .. => [.a]
  | .vadd .. | .vsub .. | .vmul .. | .vmin .. | .vmax .. | .vabs .. | .vneg .. | .vfma .. | .vshl .. | .vshr ..
  | .vsar .. | .lut3 .. | .vfunl .. | .vfunr .. | .vcmp .. | .vsel .. | .vcvt .. | .vcvtbInto .. | .vcvtbOut ..
  | .vred .. | .vscan .. | .vtopk .. | .vperm .. | .vbcst .. | .viota .. | .vext .. | .vins .. | .vexp2 ..
  | .vlog2 .. | .vrcp .. | .vrsq .. | .vrnd .. | .vpopc .. | .vclz .. | .vmask .. | .vld .. | .vst .. => [.x]
  | .qkick .. | .qlink .. | .bankm .. | .bankf .. | .accal .. | .accfr .. | .accgive .. | .slotrel .. | .cflush ..
  | .pref .. | .ruarm .. | .ruinv .. | .rustat .. | .lock .. | .unlock .. | .bara .. | .barw .. | .baraw ..
  | .wreg .. | .wdereg .. | .whold .. | .wholdRel .. | .mon .. | .mwait .. | .sysrd .. | .syswr .. | .trap ..
  | .eret .. | .bkpt .. | .idle .. => [.c]
  | .kpush _ _ _ q | .knote _ _ _ q => if q == 1 || q == 3 then [.c] else [.a]
  | .qpop _ _ q _ _ | .qpeek _ _ q => [queueConsumer q]
  | .qpush _ q _ _ _ => (queuePusher q).toList
  | .brq q _ _ _ => if q == 0 then [.a] else [.x]
  | i => if i.isLane then [.c, .a, .x] else []

/-- A scalar register that the stream has (R26). -/
def sOk (l : Lane) (r : BitVec 5) : Bool := l != .a || r.toNat < 16

/-- An address register that the stream has (R26). -/
def aOk (l : Lane) (r : BitVec 5) : Bool := l != .x && r.toNat < 16

/-- A command register that the stream has (R26). -/
def kOk (l : Lane) (k : Nat) : Bool := (l == .c && k < 8) || (l == .a && k < 4)

/-- Every register field names a register of the stream (check 7 of R275, R278). -/
def Instr.regsOk (l : Lane) : Instr → Bool
  | .add _ d a b | .sub _ d a b | .and _ d a b | .or _ d a b | .xor _ d a b | .andn _ d a b | .shl _ d a b
  | .shr _ d a b | .sar _ d a b | .min _ d a b | .minn _ d a b | .max _ d a b | .maxn _ d a b | .sel _ d a b
  | .mul _ d a b | .mulh _ d a b | .mulhn _ d a b | .div _ d a b | .divn _ d a b | .rem _ d a b
  | .remn _ d a b => sOk l d && sOk l a && sOk l b
  | .mov _ d a | .clz _ d a | .ctz _ d a | .popc _ d a => sOk l d && sOk l a
  | .addi _ d a _ | .andi _ d a _ | .ori _ d a _ | .xori _ d a _ => sOk l d && sOk l a
  | .shli _ d a _ | .shri _ d a _ | .sari _ d a _ => sOk l d && sOk l a
  | .funl _ d a b _ | .funr _ d a b _ => sOk l d && sOk l a && sOk l b
  | .cmp _ _ _ a b _ _ => sOk l a && sOk l b
  | .cmpi _ _ _ a _ _ => sOk l a
  | .li _ d _ | .lui _ d _ => sOk l d
  | .adda _ d a b => aOk l d && aOk l a && sOk l b
  | .mova _ d a => aOk l d && sOk l a
  | .movs _ d a => sOk l d && aOk l a
  | .addai _ d a _ => aOk l d && aOk l a
  | .jmpi _ a | .calli _ a => sOk l a
  | .ret _ => l != .a
  | .loop _ _ _ a _ => sOk l a
  | .ld _ d a _ _ _ | .lds _ d a _ _ _ | .st _ d a _ _ _ => sOk l d && aOk l a
  | .ldq _ _ a _ _ | .stq _ a _ _ _ => aOk l a
  | .vtopk _ d _ _ _ _ => d != 31
  | .kclr _ k => kOk l k.toNat
  | .kset _ k _ s | .ksetd _ k _ s | .kget _ k _ s => kOk l k.toNat && sOk l s
  | .kld _ k s _ | .kst _ k s _ => kOk l k.toNat && aOk l s
  | .kseti _ k _ _ => kOk l k.toNat
  | .kpush _ d a _ => sOk l d && kOk l a.toNat
  | .knote _ d a _ => sOk l d && sOk l a
  | .qkick _ a _ => sOk l a
  | .qlink _ _ a b => aOk l a && sOk l b
  | .qpop _ d q _ _ | .qpeek _ d q => q.toNat < 4 || sOk l d
  | .qpush _ _ a _ _ => sOk l a
  | .qstat _ d a _ => sOk l d && sOk l a
  | .bacq _ d a => aOk l d && sOk l a
  | .brel _ a => sOk l a
  | .cflush _ a | .pref _ a => aOk l a
  | .ruarm _ d a => sOk l d && aOk l a
  | .scpost _ a b => sOk l a && sOk l b
  | .scread _ d a => sOk l d && sOk l a
  | .scwait _ d a b => sOk l d && sOk l a && sOk l b
  | .amo _ d a _ _ _ _ o => sOk l d && aOk l a && (o != 9 || (sOk l (d + 1) && d != 31))
  | .mon _ d a => sOk l d && aOk l a
  | .time _ d _ => sOk l d
  | .pause _ a => sOk l a
  | .gath _ _ a b _ | .scat _ a b _ => aOk l a && aOk l b
  | _ => true

end Sys2Proof
end

