-- ==== Sys2Proof/Decode.lean ====
section
/-! DEFINITION. Lane words: the fields of R277, the decoder (checks 2, 4 and 6 of R275 in the opcode map of
R280-R286), and the encoder, written from the same tables. -/

namespace Sys2Proof

/-- Why a word is no instruction: check 2 or 4 of R275 fails (`reserved`), or check 6 does, in which case check 5
of the streams given comes first. -/
inductive DecodeErr where
  | reserved
  | field (streams : List Lane)
  deriving DecidableEq, Repr

/-- The fields of the lane word formats (R277). -/
def fOp (w : LaneWord) : BitVec 6 := w.extractLsb' 26 6
def fPr (w : LaneWord) : BitVec 3 := w.extractLsb' 23 3
def fPn (w : LaneWord) : BitVec 1 := w.extractLsb' 22 1
def fD (w : LaneWord) : BitVec 5 := w.extractLsb' 17 5
def fA (w : LaneWord) : BitVec 5 := w.extractLsb' 12 5
def fB (w : LaneWord) : BitVec 5 := w.extractLsb' 7 5
def fFn (w : LaneWord) : BitVec 7 := w.extractLsb' 0 7
def fImm12 (w : LaneWord) : BitVec 12 := w.extractLsb' 0 12
def fImm17 (w : LaneWord) : BitVec 17 := w.extractLsb' 0 17
def fLn (w : LaneWord) : BitVec 3 := w.extractLsb' 19 3
def fOff19 (w : LaneWord) : BitVec 19 := w.extractLsb' 0 19
def fCls (w : LaneWord) : BitVec 4 := w.extractLsb' 8 4
def fSz (w : LaneWord) : BitVec 2 := w.extractLsb' 6 2
def fOff6 (w : LaneWord) : BitVec 6 := w.extractLsb' 0 6
def fTd (w : LaneWord) : BitVec 5 := w.extractLsb' 18 5
def fTa (w : LaneWord) : BitVec 5 := w.extractLsb' 13 5
def fTb (w : LaneWord) : BitVec 5 := w.extractLsb' 8 5
def fImm8 (w : LaneWord) : BitVec 8 := w.extractLsb' 0 8
def fKk (w : LaneWord) : BitVec 3 := w.extractLsb' 19 3
def fKw (w : LaneWord) : BitVec 5 := w.extractLsb' 14 5
def fKs (w : LaneWord) : BitVec 5 := w.extractLsb' 9 5
def fKx (w : LaneWord) : BitVec 9 := w.extractLsb' 0 9
def fImm14 (w : LaneWord) : BitVec 14 := w.extractLsb' 0 14
def fImm26 (w : LaneWord) : BitVec 26 := w.extractLsb' 0 26

/-- A one-bit field as a truth value, and back. -/
def bit (b : BitVec 1) : Bool := b == 1#1
def ofBit (b : Bool) : BitVec 1 := if b then 1#1 else 0#1

/-- The predicate pair. -/
def fG (w : LaneWord) : Guard := ⟨fPr w, bit (fPn w)⟩

/-- The mask pair. -/
def fM (w : LaneWord) : MaskSel := ⟨fPr w, bit (fPn w)⟩

/-- Check 6: the fields marked zero are zero, and the codes are ones the instruction allows. -/
def chk (zeros : Bool) (i : Instr) : Except DecodeErr Instr :=
  if zeros && i.wellFormed then .ok i else .error (.field i.streams)

/-- Major 0x01 (R281). -/
def decodeAlu (w : LaneWord) : Except DecodeErr Instr :=
  let g := fG w
  let d := fD w
  let a := fA w
  let b := fB w
  match (fFn w).toNat with
  | 0x00 => chk true (.add g d a b)
  | 0x01 => chk true (.sub g d a b)
  | 0x02 => chk true (.and g d a b)
  | 0x03 => chk true (.or g d a b)
  | 0x04 => chk true (.xor g d a b)
  | 0x05 => chk true (.andn g d a b)
  | 0x06 => chk true (.shl g d a b)
  | 0x07 => chk true (.shr g d a b)
  | 0x08 => chk true (.sar g d a b)
  | 0x09 => chk true (.min g d a b)
  | 0x0A => chk true (.minn g d a b)
  | 0x0B => chk true (.max g d a b)
  | 0x0C => chk true (.maxn g d a b)
  | 0x0D => chk (b == 0) (.mov g d a)
  | 0x0E => chk (b == 0) (.clz g d a)
  | 0x0F => chk (b == 0) (.ctz g d a)
  | 0x10 => chk (b == 0) (.popc g d a)
  | 0x11 => chk true (.sel g d a b)
  | 0x13 => chk true (.mul g d a b)
  | 0x14 => chk true (.mulh g d a b)
  | 0x15 => chk true (.mulhn g d a b)
  | 0x16 => chk true (.div g d a b)
  | 0x17 => chk true (.divn g d a b)
  | 0x18 => chk true (.rem g d a b)
  | 0x19 => chk true (.remn g d a b)
  | _ => .error .reserved

/-- Major 0x06: `imm[11:10]` selects, `imm[9:6]` is zero (R377). -/
def decodeShift (w : LaneWord) : Except DecodeErr Instr :=
  let z := (fImm12 w).extractLsb' 6 4 == 0
  match ((fImm12 w).extractLsb' 10 2).toNat with
  | 0 => chk z (.shli (fG w) (fD w) (fA w) (fOff6 w))
  | 1 => chk z (.shri (fG w) (fD w) (fA w) (fOff6 w))
  | 2 => chk z (.sari (fG w) (fD w) (fA w) (fOff6 w))
  | _ => .error .reserved

/-- Major 0x0D (R280). -/
def decodeAddr (w : LaneWord) : Except DecodeErr Instr :=
  match (fFn w).toNat with
  | 0 => chk true (.adda (fG w) (fD w) (fA w) (fB w))
  | 1 => chk (fB w == 0) (.mova (fG w) (fD w) (fA w))
  | 2 => chk (fB w == 0) (.movs (fG w) (fD w) (fA w))
  | _ => .error .reserved

/-- Major 0x10 (R324). -/
def decodeFp (w : LaneWord) : Except DecodeErr Instr :=
  let t := (fFn w).extractLsb' 4 3
  match ((fFn w).extractLsb' 0 4).toNat with
  | 0 => chk true (.fadd (fG w) (fD w) (fA w) (fB w) t)
  | 1 => chk true (.fsub (fG w) (fD w) (fA w) (fB w) t)
  | 2 => chk true (.fmul (fG w) (fD w) (fA w) (fB w) t)
  | 3 => chk true (.fmin (fG w) (fD w) (fA w) (fB w) t)
  | 4 => chk true (.fmax (fG w) (fD w) (fA w) (fB w) t)
  | 5 => chk (fB w == 0) (.fclass (fG w) (fD w) (fA w) t)
  | _ => .error .reserved

/-- Major 0x16: RET and RET_A are JMPI on the link registers (R336). -/
def decodeJump (w : LaneWord) : Except DecodeErr Instr :=
  let z := fD w == 0 && fB w == 0
  match (fFn w).toNat with
  | 0 => if fA w == 31 then chk z (.ret (fG w)) else if fA w == 15 then chk z (.retA (fG w))
         else chk z (.jmpi (fG w) (fA w))
  | 1 => chk z (.calli (fG w) (fA w))
  | _ => .error .reserved

/-- Major 0x20 (R389). -/
def decodeVArith (w : LaneWord) : Except DecodeErr Instr :=
  let t := (fFn w).extractLsb' 3 4
  match ((fFn w).extractLsb' 0 3).toNat with
  | 0 => chk true (.vadd (fM w) (fD w) (fA w) (fB w) t)
  | 1 => chk true (.vsub (fM w) (fD w) (fA w) (fB w) t)
  | 2 => chk true (.vmul (fM w) (fD w) (fA w) (fB w) t)
  | 3 => chk true (.vmin (fM w) (fD w) (fA w) (fB w) t)
  | 4 => chk true (.vmax (fM w) (fD w) (fA w) (fB w) t)
  | 5 => chk (fB w == 0) (.vabs (fM w) (fD w) (fA w) t)
  | 6 => chk (fB w == 0) (.vneg (fM w) (fD w) (fA w) t)
  | _ => .error (.field [.x])

/-- Major 0x22 (R402). -/
def decodeVShift (w : LaneWord) : Except DecodeErr Instr :=
  let t := (fFn w).extractLsb' 3 4
  match ((fFn w).extractLsb' 0 3).toNat with
  | 0 => chk true (.vshl (fM w) (fD w) (fA w) (fB w) t)
  | 1 => chk true (.vshr (fM w) (fD w) (fA w) (fB w) t)
  | 2 => chk true (.vsar (fM w) (fD w) (fA w) (fB w) t)
  | _ => .error (.field [.x])

/-- Major 0x24 (R397). -/
def decodeVFunnel (w : LaneWord) : Except DecodeErr Instr :=
  let z := (fImm8 w).extractLsb' 6 1 == 0
  if (fImm8 w).extractLsb' 7 1 == 0 then chk z (.vfunl (fPr w) (fTd w) (fTa w) (fTb w) (fOff6 w))
  else chk z (.vfunr (fPr w) (fTd w) (fTa w) (fTb w) (fOff6 w))

/-- Major 0x28 (R394). -/
def decodeVcvtb (w : LaneWord) : Except DecodeErr Instr :=
  let z := fPn w == 0 && (fFn w).extractLsb' 3 1 == 0 && (fB w).extractLsb' 0 1 == 0
  let t := (fB w).extractLsb' 1 4
  let f := (fFn w).extractLsb' 4 2
  let r := (fFn w).extractLsb' 0 3
  if (fFn w).extractLsb' 6 1 == 0 then chk z (.vcvtbInto (fPr w) (fD w) (fA w) t f r)
  else chk (z && fPr w == 0) (.vcvtbOut (fD w) (fA w) t f r)

/-- Major 0x2C (R390). -/
def decodeVMove (w : LaneWord) : Except DecodeErr Instr :=
  let t := (fFn w).extractLsb' 3 4
  match ((fFn w).extractLsb' 0 3).toNat with
  | 0 => chk true (.vperm (fM w) (fD w) (fA w) (fB w) t)
  | 1 => chk (fB w == 0) (.vbcst (fM w) (fD w) (fA w) t)
  | 2 => chk (fA w == 0 && fB w == 0) (.viota (fM w) (fD w) t)
  | 3 => chk (fPr w == 0 && fPn w == 0) (.vext (fD w) (fA w) (fB w) t)
  | 4 => chk (fPr w == 0 && fPn w == 0) (.vins (fD w) (fA w) (fB w) t)
  | _ => .error (.field [.x])

/-- Major 0x2D (R395). -/
def decodeVFunc (w : LaneWord) : Except DecodeErr Instr :=
  let t := (fFn w).extractLsb' 3 4
  let z := fB w == 0
  match ((fFn w).extractLsb' 0 3).toNat with
  | 0 => chk z (.vexp2 (fM w) (fD w) (fA w) t)
  | 1 => chk z (.vlog2 (fM w) (fD w) (fA w) t)
  | 2 => chk z (.vrcp (fM w) (fD w) (fA w) t)
  | 3 => chk z (.vrsq (fM w) (fD w) (fA w) t)
  | _ => .error (.field [.x])

/-- Major 0x2F (R391). -/
def decodeVBits (w : LaneWord) : Except DecodeErr Instr :=
  let t := (fFn w).extractLsb' 3 4
  let z := fB w == 0
  match ((fFn w).extractLsb' 0 3).toNat with
  | 0 => chk z (.vpopc (fM w) (fD w) (fA w) t)
  | 1 => chk z (.vclz (fM w) (fD w) (fA w) t)
  | 2 => chk (z && (fA w).extractLsb' 3 2 == 0) (.vmask (fM w) (fD w) ((fA w).extractLsb' 0 3) t)
  | _ => .error (.field [.x])

/-- Major 0x32 (R285). -/
def decodeK (w : LaneWord) : Except DecodeErr Instr :=
  let z := (fKx w).extractLsb' 0 6 == 0
  let zc := (fKx w).extractLsb' 4 2 == 0
  let c := (fKx w).extractLsb' 0 4
  match ((fKx w).extractLsb' 6 3).toNat with
  | 0 => chk (z && fKw w == 0 && fKs w == 0) (.kclr (fG w) (fKk w))
  | 1 => chk z (.kset (fG w) (fKk w) (fKw w) (fKs w))
  | 2 => chk z (.ksetd (fG w) (fKk w) (fKw w) (fKs w))
  | 3 => chk z (.kget (fG w) (fKk w) (fKw w) (fKs w))
  | 4 => chk (zc && fKw w == 0) (.kld (fG w) (fKk w) (fKs w) c)
  | 5 => chk (zc && fKw w == 0) (.kst (fG w) (fKk w) (fKs w) c)
  | _ => .error .reserved

/-- Major 0x34 (R282). -/
def decodeRing (w : LaneWord) : Except DecodeErr Instr :=
  let z := (fB w).extractLsb' 2 3 == 0
  let q := (fB w).extractLsb' 0 2
  match (fFn w).toNat with
  | 0 => chk z (.kpush (fG w) (fD w) (fA w) q)
  | 1 => chk z (.knote (fG w) (fD w) (fA w) q)
  | 2 => if (fB w).extractLsb' 0 1 == 0 then chk (z && fD w == 0) (.qkick (fG w) (fA w) (bit ((fB w).extractLsb' 1 1)))
      else .error (.field [.c, .a, .x])
  | 3 => if (fD w).extractLsb' 0 1 == 0 then chk ((fD w).extractLsb' 2 3 == 0) (.qlink (fG w) (bit ((fD w).extractLsb' 1 1)) (fA w) (fB w))
      else .error (.field [.c, .a, .x])
  | _ => .error .reserved

/-- Major 0x35 (R282). -/
def decodeQueue (w : LaneWord) : Except DecodeErr Instr :=
  let t := bit ((fB w).extractLsb' 4 1)
  let f := (fB w).extractLsb' 2 2
  let zb := (fB w).extractLsb' 0 2 == 0
  match (fFn w).toNat with
  | 0 => chk (zb && (fA w).extractLsb' 3 2 == 0) (.qpop (fG w) (fD w) ((fA w).extractLsb' 0 3) t f)
  | 1 => chk (zb && (fD w).extractLsb' 3 2 == 0) (.qpush (fG w) ((fD w).extractLsb' 0 3) (fA w) t f)
  | 2 => chk (fB w == 0 && (fA w).extractLsb' 3 2 == 0) (.qpeek (fG w) (fD w) ((fA w).extractLsb' 0 3))
  | 3 => chk ((fB w).extractLsb' 2 3 == 0) (.qstat (fG w) (fD w) (fA w) ((fB w).extractLsb' 0 2))
  | _ => .error .reserved

/-- Major 0x36 (R282). -/
def decodeBank (w : LaneWord) : Except DecodeErr Instr :=
  let g := fG w
  let d := fD w
  let a := fA w
  let b := fB w
  match (fFn w).toNat with
  | 0 => chk (d == 0) (.bankm g a b)
  | 1 => chk (d == 0) (.bankf g a b)
  | 2 => chk (b == 0) (.accal g d a)
  | 3 => chk (d == 0) (.accfr g a b)
  | 4 => chk (d == 0) (.accgive g a b)
  | 5 => chk (b == 0) (.bacq g d a)
  | 6 => chk (d == 0 && b == 0) (.brel g a)
  | 7 => chk (d == 0) (.slotrel g a b)
  | 8 => chk (d == 0 && b == 0) (.cflush g a)
  | 9 => chk (d == 0 && b == 0) (.pref g a)
  | _ => .error .reserved

/-- Major 0x37 (R147). -/
def decodeReuse (w : LaneWord) : Except DecodeErr Instr :=
  match (fFn w).toNat with
  | 0 => chk (fB w == 0) (.ruarm (fG w) (fD w) (fA w))
  | 1 => chk (fB w == 0) (.ruinv (fG w) (fD w) (fA w))
  | 2 => chk (fB w == 0) (.rustat (fG w) (fD w) (fA w))
  | _ => .error .reserved

/-- Major 0x38 (R182). -/
def decodeCounter (w : LaneWord) : Except DecodeErr Instr :=
  match (fFn w).toNat with
  | 0 => chk (fD w == 0) (.scpost (fG w) (fA w) (fB w))
  | 1 => chk (fB w == 0) (.scread (fG w) (fD w) (fA w))
  | 2 => chk true (.scwait (fG w) (fD w) (fA w) (fB w))
  | _ => .error .reserved

/-- Major 0x39 (R184): `sz` 00 and 01 fail check 6, operation codes 11-15 are reserved. -/
def decodeAmo (w : LaneWord) : Except DecodeErr Instr :=
  let o := (fOff6 w).extractLsb' 0 4
  if 11 ≤ o.toNat then .error .reserved
  else chk ((fSz w).extractLsb' 1 1 == 1) (.amo (fG w) (fD w) (fA w) (fCls w) (bit ((fSz w).extractLsb' 0 1))
    (bit ((fOff6 w).extractLsb' 5 1)) (bit ((fOff6 w).extractLsb' 4 1)) o)

/-- Major 0x3A (R182, R374, R404). -/
def decodeObject (w : LaneWord) : Except DecodeErr Instr :=
  let g := fG w
  let d := fD w
  let a := fA w
  let b := fB w
  let zp := b.extractLsb' 3 2 == 0
  let p := b.extractLsb' 0 3
  match (fFn w).toNat with
  | 0 => chk (b == 0) (.lock g d a)
  | 1 => chk (b == 0) (.unlock g d a)
  | 2 => chk (b == 0) (.bara g d a)
  | 3 => chk zp (.barw g d a p)
  | 4 => chk zp (.baraw g d a p)
  | 5 => chk (d == 0 && b == 0) (.wreg g a)
  | 6 => chk (d == 0 && b == 0) (.wdereg g a)
  | 7 => if b == 1 then chk (d == 0) (.wholdRel g a) else chk (d == 0 && b == 0) (.whold g a)
  | 8 => chk (b == 0) (.mon g d a)
  | 9 => chk (b == 0) (.mwait g d a)
  | 10 => chk (fPr w == 0 && fPn w == 0 && d == 0 && a == 0 && b == 0) .rend
  | _ => .error .reserved

/-- Major 0x3C (R282). -/
def decodeSystem (w : LaneWord) : Except DecodeErr Instr :=
  let g := fG w
  let d := fD w
  let a := fA w
  let b := fB w
  match (fFn w).toNat with
  | 0 => chk (b == 0) (.sysrd g d a)
  | 1 => chk (d == 0) (.syswr g a b)
  | 2 => chk (d == 0 && b == 0) (.trap g a)
  | 3 => chk (d == 0) (.eret g a b)
  | 4 => chk (d == 0 && a == 0 && b == 0) (.bkpt g)
  | 5 => chk (a == 0 && b.extractLsb' 1 4 == 0) (.time g d (bit (b.extractLsb' 0 1)))
  | 6 => chk (d == 0 && b == 0) (.pause g a)
  | 7 => chk (d == 0 && a == 0 && b == 0) (.idle g)
  | 8 => chk (d == 0 && a == 0 && b == 0) (.nop g)
  | _ => .error .reserved

/-- Major 0x3D (R282): `fn[0]` selects, `fn[2:1]` is the width, `fn[6:3]` is zero. -/
def decodeGath (w : LaneWord) : Except DecodeErr Instr :=
  let z := (fFn w).extractLsb' 3 4 == 0
  let v := (fFn w).extractLsb' 1 2
  if (fFn w).extractLsb' 0 1 == 0 then
    chk (z && (fD w).extractLsb' 2 3 == 0) (.gath (fG w) ((fD w).extractLsb' 0 2) (fA w) (fB w) v)
  else chk (z && fD w == 0) (.scat (fG w) (fA w) (fB w) v)

/-- The instruction of a lane word (R280). Total: a word that is no instruction is rejected by name. -/
def decodeWord (w : LaneWord) : Except DecodeErr Instr :=
  let g := fG w
  let d := fD w
  let a := fA w
  let b := fB w
  let t := (fFn w).extractLsb' 3 4
  let o := (fFn w).extractLsb' 0 3
  match (fOp w).toNat with
  | 0x01 => decodeAlu w
  | 0x02 => chk true (.addi g d a (fImm12 w))
  | 0x03 => chk true (.andi g d a (fImm12 w))
  | 0x04 => chk true (.ori g d a (fImm12 w))
  | 0x05 => chk true (.xori g d a (fImm12 w))
  | 0x06 => decodeShift w
  | 0x07 => if (fFn w).extractLsb' 6 1 == 0 then chk true (.funl g d a b (fOff6 w))
            else chk true (.funr g d a b (fOff6 w))
  | 0x08 => chk ((fFn w).extractLsb' 6 1 == 0) (.cmp g (d.extractLsb' 3 2) (d.extractLsb' 0 3) a b
      ((fFn w).extractLsb' 4 2) ((fFn w).extractLsb' 0 4))
  | 0x09 => chk true (.cmpi g (d.extractLsb' 3 2) (d.extractLsb' 0 3) a (fCls w) (fImm8 w))
  | 0x0A => chk true (.li g d (fImm17 w))
  | 0x0B => chk true (.lui g d (fImm17 w))
  | 0x0C => chk (d.extractLsb' 3 2 == 0 && a.extractLsb' 3 2 == 0 && b.extractLsb' 3 2 == 0
        && (fFn w).extractLsb' 4 3 == 0)
      (.plog g (d.extractLsb' 0 3) (a.extractLsb' 0 3) (b.extractLsb' 0 3) ((fFn w).extractLsb' 0 4))
  | 0x0D => decodeAddr w
  | 0x0E => chk true (.addai g d a (fImm12 w))
  | 0x10 => decodeFp w
  | 0x11 => chk ((fFn w).extractLsb' 0 4 == 0) (.ffma g d a b ((fFn w).extractLsb' 4 3))
  | 0x12 => chk ((fFn w).extractLsb' 3 1 == 0) (.fcmp g (d.extractLsb' 3 2) (d.extractLsb' 0 3) a b
      ((fFn w).extractLsb' 4 3) o)
  | 0x13 => chk true (.fcvt g d a (b.extractLsb' 1 4) (bit (b.extractLsb' 0 1)) t o)
  | 0x14 => if fPr w == 0 && fPn w == 0 then chk true (.jmp (fLn w) (fOff19 w))
            else chk true (.br g (fLn w) (fOff19 w))
  | 0x15 => chk true (.call g (fLn w) (fOff19 w))
  | 0x16 => decodeJump w
  | 0x17 => chk true (.brx g (fLn w) (fOff19 w))
  | 0x18 => if 3 ≤ (fPr w).toNat then .error .reserved else chk true (.brq (fPr w) (bit (fPn w)) (fLn w) (fOff19 w))
  | 0x19 => chk ((fImm12 w).extractLsb' 0 9 == 0) (.loop g (d.extractLsb' 1 4) (bit (d.extractLsb' 0 1)) a
      ((fImm12 w).extractLsb' 9 3))
  | 0x1A => chk (a == 0 && fImm12 w == 0) (.endl g (d.extractLsb' 1 4) (bit (d.extractLsb' 0 1)))
  | 0x1B => chk true (.ld g d a (fCls w) (fSz w) (fOff6 w))
  | 0x1C => chk true (.lds g d a (fCls w) (fSz w) (fOff6 w))
  | 0x1D => chk true (.st g d a (fCls w) (fSz w) (fOff6 w))
  | 0x1E => chk (d.extractLsb' 2 3 == 0 && fSz w == 3) (.ldq g (d.extractLsb' 0 2) a (fCls w) (fOff6 w))
  | 0x1F => chk (d == 0) (.stq g a (fCls w) (fSz w) (fOff6 w))
  | 0x20 => decodeVArith w
  | 0x21 => chk (o == 0) (.vfma (fM w) d a b t)
  | 0x22 => decodeVShift w
  | 0x23 => chk true (.lut3 (fPr w) (fTd w) (fTa w) (fTb w) (fImm8 w))
  | 0x24 => decodeVFunnel w
  | 0x25 => chk (fPn w == 0 && d.extractLsb' 3 2 == 0) (.vcmp (fPr w) (d.extractLsb' 0 3) a b t o)
  | 0x26 => chk (fPn w == 0 && fFn w == 0) (.vsel (fPr w) d a b)
  | 0x27 => chk true (.vcvt (fM w) d a (b.extractLsb' 1 4) (bit (b.extractLsb' 0 1)) t o)
  | 0x28 => decodeVcvtb w
  | 0x29 => chk (fPn w == 0 && b == 0) (.vred (fPr w) d a t o)
  | 0x2A => chk (b == 0) (.vscan (fM w) d a t o)
  | 0x2B => chk (fPn w == 0 && o.extractLsb' 0 1 == 0) (.vtopk (fPr w) d a b t (o.extractLsb' 1 2))
  | 0x2C => decodeVMove w
  | 0x2D => decodeVFunc w
  | 0x2E => chk (fFn w == 0 && a == 0 && b == 0) (.vrnd (fM w) d)
  | 0x2F => decodeVBits w
  | 0x30 => chk (fPn w == 0 && fSz w == 3) (.vld (bit ((fPr w).extractLsb' 2 1)) ((fPr w).extractLsb' 0 2) d a
      (fCls w) (fOff6 w))
  | 0x31 => chk (fPn w == 0 && fSz w == 3) (.vst (bit ((fPr w).extractLsb' 2 1)) ((fPr w).extractLsb' 0 2) d a
      (fCls w) (fOff6 w))
  | 0x32 => decodeK w
  | 0x33 => chk true (.kseti g (fKk w) (fKw w) (fImm14 w))
  | 0x34 => decodeRing w
  | 0x35 => decodeQueue w
  | 0x36 => decodeBank w
  | 0x37 => decodeReuse w
  | 0x38 => decodeCounter w
  | 0x39 => decodeAmo w
  | 0x3A => decodeObject w
  | 0x3B => if (fImm17 w).extractLsb' 16 1 == 0 then chk (d == 0) (.fence g ((fImm17 w).extractLsb' 0 16))
            else chk (d == 0 && (fImm17 w).extractLsb' 0 16 == 0) (.fencesc g)
  | 0x3C => decodeSystem w
  | 0x3D => decodeGath w
  | 0x3F => chk true (.ximm (fImm26 w))
  | _ => .error .reserved

/-- The majors whose instructions accept an XIMM (R286). -/
def majorAcceptsXimm (w : LaneWord) : Bool :=
  [0x02, 0x03, 0x04, 0x05, 0x0E, 0x0A, 0x0B, 0x33, 0x14, 0x15, 0x17, 0x18].contains (fOp w).toNat

/-- The instruction the decoder reads from a row's bits as the opcode table numbers them: one 32-bit word. -/
def decodeTableWord (nbits w : Nat) : Option Instr :=
  match decodeWord (BitVec.ofNat 32 (w % 2 ^ nbits)) with
  | .ok i => some i
  | .error _ => none

/-- The word of each format (R277). -/
def packR (op : BitVec 6) (g : Guard) (d a b : BitVec 5) (fn : BitVec 7) : LaneWord :=
  op ++ g.p ++ ofBit g.n ++ d ++ a ++ b ++ fn
def packI (op : BitVec 6) (g : Guard) (d a : BitVec 5) (i : BitVec 12) : LaneWord :=
  op ++ g.p ++ ofBit g.n ++ d ++ a ++ i
def packL (op : BitVec 6) (g : Guard) (d : BitVec 5) (i : BitVec 17) : LaneWord :=
  op ++ g.p ++ ofBit g.n ++ d ++ i
def packB (op : BitVec 6) (p : BitVec 3) (n : Bool) (l : BitVec 3) (o : BitVec 19) : LaneWord :=
  op ++ p ++ ofBit n ++ l ++ o
def packM (op : BitVec 6) (g : Guard) (d a : BitVec 5) (c : BitVec 4) (z : BitVec 2) (o : BitVec 6) : LaneWord :=
  op ++ g.p ++ ofBit g.n ++ d ++ a ++ c ++ z ++ o
def packV (op : BitVec 6) (k : MaskSel) (d a b : BitVec 5) (t : BitVec 4) (o : BitVec 3) : LaneWord :=
  op ++ k.m ++ ofBit k.z ++ d ++ a ++ b ++ t ++ o
def packT (op : BitVec 6) (m : BitVec 3) (d a b : BitVec 5) (i : BitVec 8) : LaneWord :=
  op ++ m ++ d ++ a ++ b ++ i
def packK (op : BitVec 6) (g : Guard) (k : BitVec 3) (w s : BitVec 5) (x : BitVec 9) : LaneWord :=
  op ++ g.p ++ ofBit g.n ++ k ++ w ++ s ++ x
def packKI (op : BitVec 6) (g : Guard) (k : BitVec 3) (w : BitVec 5) (i : BitVec 14) : LaneWord :=
  op ++ g.p ++ ofBit g.n ++ k ++ w ++ i

/-- The word of a lane instruction (R277-R286); zero for the rows with no encoding. -/
def encode : Instr → LaneWord
  | .add g d a b => packR 0x01 g d a b 0x00
  | .sub g d a b => packR 0x01 g d a b 0x01
  | .and g d a b => packR 0x01 g d a b 0x02
  | .or g d a b => packR 0x01 g d a b 0x03
  | .xor g d a b => packR 0x01 g d a b 0x04
  | .andn g d a b => packR 0x01 g d a b 0x05
  | .shl g d a b => packR 0x01 g d a b 0x06
  | .shr g d a b => packR 0x01 g d a b 0x07
  | .sar g d a b => packR 0x01 g d a b 0x08
  | .min g d a b => packR 0x01 g d a b 0x09
  | .minn g d a b => packR 0x01 g d a b 0x0A
  | .max g d a b => packR 0x01 g d a b 0x0B
  | .maxn g d a b => packR 0x01 g d a b 0x0C
  | .mov g d a => packR 0x01 g d a 0 0x0D
  | .clz g d a => packR 0x01 g d a 0 0x0E
  | .ctz g d a => packR 0x01 g d a 0 0x0F
  | .popc g d a => packR 0x01 g d a 0 0x10
  | .sel g d a b => packR 0x01 g d a b 0x11
  | .mul g d a b => packR 0x01 g d a b 0x13
  | .mulh g d a b => packR 0x01 g d a b 0x14
  | .mulhn g d a b => packR 0x01 g d a b 0x15
  | .div g d a b => packR 0x01 g d a b 0x16
  | .divn g d a b => packR 0x01 g d a b 0x17
  | .rem g d a b => packR 0x01 g d a b 0x18
  | .remn g d a b => packR 0x01 g d a b 0x19
  | .addi g d a i => packI 0x02 g d a i
  | .andi g d a i => packI 0x03 g d a i
  | .ori g d a i => packI 0x04 g d a i
  | .xori g d a i => packI 0x05 g d a i
  | .shli g d a n => packI 0x06 g d a (0#2 ++ 0#4 ++ n)
  | .shri g d a n => packI 0x06 g d a (1#2 ++ 0#4 ++ n)
  | .sari g d a n => packI 0x06 g d a (2#2 ++ 0#4 ++ n)
  | .funl g d a b n => packR 0x07 g d a b (0#1 ++ n)
  | .funr g d a b n => packR 0x07 g d a b (1#1 ++ n)
  | .cmp g c t a b w k => packR 0x08 g (c ++ t) a b (0#1 ++ w ++ k)
  | .cmpi g c t a k i => packI 0x09 g (c ++ t) a (k ++ i)
  | .li g d i => packL 0x0A g d i
  | .lui g d i => packL 0x0B g d i
  | .plog g t a b e => packR 0x0C g (0#2 ++ t) (0#2 ++ a) (0#2 ++ b) (0#3 ++ e)
  | .adda g d a b => packR 0x0D g d a b 0
  | .mova g d a => packR 0x0D g d a 0 1
  | .movs g d a => packR 0x0D g d a 0 2
  | .addai g d a i => packI 0x0E g d a i
  | .fadd g d a b t => packR 0x10 g d a b (t ++ 0#4)
  | .fsub g d a b t => packR 0x10 g d a b (t ++ 1#4)
  | .fmul g d a b t => packR 0x10 g d a b (t ++ 2#4)
  | .fmin g d a b t => packR 0x10 g d a b (t ++ 3#4)
  | .fmax g d a b t => packR 0x10 g d a b (t ++ 4#4)
  | .fclass g d a t => packR 0x10 g d a 0 (t ++ 5#4)
  | .ffma g d a b t => packR 0x11 g d a b (t ++ 0#4)
  | .fcmp g c u a b t k => packR 0x12 g (c ++ u) a b (t ++ 0#1 ++ k)
  | .fcvt g d a s t y r => packR 0x13 g d a (s ++ ofBit t) (y ++ r)
  | .br g l o => packB 0x14 g.p g.n l o
  | .jmp l o => packB 0x14 0 false l o
  | .call g l o => packB 0x15 g.p g.n l o
  | .jmpi g a => packR 0x16 g 0 a 0 0
  | .ret g => packR 0x16 g 0 31 0 0
  | .retA g => packR 0x16 g 0 15 0 0
  | .calli g a => packR 0x16 g 0 a 0 1
  | .brx g l o => packB 0x17 g.p g.n l o
  | .brq q n l o => packB 0x18 q n l o
  | .loop g i sp a n => packI 0x19 g (i ++ ofBit sp) a (n ++ 0#9)
  | .endl g i m => packI 0x1A g (i ++ ofBit m) 0 0
  | .ld g d a c z o => packM 0x1B g d a c z o
  | .lds g d a c z o => packM 0x1C g d a c z o
  | .st g d a c z o => packM 0x1D g d a c z o
  | .ldq g q a c o => packM 0x1E g (0#3 ++ q) a c 3 o
  | .stq g a c z o => packM 0x1F g 0 a c z o
  | .vadd k d a b t => packV 0x20 k d a b t 0
  | .vsub k d a b t => packV 0x20 k d a b t 1
  | .vmul k d a b t => packV 0x20 k d a b t 2
  | .vmin k d a b t => packV 0x20 k d a b t 3
  | .vmax k d a b t => packV 0x20 k d a b t 4
  | .vabs k d a t => packV 0x20 k d a 0 t 5
  | .vneg k d a t => packV 0x20 k d a 0 t 6
  | .vfma k d a b t => packV 0x21 k d a b t 0
  | .vshl k d a b t => packV 0x22 k d a b t 0
  | .vshr k d a b t => packV 0x22 k d a b t 1
  | .vsar k d a b t => packV 0x22 k d a b t 2
  | .lut3 m d a b i => packT 0x23 m d a b i
  | .vfunl m d a b n => packT 0x24 m d a b (0#1 ++ 0#1 ++ n)
  | .vfunr m d a b n => packT 0x24 m d a b (1#1 ++ 0#1 ++ n)
  | .vcmp m d a b t c => packV 0x25 ⟨m, false⟩ (0#2 ++ d) a b t c
  | .vsel m d a b => packV 0x26 ⟨m, false⟩ d a b 0 0
  | .vcvt k d a s u y r => packV 0x27 k d a (s ++ ofBit u) y r
  | .vcvtbInto e d a t f r => packV 0x28 ⟨e, false⟩ d a (t ++ 0#1) (0#1 ++ f ++ 0#1) r
  | .vcvtbOut d a t f r => packV 0x28 ⟨0, false⟩ d a (t ++ 0#1) (1#1 ++ f ++ 0#1) r
  | .vred m d a t o => packV 0x29 ⟨m, false⟩ d a 0 t o
  | .vscan k d a t o => packV 0x2A k d a 0 t o
  | .vtopk m d a b t p => packV 0x2B ⟨m, false⟩ d a b t (p ++ 0#1)
  | .vperm k d a b t => packV 0x2C k d a b t 0
  | .vbcst k d a t => packV 0x2C k d a 0 t 1
  | .viota k d t => packV 0x2C k d 0 0 t 2
  | .vext d a b t => packV 0x2C ⟨0, false⟩ d a b t 3
  | .vins d a b t => packV 0x2C ⟨0, false⟩ d a b t 4
  | .vexp2 k d a t => packV 0x2D k d a 0 t 0
  | .vlog2 k d a t => packV 0x2D k d a 0 t 1
  | .vrcp k d a t => packV 0x2D k d a 0 t 2
  | .vrsq k d a t => packV 0x2D k d a 0 t 3
  | .vrnd k d => packV 0x2E k d 0 0 0 0
  | .vpopc k d a t => packV 0x2F k d a 0 t 0
  | .vclz k d a t => packV 0x2F k d a 0 t 1
  | .vmask k d a t => packV 0x2F k d (0#2 ++ a) 0 t 2
  | .vld k g d a c o => packM 0x30 ⟨ofBit k ++ g, false⟩ d a c 3 o
  | .vst k g d a c o => packM 0x31 ⟨ofBit k ++ g, false⟩ d a c 3 o
  | .kclr g k => packK 0x32 g k 0 0 0
  | .kset g k w s => packK 0x32 g k w s (1#3 ++ 0#6)
  | .ksetd g k w s => packK 0x32 g k w s (2#3 ++ 0#6)
  | .kget g k w s => packK 0x32 g k w s (3#3 ++ 0#6)
  | .kld g k s c => packK 0x32 g k 0 s (4#3 ++ 0#2 ++ c)
  | .kst g k s c => packK 0x32 g k 0 s (5#3 ++ 0#2 ++ c)
  | .kseti g k w i => packKI 0x33 g k w i
  | .kpush g d a q => packR 0x34 g d a (0#3 ++ q) 0
  | .knote g d a q => packR 0x34 g d a (0#3 ++ q) 1
  | .qkick g a q => packR 0x34 g 0 a (0#3 ++ ofBit q ++ 0#1) 2
  | .qlink g q a b => packR 0x34 g (0#3 ++ ofBit q ++ 0#1) a b 3
  | .qpop g d q t f => packR 0x35 g d (0#2 ++ q) (ofBit t ++ f ++ 0#2) 0
  | .qpush g q a t f => packR 0x35 g (0#2 ++ q) a (ofBit t ++ f ++ 0#2) 1
  | .qpeek g d q => packR 0x35 g d (0#2 ++ q) 0 2
  | .qstat g d a r => packR 0x35 g d a (0#3 ++ r) 3
  | .bankm g a b => packR 0x36 g 0 a b 0
  | .bankf g a b => packR 0x36 g 0 a b 1
  | .accal g d a => packR 0x36 g d a 0 2
  | .accfr g a b => packR 0x36 g 0 a b 3
  | .accgive g a b => packR 0x36 g 0 a b 4
  | .bacq g d a => packR 0x36 g d a 0 5
  | .brel g a => packR 0x36 g 0 a 0 6
  | .slotrel g a b => packR 0x36 g 0 a b 7
  | .cflush g a => packR 0x36 g 0 a 0 8
  | .pref g a => packR 0x36 g 0 a 0 9
  | .ruarm g d a => packR 0x37 g d a 0 0
  | .ruinv g d a => packR 0x37 g d a 0 1
  | .rustat g d a => packR 0x37 g d a 0 2
  | .scpost g a b => packR 0x38 g 0 a b 0
  | .scread g d a => packR 0x38 g d a 0 1
  | .scwait g d a b => packR 0x38 g d a b 2
  | .amo g d a c w r q o => packM 0x39 g d a c (1#1 ++ ofBit w) (ofBit r ++ ofBit q ++ o)
  | .lock g d a => packR 0x3A g d a 0 0
  | .unlock g d a => packR 0x3A g d a 0 1
  | .bara g d a => packR 0x3A g d a 0 2
  | .barw g d a q => packR 0x3A g d a (0#2 ++ q) 3
  | .baraw g d a q => packR 0x3A g d a (0#2 ++ q) 4
  | .wreg g a => packR 0x3A g 0 a 0 5
  | .wdereg g a => packR 0x3A g 0 a 0 6
  | .whold g a => packR 0x3A g 0 a 0 7
  | .wholdRel g a => packR 0x3A g 0 a 1 7
  | .mon g d a => packR 0x3A g d a 0 8
  | .mwait g d a => packR 0x3A g d a 0 9
  | .rend => packR 0x3A ⟨0, false⟩ 0 0 0 10
  | .fence g m => packL 0x3B g 0 (0#1 ++ m)
  | .fencesc g => packL 0x3B g 0 (1#1 ++ 0#16)
  | .sysrd g d a => packR 0x3C g d a 0 0
  | .syswr g a b => packR 0x3C g 0 a b 1
  | .trap g a => packR 0x3C g 0 a 0 2
  | .eret g a b => packR 0x3C g 0 a b 3
  | .bkpt g => packR 0x3C g 0 0 0 4
  | .time g d s => packR 0x3C g d 0 (0#4 ++ ofBit s) 5
  | .pause g a => packR 0x3C g 0 a 0 6
  | .idle g => packR 0x3C g 0 0 0 7
  | .nop g => packR 0x3C g 0 0 0 8
  | .gath g q a b w => packR 0x3D g (0#3 ++ q) a b (0#4 ++ w ++ 0#1)
  | .scat g a b w => packR 0x3D g 0 a b (0#4 ++ w ++ 1#1)
  | .ximm i => 0x3F#6 ++ i
  | _ => 0

end Sys2Proof
end

