-- ==== Sys2Proof/Machine/Float.lean ====
section
/-! DEFINITION. Number formats and exact arithmetic: the IEEE-style formats, rounding, the scalar operations, the
conversions and the counter mixer (R59-R70, R76-R78, R83, R395). -/

namespace Sys2Proof.Machine

/-- A floating-point format (R59, R60): field widths, bias, and which special codes it has. -/
structure FFmt where
  ebits : Nat
  mbits : Nat
  bias : Nat
  /-- An all-ones exponent encodes infinities and NaNs. -/
  ieee : Bool
  /-- E4M3: only fraction all ones at the top exponent is NaN; otherwise (E2M1) there are no specials. -/
  topNan : Bool
  deriving DecidableEq, Repr

def fF32 : FFmt := ⟨8, 23, 127, true, false⟩
def fF64 : FFmt := ⟨11, 52, 1023, true, false⟩
def fBF16 : FFmt := ⟨8, 7, 127, true, false⟩
def fF16 : FFmt := ⟨5, 10, 15, true, false⟩
def fE4M3 : FFmt := ⟨4, 3, 7, false, true⟩
def fE5M2 : FFmt := ⟨5, 2, 15, true, false⟩
def fE2M1 : FFmt := ⟨2, 1, 1, false, false⟩

/-- The five exception flags (R65): bit 4 `nv`, 3 `dz`, 2 `of`, 1 `uf`, 0 `nx`. -/
abbrev Flags := BitVec 5

def flNV : Flags := 0b10000#5
def flDZ : Flags := 0b01000#5
def flOF : Flags := 0b00100#5
def flUF : Flags := 0b00010#5
def flNX : Flags := 0b00001#5

/-- A decoded value: NaN (signalling or not), an infinity, or exactly `± m * 2 ^ e`. -/
inductive Num where
  | nan (sig : Bool)
  | inf (neg : Bool)
  | fin (neg : Bool) (m : Nat) (e : Int)
  deriving DecidableEq, Repr

def Num.isNan : Num → Bool
  | .nan _ => true
  | _ => false

def Num.isInf : Num → Bool
  | .inf _ => true
  | _ => false

def Num.isZero : Num → Bool
  | .fin _ m _ => m == 0
  | _ => false

def Num.isNeg : Num → Bool
  | .nan _ => false
  | .inf s => s
  | .fin s _ _ => s

def Num.neg : Num → Num
  | .nan g => .nan g
  | .inf s => .inf (!s)
  | .fin s m e => .fin (!s) m e

/-- Flag raised by the NaNs among the inputs (R68): a signalling one sets `nv`. -/
def sigFlag : List Num → Flags
  | [] => 0
  | .nan true :: _ => flNV
  | _ :: t => sigFlag t

/-- The storage width in bits. -/
def FFmt.width (f : FFmt) : Nat := 1 + f.ebits + f.mbits

/-- The exponent field of all ones. -/
def FFmt.top (f : FFmt) : Nat := 2 ^ f.ebits - 1

/-- The exact value of a bit pattern (R59, R60). -/
def FFmt.decode (f : FFmt) (x : Nat) : Num :=
  let man := bitsOf x 0 f.mbits
  let ex := bitsOf x f.mbits f.ebits
  let s := x.testBit (f.ebits + f.mbits)
  if f.ieee && ex == f.top then
    if man == 0 then .inf s else .nan (!(man.testBit (f.mbits - 1)))
  else if f.topNan && ex == f.top && man == 2 ^ f.mbits - 1 then .nan false
  else if ex == 0 then .fin s man (1 - (f.bias : Int) - f.mbits)
  else .fin s (2 ^ f.mbits + man) ((ex : Int) - f.bias - f.mbits)

/-- The sign bit in place. -/
def FFmt.signBit (f : FFmt) (neg : Bool) : Nat := if neg then 2 ^ (f.ebits + f.mbits) else 0

/-- The canonical NaN (R59); E2M1 has none and yields +0. -/
def FFmt.nan (f : FFmt) : Nat :=
  if f.ieee then f.top * 2 ^ f.mbits + 2 ^ (f.mbits - 1)
  else if f.topNan then f.top * 2 ^ f.mbits + (2 ^ f.mbits - 1) else 0

/-- The largest finite pattern without its sign. -/
def FFmt.maxPat (f : FFmt) : Nat :=
  if f.ieee then f.top * 2 ^ f.mbits - 1
  else if f.topNan then f.top * 2 ^ f.mbits + (2 ^ f.mbits - 2)
  else f.top * 2 ^ f.mbits + (2 ^ f.mbits - 1)

/-- The infinity pattern without its sign (formats with one). -/
def FFmt.infPat (f : FFmt) : Nat := f.top * 2 ^ f.mbits

/-- The exponent of the most significant bit of the largest finite value. -/
def FFmt.emax (f : FFmt) : Int := if f.ieee then (f.top : Int) - 1 - f.bias else (f.top : Int) - f.bias

/-- Whether a rounding mode (0 RNE, 1 RZ, 2 RD, 3 RU, 4 RS) takes the neighbour away from zero, given the
quotient, the remainder over `2 ^ sh` and the 16 stochastic bits (R63, R78). -/
def roundUp (mode r16 : Nat) (neg : Bool) (q rem sh : Nat) : Bool :=
  if rem == 0 then false
  else match mode with
  | 0 => decide (2 ^ sh < 2 * rem) || (decide (2 * rem = 2 ^ sh) && q % 2 == 1)
  | 1 => false
  | 2 => neg
  | 3 => !neg
  | _ => decide (r16 < rem * 65536 / 2 ^ sh)

/-- `m * 2 ^ e` rounded to a multiple of `2 ^ q`: the multiple and whether the value changed. -/
def roundAt (mode r16 : Nat) (neg : Bool) (m : Nat) (e q : Int) : Nat × Bool :=
  if q ≤ e then (m * 2 ^ (e - q).toNat, false)
  else
    let sh := (q - e).toNat
    let lo := m / 2 ^ sh
    let rem := m % 2 ^ sh
    (if roundUp mode r16 neg lo rem sh then lo + 1 else lo, rem != 0)

/-- Overflow goes to infinity in this mode for this sign, not to the largest finite value (R67). -/
def overflowToInf (mode : Nat) (neg : Bool) : Bool :=
  match mode with
  | 1 => false
  | 2 => neg
  | 3 => !neg
  | _ => true

/-- `rnd` of a finite value (R67, R69, R83): `sat` is the saturate bit of a conversion. -/
def FFmt.roundFin (f : FFmt) (mode r16 : Nat) (sat neg : Bool) (m : Nat) (e : Int) : Nat × Flags :=
  if m == 0 then (f.signBit neg, 0)
  else
    let emin : Int := 1 - (f.bias : Int)
    let big : Int := (m.log2 : Int) + e
    let q := max big emin - f.mbits
    let (r, inexact) := roundAt mode r16 neg m e q
    let nx : Flags := if inexact then flNX else 0
    -- the value is r * 2 ^ q
    let hidden := 2 ^ f.mbits
    let pat := if r < hidden then r else
      let k := r.log2 - f.mbits          -- 0, or 1 when rounding carried into a new binade
      ((q + f.mbits + f.bias).toNat + k) * hidden + (r / 2 ^ k - hidden)
    if r ≥ hidden ∧ (pat > f.maxPat) then
      let of := flOF ||| flNX
      if sat then (f.signBit neg + f.maxPat, of)
      else if overflowToInf mode neg then
        if f.ieee then (f.signBit neg + f.infPat, of)
        else if f.topNan then (f.signBit neg + f.nan, of)
        else (f.signBit neg + f.maxPat, of)
      else (f.signBit neg + f.maxPat, of)
    else
      let tiny := big < emin &&
        (let r' := (roundAt mode r16 neg m e (big - f.mbits)).1
         !(big == emin - 1 && r' == 2 * hidden))
      (f.signBit neg + pat, if inexact && tiny then nx ||| flUF else nx)

/-- Rounds any value: NaN gives the canonical NaN, infinities pass (R68, R83). -/
def FFmt.round (f : FFmt) (mode r16 : Nat) : Num → Nat × Flags
  | .nan _ => (f.nan, 0)
  | .inf s => (f.signBit s + f.infPat, 0)
  | .fin s m e => f.roundFin mode r16 false s m e

/-- A signed integer at exponent `e`, for exact sums. -/
def Num.scaled (e : Int) : Num → Int
  | .fin s m e' => let v : Int := m * 2 ^ (e' - e).toNat; if s then -v else v
  | _ => 0

/-- The exponent of a finite value. -/
def Num.exp : Num → Int
  | .fin _ _ e => e
  | _ => 0

/-- The exact value of a signed integer at exponent `e`. -/
def Num.ofScaled (zeroNeg : Bool) (v e : Int) : Num :=
  if v = 0 then .fin zeroNeg 0 0 else .fin (decide (v < 0)) v.natAbs e

/-- Exact product of two finite values, with the sign rule of IEEE 754. -/
def Num.mulFin : Num → Num → Num
  | .fin s m e, .fin s' m' e' => .fin (s != s') (m * m') (e + e')
  | a, _ => a

/-- The least exponent of a list of finite values, zeros ignored. -/
def minExp : List Num → Option Int
  | [] => none
  | .fin _ 0 _ :: t => minExp t
  | .fin _ _ e :: t => match minExp t with
    | none => some e
    | some x => some (min e x)
  | _ :: t => minExp t

/-- The sign of an exactly zero sum (R68, R399): that of its terms when all are zeros of one sign; otherwise +0,
or -0 when rounding down. -/
def zeroSign (mode : Nat) (l : List Num) : Bool :=
  if l.all (fun a => a.isZero && a.isNeg) && !l.isEmpty then true
  else if l.all (fun a => a.isZero && !a.isNeg) then false
  else mode == 2

/-- The exact sum of a list, rounded once (R68, R399): NaNs, opposing infinities, then the exact sum. -/
def FFmt.sum (f : FFmt) (mode r16 : Nat) (l : List Num) : Nat × Flags :=
  if l.any Num.isNan then (f.nan, sigFlag l)
  else
    let pos := l.any (fun a => a == .inf false)
    let ngt := l.any (fun a => a == .inf true)
    if pos && ngt then (f.nan, flNV)
    else if pos then (f.infPat, 0)
    else if ngt then (f.signBit true + f.infPat, 0)
    else match minExp l with
    | none => (f.signBit (zeroSign mode l), 0)
    | some e =>
      let v := l.foldl (fun acc a => acc + a.scaled e) 0
      if v = 0 then (f.signBit (zeroSign mode l), 0)
      else f.roundFin mode r16 false (decide (v < 0)) v.natAbs e

/-- a + b (R67). -/
def FFmt.add (f : FFmt) (mode r16 : Nat) (a b : Num) : Nat × Flags := f.sum mode r16 [a, b]

/-- a * b (R67). -/
def FFmt.mul (f : FFmt) (mode r16 : Nat) (a b : Num) : Nat × Flags :=
  if a.isNan || b.isNan then (f.nan, sigFlag [a, b])
  else if a.isInf || b.isInf then
    if a.isZero || b.isZero then (f.nan, flNV) else (f.signBit (a.isNeg != b.isNeg) + f.infPat, 0)
  else f.round mode r16 (a.mulFin b)

/-- a * b + d, rounded once (R328): an infinity times zero is invalid even beside a quiet NaN. -/
def FFmt.fma (f : FFmt) (mode r16 : Nat) (a b d : Num) : Nat × Flags :=
  if (a.isInf && b.isZero) || (a.isZero && b.isInf) then (f.nan, flNV)
  else if a.isNan || b.isNan || d.isNan then (f.nan, sigFlag [a, b, d])
  else if a.isInf || b.isInf then f.sum mode r16 [.inf (a.isNeg != b.isNeg), d]
  else f.sum mode r16 [a.mulFin b, d]

/-- a < b for values that are not NaN, -0 and +0 equal. -/
def Num.lt : Num → Num → Bool
  | .inf s, .inf s' => s && !s'
  | .inf s, _ => s
  | _, .inf s => !s
  | a, b =>
    let e := min a.exp b.exp
    decide (a.scaled e < b.scaled e)

/-- a = b for values that are not NaN. -/
def Num.eq (a b : Num) : Bool := !(a.lt b) && !(b.lt a)

/-- IEEE 754-2019 minimum or maximum (R68). -/
def FFmt.minmax (f : FFmt) (isMax : Bool) (a b : Num) : Nat × Flags :=
  if a.isNan || b.isNan then (f.nan, sigFlag [a, b])
  else
    let aLess := a.lt b || (a.isZero && b.isZero && a.isNeg && !b.isNeg)
    let r := if aLess == isMax then b else a
    -- when neither is less they are the same value
    (f.round 0 0 r)

/-- The conditions of FCMP (R326) and the flag each raises. -/
def fcond (k : Nat) (a b : Num) : Bool × Flags :=
  let un := a.isNan || b.isNan
  let quiet := sigFlag [a, b]
  let loud : Flags := if un then flNV else 0
  match k with
  | 0 => (!un && a.eq b, quiet)
  | 1 => (un || !(a.eq b), quiet)
  | 2 => (!un && a.lt b, loud)
  | 3 => (!un && !(b.lt a), loud)
  | 4 => (!un && b.lt a, loud)
  | 5 => (!un && !(a.lt b), loud)
  | 6 => (un, quiet)
  | _ => (!un, quiet)

/-- The class mask of FCLASS (R325). -/
def FFmt.classify (f : FFmt) (x : Nat) : Nat :=
  match f.decode x with
  | .nan g => if g then 2 ^ 8 else 2 ^ 9
  | .inf s => if s then 1 else 2 ^ 7
  | .fin s m _ =>
    if m == 0 then (if s then 2 ^ 3 else 2 ^ 4)
    else if bitsOf x f.mbits f.ebits == 0 then (if s then 2 ^ 2 else 2 ^ 5)
    else if s then 2 ^ 1 else 2 ^ 6

/-! ### Types of R62 -/

/-- The float format of a type code. -/
def typeFloat : Nat → Option FFmt
  | 0 => some fF32
  | 1 => some fF64
  | 2 => some fBF16
  | 3 => some fF16
  | 4 => some fE4M3
  | 5 => some fE5M2
  | _ => none

/-- The width in bytes of a type code. -/
def typeWidth : Nat → Nat
  | 0 | 8 | 12 => 4
  | 1 | 9 | 13 => 8
  | 2 | 3 | 7 | 11 => 2
  | _ => 1

/-- Whether an integer type code is signed. -/
def typeSigned (t : Nat) : Bool := 6 ≤ t && t ≤ 9

/-- The least and greatest values of an integer type. -/
def intRange (t : Nat) : Int × Int :=
  let w := 8 * typeWidth t
  if typeSigned t then (-(2 ^ (w - 1) : Nat), (2 ^ (w - 1) : Nat) - 1) else (0, (2 ^ w : Nat) - 1)

/-- The integer a pattern of an integer type holds. -/
def intValue (t x : Nat) : Int :=
  let w := 8 * typeWidth t
  if typeSigned t then toSigned w x else ((x % 2 ^ w : Nat) : Int)

/-- The exact value of a pattern of any type. -/
def typeDecode (t x : Nat) : Num :=
  match typeFloat t with
  | some f => f.decode (x % 2 ^ f.width)
  | none => let v := intValue t x; .fin (decide (v < 0)) v.natAbs 0

/-- Clamps to a range, telling whether it did. -/
def clampInt (r : Int × Int) (v : Int) : Int × Bool :=
  if v < r.1 then (r.1, true) else if r.2 < v then (r.2, true) else (v, false)

/-- Rounds a value to an integer range (R70): NaN gives 0, what falls outside the nearest limit, both with `nv`. -/
def toIntRange (r : Int × Int) (mode r16 : Nat) : Num → Int × Flags
  | .nan _ => (0, flNV)
  | .inf s => (if s then r.1 else r.2, flNV)
  | .fin s m e =>
    -- a value beyond 2^70 is out of every range, so its exponent need not be expanded
    if (m.log2 : Int) + e > 70 && m != 0 then (if s then r.1 else r.2, flNV)
    else
      let (q, inexact) := roundAt mode r16 s m e 0
      let (v, c) := clampInt r (if s then -(q : Int) else q)
      (v, if c then flNV else if inexact then flNX else 0)

/-- Conversion of an infinity to a float format under a saturate bit (R69). -/
def FFmt.convInf (f : FFmt) (sat s : Bool) : Nat × Flags :=
  if sat then (f.signBit s + f.maxPat, flOF ||| flNX)
  else if f.ieee then (f.signBit s + f.infPat, 0)
  else (f.signBit s + f.nan, flNV)

/-- Conversion of a value to a float format (R69). -/
def FFmt.convert (f : FFmt) (mode r16 : Nat) (sat : Bool) : Num → Nat × Flags
  | .nan g => (f.nan, if g then flNV else 0)
  | .inf s => f.convInf sat s
  | .fin s m e => f.roundFin mode r16 sat s m e

/-- The conversions of R69 and R70 (R393): source type, destination type, rounding, saturate. A conversion between integer types sets
no flag, and saturates only where it narrows. -/
def convertElem (src dst mode r16 : Nat) (sat : Bool) (x : Nat) : Nat × Flags :=
  let wd := 8 * typeWidth dst
  match typeFloat dst with
  | some f => f.convert mode r16 sat (typeDecode src x)
  | none =>
    match typeFloat src with
    | some _ => let (v, fl) := toIntRange (intRange dst) mode r16 (typeDecode src x); (ofInt wd v, fl)
    | none =>
      let v := intValue src x
      (ofInt wd (if sat && typeWidth dst < typeWidth src then (clampInt (intRange dst) v).1 else v), 0)

/-- FCVT (R327): a conversion to the same type returns the value itself, or the canonical NaN. -/
def convertType (src dst mode r16 : Nat) (sat : Bool) (x : Nat) : Nat × Flags := convertElem src dst mode r16 (sat && src != dst) x

/-! ### The counter mixer -/

/-- `cmx` (R76). -/
def cmx (key ctr : Nat) : Nat :=
  let x := (key ^^^ ((ctr * 0x9E3779B97F4A7C15) % 2 ^ 64)) % 2 ^ 64
  let x := ((x ^^^ (x >>> 31)) * 0xD6E8FEB86659FD93) % 2 ^ 64
  let x := x ^^^ (x >>> 29)
  let x := (x * 0x8CB92BA72F3D8DD7) % 2 ^ 64
  x ^^^ (x >>> 32)

/-- The 16 stochastic bits of a use (R78). -/
def rsBits (key ctr : Nat) : Nat := cmx key ctr % 65536

/-! ### Reciprocals, roots, powers and logarithms (R395) -/

/-- Newton's iteration for the integer square root, from above. -/
def isqrtFrom : Nat → Nat → Nat → Nat
  | 0, _, x => x
  | k + 1, n, x => if x = 0 then 0 else
    let y := (x + n / x) / 2
    if y < x then isqrtFrom k n y else x

/-- The integer square root. -/
def isqrt (n : Nat) : Nat := if n = 0 then 0 else isqrtFrom (n.log2 + 2) n (2 ^ (n.log2 / 2 + 1))

/-- A positive value known to exceed `m * 2 ^ e` by less than one unit of `m` (`sticky`) or to equal it. -/
def stickyNum (neg : Bool) (m : Nat) (e : Int) (sticky : Bool) : Num :=
  .fin neg (2 * m + (if sticky then 1 else 0)) (e - 1)

/-- 1 / a, to 160 bits and a sticky bit, for a finite non-zero `a`. -/
def recipNum (neg : Bool) (m : Nat) (e : Int) : Num :=
  let k := m.log2 + 160
  stickyNum neg (2 ^ k / m) (-(k : Int) - e) (2 ^ k % m != 0)

/-- 1 / sqrt a, likewise, for a positive finite `a`. -/
def rsqrtNum (m : Nat) (e : Int) : Num :=
  let m' := if e % 2 = 0 then m else 2 * m
  let e' := if e % 2 = 0 then e else e - 1
  let k := m'.log2 + 160
  let n := 2 ^ (2 * k) / m'
  let r := isqrt n
  stickyNum false r (-(e' / 2) - (k : Int)) (r * r != n || 2 ^ (2 * k) % m' != 0)

/-- Working precision, in fraction bits, of the power and logarithm (DEDUCED, log 21). -/
def workBits : Nat := 320

/-- Bounds of 2^f for a fraction `f` given by its bits from the most significant: `r` bounds 2^(2^-i). -/
def pow2Bits : List Bool → Nat × Nat → Nat × Nat → Nat × Nat
  | [], _, acc => acc
  | b :: t, (rl, rh), (al, ah) =>
    let r' := (isqrt (rl * 2 ^ workBits), isqrt (rh * 2 ^ workBits) + 1)
    let acc' := if b then (al * r'.1 / 2 ^ workBits, ah * r'.2 / 2 ^ workBits + 1) else (al, ah)
    pow2Bits t r' acc'

/-- 2^a for a finite non-zero `a` (R395). -/
def exp2Num (neg : Bool) (m : Nat) (e : Int) : Num :=
  if (m.log2 : Int) + e > 13 then (if neg then .fin false 1 (-20000) else .fin false 3 20000)
  else if e ≥ 0 then .fin false 1 (if neg then -((m * 2 ^ e.toNat : Nat) : Int) else (m * 2 ^ e.toNat : Nat))
  else
    let k := (-e).toNat
    let v : Int := if neg then -(m : Int) else m
    let ip := v / (2 ^ k : Nat)
    let fr := (v % (2 ^ k : Nat)).toNat
    if fr = 0 then .fin false 1 ip
    else
      let bits := (List.range k).map (fun i => fr.testBit (k - 1 - i))
      let one := 2 ^ workBits
      let (lo, _) := pow2Bits bits (2 * one, 2 * one) (one, one)
      let cut := workBits - 200
      stickyNum false (lo / 2 ^ cut) (ip - 200) true

/-- Binary digits of log2 of a fixed-point value in [1, 2), by repeated squaring. -/
def log2Bits : Nat → Nat → Nat → Nat
  | 0, _, acc => acc
  | n + 1, y, acc =>
    let y2 := y * y / 2 ^ workBits
    if y2 ≥ 2 ^ (workBits + 1) then log2Bits n (y2 / 2) (2 * acc + 1) else log2Bits n y2 (2 * acc)

/-- log2 a for a positive finite `a` (R395). -/
def log2Num (m : Nat) (e : Int) : Num :=
  let big : Int := (m.log2 : Int) + e
  if m = 2 ^ m.log2 then .fin (decide (big < 0)) big.natAbs 0
  else
    let y := m * 2 ^ workBits / 2 ^ m.log2
    let fr := log2Bits 120 y 0
    let v : Int := big * (2 ^ 120 : Nat) + fr
    if v ≥ 0 then stickyNum false v.natAbs (-120) true
    else stickyNum true (v.natAbs - 1) (-120) true

/-- VEXP2, VLOG2, VRCP and VRSQ by operation code (R395). -/
def FFmt.special (f : FFmt) (op mode r16 : Nat) (a : Num) : Nat × Flags :=
  match a with
  | .nan g => (f.nan, if g then flNV else 0)
  | .inf s =>
    match op with
    | 0 => if s then (0, 0) else (f.infPat, 0)
    | 1 => if s then (f.nan, flNV) else (f.infPat, 0)
    | 2 => (f.signBit s, 0)
    | _ => if s then (f.nan, flNV) else (0, 0)
  | .fin s m e =>
    match op with
    | 0 => if m = 0 then f.round mode r16 (.fin false 1 0) else f.round mode r16 (exp2Num s m e)
    | 1 => if m = 0 then (f.signBit true + f.infPat, flDZ)
           else if s then (f.nan, flNV) else f.round mode r16 (log2Num m e)
    | 2 => if m = 0 then (f.signBit s + f.infPat, flDZ) else f.round mode r16 (recipNum s m e)
    | _ => if m = 0 then (f.signBit s + f.infPat, flDZ)
           else if s then (f.nan, flNV) else f.round mode r16 (rsqrtNum m e)

end Sys2Proof.Machine
end

