-- ==== Sys2Proof/Machine/Blocks.lean ====
section
/-! DEFINITION. Scaled block formats and the element formats of banks: encoding and decoding of element streams
(R60, R61, R71-R75, R83, R85, R91), and the summation of the matrix array (R79-R82). -/

namespace Sys2Proof.Machine

/-- The little-endian bytes of a number (R4). -/
def bytesOf : Nat → Nat → List Nat
  | 0, _ => []
  | n + 1, x => x % 256 :: bytesOf n (x / 256)

/-- The number of little-endian bytes (R4). -/
def ofBytes : List Nat → Nat
  | [] => 0
  | b :: t => b + 256 * ofBytes t

/-- A format code that R85 lists. -/
def bankFmtOk (f : Nat) : Bool := f == 0 || (2 ≤ f && f ≤ 6) || (10 ≤ f && f ≤ 13) || f == 15

/-- bx8, bx4, mx4 (R71, R72). -/
def fmtIsBlock (f : Nat) : Bool := f == 10 || f == 11 || f == 12

/-- Formats taken in groups of 32 elements (R73). -/
def fmtGrouped (f : Nat) : Bool := fmtIsBlock f || f == 13

/-- s8 and s4. -/
def fmtIsInt (f : Nat) : Bool := f == 6 || f == 13

/-- Bytes of one group of 32 elements in a format (R71-R73, R144). -/
def groupBytes (f : Nat) : Nat :=
  match f with
  | 10 => 34
  | 11 => 18
  | 12 => 17
  | 13 => 16
  | 15 => 32
  | _ => 32 * typeWidth f

/-- Bytes of `n` elements: whole groups for grouped formats, natural size otherwise; raw elements are bytes. -/
def elemBytes (f n : Nat) : Nat :=
  if fmtGrouped f then n / 32 * groupBytes f else if f == 15 then n else n * typeWidth f

/-- The least size that alignment to the element or block asks for. -/
def fmtUnit (f : Nat) : Nat :=
  match f with
  | 10 => 34
  | 11 => 18
  | 12 => 17
  | 13 => 1
  | 15 => 1
  | _ => typeWidth f

/-- `v` rounded to the nearest integer, ties to even, where `v = m * 2 ^ e` (R83). -/
def roundEven (m : Nat) (e : Int) : Nat := (roundAt 0 0 false m e 0).1

/-- The greatest element magnitude and the exponent of its step, for bx8 and bx4 (R72). -/
def bxShape (f : Nat) : Nat × Int := if f == 10 then (63, -5) else (3, -1)

/-- The largest magnitude among the finite inputs, as `m * 2 ^ e`. -/
def maxMag : List Num → Nat × Int
  | [] => (0, 0)
  | .fin _ m e :: t =>
    let (m', e') := maxMag t
    let c := min e e'
    if m' * 2 ^ (e' - c).toNat < m * 2 ^ (e - c).toNat then (m, e) else (m', e')
  | _ :: t => maxMag t

/-- The error of an approximation `q * 2 ^ g` of `m * 2 ^ e`, scaled by `2 ^ -(min e g)`. -/
def scaledErr (m : Nat) (e : Int) (q : Nat) (g c : Int) : Nat :=
  ((m * 2 ^ (e - c).toNat : Nat) - (q * 2 ^ (g - c).toNat : Nat) : Int).natAbs

/-- One element of `bx_encode` (R75, R83): its code and flags. -/
def bxElem (f ehi elo : Nat) (x : Num) : Nat × Flags :=
  let (mMax, st) := bxShape f
  let mb := if f == 10 then 6 else 2
  let code (sel neg : Bool) (m : Nat) : Nat :=
    (if sel then 2 ^ (mb + 1) else 0) + (if neg then 2 ^ mb else 0) + m
  match x with
  | .nan _ => (code false false 0, 0)
  | .inf s => (code true s mMax, flOF)
  | .fin s m e =>
    let gh := (ehi : Int) - 127 + st
    let gl := (elo : Int) - 127 + st
    let qh := min (roundEven m (e - gh)) mMax
    let ql := min (roundEven m (e - gl)) mMax
    let c := min e (min gh gl)
    let errH := scaledErr m e qh gh c
    let errL := scaledErr m e ql gl c
    if elo != 0xFF && errL ≤ errH then (code false s ql, if errL = 0 then 0 else flNX)
    else (code true s qh, if errH = 0 then 0 else flNX)

/-- `e_hi` (R75): the least exponent whose grid holds the largest magnitude; `none` when none qualifies. -/
def bxHigh (f : Nat) (m : Nat) (e : Int) : Option Nat :=
  let (mMax, st) := bxShape f
  (List.range 255).find? (fun k => roundEven m (e - ((k : Int) - 127 + st)) ≤ mMax)

/-- Packs 4-bit elements, even ones low (R61). -/
def packNibbles : List Nat → List Nat
  | a :: b :: t => (a % 16 + 16 * (b % 16)) :: packNibbles t
  | [a] => [a % 16]
  | [] => []

/-- The nibbles of bytes, low ones first (R61). -/
def nibbles : List Nat → List Nat
  | [] => []
  | b :: t => b % 16 :: b / 16 % 16 :: nibbles t

/-- `bx_encode` for bx8 and bx4 (R75): `delta` 0 takes the default; a signalling NaN raises `nv` (R65, R68). -/
def bxEncode (f delta : Nat) (xs : List Num) : List Nat × Flags :=
  let d := if delta == 0 then (if f == 10 then 4 else 3) else delta
  let (m, e) := maxMag xs
  let (ehi, o) : Nat × Flags := match bxHigh f m e with
    | some k => (k, 0)
    | none => (254, flOF)
  let elo := if xs.any Num.isNan then 0xFF else ehi - d
  let els := xs.map (bxElem f ehi elo)
  let fl := els.foldl (fun a p => a ||| p.2) (o ||| sigFlag xs)
  (elo :: ehi :: (if f == 10 then els.map Prod.fst else packNibbles (els.map Prod.fst)), fl)

/-- Encoding into MXFP4 (R74); `r` gives the stochastic bits of an element. -/
def mxEncode (mode : Nat) (r : Nat → Nat) (xs : List Num) : List Nat × Flags :=
  if xs.any Num.isNan then (0xFF :: List.replicate 16 0, sigFlag xs)
  else
    let (m, e) := maxMag xs
    let un : Int := (m.log2 : Int) + e - 2 + 127
    let s : Nat := if m == 0 then 0 else (min (max un 0) 254).toNat
    let o : Flags := if m != 0 && un > 254 then flOF else 0
    let els := xs.zipIdx.map (fun (x, i) =>
      match x with
      | .inf g => ((if g then 15 else 7), flOF)
      | .fin g m e =>
        let (c, fl) := fE2M1.roundFin mode (r i) true g m (e - ((s : Int) - 127))
        (c, if fl &&& flOF != 0 then flNX else fl)
      | .nan _ => (0, 0))
    (s :: packNibbles (els.map Prod.fst), els.foldl (fun a p => a ||| p.2) o)

/-- `bx_decode` of one group of a grouped format (R71-R73, R83). -/
def decodeGroup (f : Nat) (b : List Nat) : List Num :=
  match f with
  | 12 =>
    let s := b.headD 0
    (nibbles (b.drop 1)).map (fun c =>
      if s == 0xFF then .nan false else
      match fE2M1.decode c with
      | .fin g m e => .fin g m (e + ((s : Int) - 127))
      | v => v)
  | 13 => (nibbles b).map (fun c => let v := toSigned 4 c; .fin (decide (v < 0)) v.natAbs 0)
  | _ =>
    let elo := b.headD 0
    let ehi := (b.drop 1).headD 0
    let mb := if f == 10 then 6 else 2
    let els := if f == 10 then b.drop 2 else nibbles (b.drop 2)
    els.map (fun c =>
      let ex := if c.testBit (mb + 1) then ehi else elo
      if ex == 0xFF then .nan false
      else .fin (c.testBit mb) (c % 2 ^ mb) ((ex : Int) - 127 + (bxShape f).2))

/-- Splits a list into pieces of `n`. `fuel` bounds the number of pieces. -/
def chunksOf {α : Type} (n : Nat) : Nat → List α → List (List α)
  | 0, _ => []
  | k + 1, l => if l.isEmpty then [] else l.take n :: chunksOf n k (l.drop n)

/-- The exact values of a run of bytes in a format other than raw. -/
def decodeElems (f : Nat) (b : List Nat) : List Num :=
  if fmtGrouped f then ((chunksOf (groupBytes f) b.length b).map (decodeGroup f)).flatten
  else (chunksOf (typeWidth f) b.length b).map (fun w => typeDecode f (ofBytes w))

/-- Encodes values into a format other than raw, saturating (R69, R70 with bit 1, R74, R75, R91). `srcInt` says the
source was an integer format, which raises no flag into an integer one. -/
def encodeElems (f delta mode : Nat) (r : Nat → Nat) (srcInt : Bool) (xs : List Num) : List Nat × Flags :=
  if fmtIsBlock f then
    let gs := (chunksOf 32 xs.length xs).zipIdx.map (fun (g, j) =>
      if f == 12 then mxEncode mode (fun i => r (32 * j + i)) g else bxEncode f delta g)
    ((gs.map Prod.fst).flatten, gs.foldl (fun a p => a ||| p.2) 0)
  else if f == 13 then
    let els := xs.zipIdx.map (fun (x, i) => toIntRange (-8, 7) mode (r i) x)
    (packNibbles (els.map (fun p => ofInt 4 p.1)), if srcInt then 0 else els.foldl (fun a p => a ||| p.2) 0)
  else match typeFloat f with
  | some ff =>
    let els := xs.zipIdx.map (fun (x, i) => ff.convert mode (r i) true x)
    ((els.map (fun p => bytesOf (typeWidth f) p.1)).flatten, els.foldl (fun a p => a ||| p.2) 0)
  | none =>
    let els := xs.zipIdx.map (fun (x, i) => toIntRange (intRange f) mode (r i) x)
    ((els.map (fun p => bytesOf (typeWidth f) (ofInt (8 * typeWidth f) p.1))).flatten,
      if srcInt then 0 else els.foldl (fun a p => a ||| p.2) 0)

/-! ### Summation in the matrix array -/

/-- The canonical FP32 NaN of the array (R81). -/
def f32NaN : Nat := 0x7FC00000

/-- `sat(rne(v, f32), f32)` of a finite sum (R82): the pattern and whether it was replaced. -/
def satF32 (neg : Bool) (m : Nat) (e : Int) : Nat × Bool :=
  let (x, fl) := fF32.roundFin 0 0 true neg m e
  (x, fl &&& flOF != 0)

/-- The exact product of two values, NaN where R81 makes one. A product of integers (`int`) has no negative zero (R79). -/
def productNum (int : Bool) (a b : Num) : Num :=
  if a.isNan || b.isNan then .nan false
  else if a.isInf || b.isInf then (if a.isZero || b.isZero then .nan false else .inf (a.isNeg != b.isNeg))
  else if int && (a.isZero || b.isZero) then .fin false 0 0
  else a.mulFin b

/-- `blocksum` (R79, R83): the pattern and whether the overflow count rises. -/
def blocksum (p : List Num) : Nat × Bool :=
  if p.any Num.isNan then (f32NaN, false)
  else
    let pos := p.any (fun a => a == .inf false)
    let ngt := p.any (fun a => a == .inf true)
    if pos && ngt then (f32NaN, false)
    else if pos then (fF32.infPat, false)
    else if ngt then (fF32.signBit true + fF32.infPat, false)
    else
      let zeroNeg := p.all (fun a => a.isZero && a.isNeg)
      match minExp p with
      | none => (fF32.signBit zeroNeg, false)
      | some e =>
        let v := p.foldl (fun acc a => acc + a.scaled e) 0
        if v = 0 then (0, false) else satF32 (decide (v < 0)) v.natAbs e

/-- `acc_add` (R81-R83). -/
def accAdd (acc b : Nat) : Nat × Bool :=
  let x := fF32.decode acc
  let y := fF32.decode b
  if x.isNan || y.isNan || (x.isInf && y.isInf && x.isNeg != y.isNeg) then (f32NaN, false)
  else if x.isInf then (acc, false)
  else if y.isInf then (b, false)
  else
    match minExp [x, y] with
    | none => (fF32.signBit (zeroSign 0 [x, y]), false)
    | some e =>
      let v := x.scaled e + y.scaled e
      if v = 0 then (0, false) else satF32 (decide (v < 0)) v.natAbs e

end Sys2Proof.Machine
end

