-- ==== Sys2Proof/Machine/Tab.lean ====
section
/-! DEFINITION. Sparse tables: association lists from numbers, kept with strictly rising keys. -/

namespace Sys2Proof.Machine

/-- A sparse table from numbers; what an unlisted key reads as is said where it is read. -/
abbrev Tab (α : Type) := List (Nat × α)

/-- The entry of key `k`, when there is one. -/
def Tab.find {α : Type} : Tab α → Nat → Option α
  | [], _ => none
  | (j, x) :: t, k => if j = k then some x else Tab.find t k

/-- The entry of key `k`, or `d`. -/
def Tab.at {α : Type} (t : Tab α) (k : Nat) (d : α) : α := (t.find k).getD d

/-- Writes key `k`, keeping the keys rising. -/
def Tab.put {α : Type} : Tab α → Nat → α → Tab α
  | [], k, x => [(k, x)]
  | (j, y) :: t, k, x =>
    if k < j then (k, x) :: (j, y) :: t
    else if k = j then (k, x) :: t
    else (j, y) :: Tab.put t k x

/-- Removes key `k`. -/
def Tab.del {α : Type} : Tab α → Nat → Tab α
  | [], _ => []
  | (j, y) :: t, k => if j = k then t else (j, y) :: Tab.del t k

/-- Rewrites the entry of key `k`, which reads `d` when unlisted. -/
def Tab.upd {α : Type} (t : Tab α) (k : Nat) (d : α) (f : α → α) : Tab α := t.put k (f (t.at k d))

/-- The keys rise strictly. -/
def Tab.sorted {α : Type} : Tab α → Bool
  | [] => true
  | [_] => true
  | (j, _) :: (k, y) :: t => decide (j < k) && Tab.sorted ((k, y) :: t)

end Sys2Proof.Machine
end

