-- ==== Sys2Proof/Machine/State.lean ====
section
/-! DEFINITION. The state of the module, as plain data: every piece of state the manual names, and the model's
own `script`, `focus`, `fresh`, `steps` and `hostReply`. `State.reset` is the module right after reset. -/

namespace Sys2Proof.Machine

/-- The machine's own stops. -/
inductive Fault where
  /-- Raised by `step` when boot has halted the module (R256) and the next act is neither a boot nor a read of the boot record. Safe. -/
  | moduleHalted
  deriving DecidableEq, Repr

/-- The model's refusals. -/
inductive Refusal where
  /-- Raised by an arm of `exec` whose instruction has no meaning yet. Safe. -/
  | notModelled (mnemonic : String)
  deriving DecidableEq, Repr

/-- A position in an image (R28): the instruction at a lane of a line, or (`after`) whatever follows it by R31. -/
structure Pc where
  line : Word
  lane : BitVec 3
  after : Bool
  deriving DecidableEq, Repr

/-- An entry of the loop stack (R348). `n` is the count of LOOP, `saved` the p4-p7 to restore. -/
structure LoopEntry where
  id : BitVec 4
  start : Pc
  left : Nat
  iter : Nat
  sp : Bool
  stages : Nat
  n : Nat
  saved : BitVec 8
  deriving DecidableEq, Repr

/-- What a stream waits for (R214). A parked wait names the registers its completion writes. `reg` says that the
wait is registered (R191); `gap` and `due` are the re-check interval of an unregistered one and the cycle of its next
re-check (R195); `arr` marks a BARAW, whose arrival counts as a push once it completes (R299). -/
inductive Wait where
  | none
  /-- A stall with wait state 0: a full buffer ring, a bank, earlier records. -/
  | stall
  | queue (q : Nat)
  | branchQueue (q : Nat)
  | token (producer consumer : Nat)
  | ringFull (r : RingId)
  | counter (d : BitVec 5) (handle : BitVec 32) (threshold : Word) (reg : Bool) (gap due : Nat)
  | lock (d : BitVec 5) (handle : BitVec 32) (reg : Bool) (gap due : Nat)
  | barrier (d : BitVec 5) (p : BitVec 3) (handle : BitVec 32) (phase : Nat) (arr reg : Bool)
      (gap due : Nat)
  | mwait (d : BitVec 5) (deadline : Option Nat) (reg : Bool) (due : Nat)
  | pause (until_ : Nat)
  | idle (until_ : Nat)
  /-- FENCESC: how many entries of the address queue its step 1 waits for, the accepted counts its step 2 waits for, and the beat at
  which steps 1-3 finished (R169). -/
  | fencesc (earlier : Nat) (accepted : List Nat) (ready : Option Nat)
  /-- An operation on a Tahr object of a die under warm reset (R179). -/
  | tahrHeld (die : Nat)
  /-- A BANKM whose bank has `pend` set for it (R88, R298). -/
  | bank (b : Nat)
  | ended
  deriving DecidableEq, Repr

/-- A mark of a stream (R44): where a rolled-back stream resumes, and with what. -/
structure Mark where
  seq : Nat
  pc : Pc
  loops : List LoopEntry
  s : Vector Word 32
  a : Vector Word 16
  v : Vector Vec 32
  p : BitVec 8
  m : Vector Mask 8
  fpctl : BitVec 3
  fpflags : BitVec 5
  seed : Word
  pops : Tab Nat
  pushes : Tab Nat
  fpUses : Nat
  deriving DecidableEq, Repr

/-- A SYSWR by C to X's `fpctl` (0), `fpflags` (1) or `seed` (2) that X has not taken for good: the place of the `q6` entry that C
pushes next, how often X had used its mode or seed when C wrote, and the key of the free values meanwhile (R66). -/
structure XWrite where
  reg : Nat
  place : Nat
  value : Word
  since : Nat
  key : Nat
  deriving DecidableEq, Repr

/-- One stream (R26). `pushes` counts what it has pushed, `pops` what it has popped, by channel (R44). -/
structure StreamState where
  s : Vector Word 32
  a : Vector Word 16
  p : BitVec 8
  k : Vector Vec 8
  v : Vector Vec 32
  m : Vector Mask 8
  pc : Pc
  ended : Bool
  wait : Wait
  /-- Stopped by a debugger halt at an instruction boundary (R271). -/
  halted : Bool
  loops : List LoopEntry
  fpctl : BitVec 3
  fpflags : BitVec 5
  seed : Word
  wstat : Bool
  pushes : Tab Nat
  pops : Tab Nat
  /-- The newest mark (R44). -/
  mark : Option Mark
  /-- The mark before `mark`: the stream's other mark slot, written next (R44). -/
  earlier : Option Mark
  /-- An MWAIT was abandoned by pre-emption with no occurrence latched: it is executed again, and returns 2 (R187, R220). -/
  abandoned : Bool
  /-- A lock was granted to the stream while it was suspended, by handle, and whether it had been abandoned (R190, R203). -/
  granted : Option (BitVec 32 × Bool)
  /-- The instruction buffer: up to four lines, by address and words, the one fetched last first (R25, R33). -/
  ibuf : List (Nat × List Nat)
  /-- The cycles that it worked from its mark to the cycle `since`, and that cycle (R227). -/
  worked : Nat
  since : Nat
  /-- It has begun an instruction since its mark (R226, R227). -/
  moved : Bool
  /-- How often it has used its rounding mode or seed, as a rollback restores it, and at most so far (R66, R77). -/
  fpUses : Nat
  fpTop : Nat
  deriving DecidableEq, Repr

/-- A queue register or branch-outcome queue (R40, R41): the entries not yet released, the position of the first
one (the consumer's committed pop position) and the consumer's read position. -/
structure QueueReg where
  entries : List Nat
  base : Nat
  rd : Nat
  deriving DecidableEq, Repr

/-- A token FIFO (R43): tokens accepted, tokens popped, and the pop position of stream X's last mark. -/
structure Fifo where
  acc : Nat
  rd : Nat
  base : Nat
  deriving DecidableEq, Repr

/-- A status entry (R113). -/
structure Status where
  state : Nat
  cause : Nat
  fpfl : BitVec 5
  kflags : BitVec 8
  mark : Nat
  seq : Nat
  kcount : Nat
  rmask : Word
  beat : BitVec 32
  popd : Bool
  deriving DecidableEq, Repr

/-- The run of an MXR between its claim and its retirement (R151, R152): the entry's slot and side, and the path: 0 plain,
1 full, 2 delta, 3 until the delta pass has been made. `stamp` is the step of the claim and names it; `delta` is what the delta pass
found: the quantised deltas, row by row and group by group; `old` is the entry's watch before the claim, while the path is not decided. -/
structure MxrRun where
  slot : Nat
  side : Bool
  path : Nat
  stamp : Nat
  delta : List (List (List Nat))
  old : List (Nat × Nat × Bool)
  deriving DecidableEq, Repr

/-- The chunks of a copy, fixed at its first entry to state 7 (R91, R333): whether boundaries are counted in elements (else
in bytes), the units of a row and of a chunk, and whether each row is cut by itself. -/
structure Plan where
  conv : Bool
  row : Nat
  chunk : Nat
  perRow : Bool
  deriving DecidableEq, Repr

/-- A copy into `FIFO` banks (R89), by cluster * 64 + bank: the bytes of a part entry carried from the last mark and to the next, and
the positions that entries of the chunk after the mark have taken. `again` says that an engine reset has the chunk written again. -/
structure FifoRun where
  carry : Tab (List Nat)
  next : Tab (List Nat)
  put : Tab (List Nat)
  again : Bool
  deriving DecidableEq, Repr

/-- The run of a COLL (R248, R314): the stripe whose messages `ids` (by rank) are and whether they have been sent since the
engine took the record, the bytes of each rank's contribution that have arrived, when the wait for this stripe began, and
how it ends in error. `closed` says that every message has ended after an error. -/
structure CollRun where
  stripeNo : Nat
  ids : List (Nat × BitVec 32)
  out : Bool
  pos : Tab Nat
  since : Nat
  error : BitVec 3
  lostRank : Nat
  /-- Where in a contribution the stripe begins, and how many bytes of it it carries, fixed as it begins (R238, R248). -/
  base : Nat
  stripe : Nat
  closed : Bool
  deriving DecidableEq, Repr

/-- A record in a ring slot: its 128 bytes, its status, and what the engine keeps with the status in the context
area. -/
structure Rec where
  bytes : Vec
  st : Status
  plan : Option Plan
  fifo : FifoRun
  /-- The boundary after `mark` has been performed and is not marked yet. -/
  performed : Bool
  /-- What the performed boundary adds to `kcount` when it is marked. -/
  pend : Nat
  /-- The first receiver at which a multicast failed, and the address there (R352). -/
  failed : Option (Nat × Nat)
  /-- Its mark-and-post is done, and its token is still to be pushed. -/
  posted : Bool
  /-- A multicast's slots have been taken (R352); receivers that have failed are in `st.rmask`. -/
  slots : Bool
  asked : Option Nat
  /-- The cycle at which its mark or its state last moved. -/
  tick : Nat
  /-- When its mark or its state last moved, or the watchdog last found that its engine could not advance it, in 300ths of a beat
  (R222, R223). -/
  waited : Nat
  /-- The step at which its ring accepted it (R174). -/
  born : Nat
  /-- The records it is compared with, found when it became the oldest unstarted record of its ring (R174). -/
  rivals : Option (List (Nat × Nat))
  /-- The entries of the address queue that perform before it runs: how many are left, or none while a rolled-back stream A has to push
  the record again (R171). -/
  after : Option Nat
  /-- The records of derived edges, by ring code and sequence number (R174). -/
  derived : List (Nat × Nat)
  /-- An unregistered wait on counters: its re-check interval, and the cycle of the next re-check (R195). -/
  recheck : Option (Nat × Nat)
  /-- It has been in state 7. -/
  started : Bool
  final : Bool
  inChain : Bool
  mxr : Option MxrRun
  coll : Option CollRun
  /-- The segment record a LINK call is running (R345). -/
  seg : Option Vec
  /-- The address of a chain record, and whether an engine reset has the record fetched again (R116, R345). -/
  source : Option Word
  refetch : Bool
  audited : Bool
  /-- The destination banks whose formats a drain has checked (R359). -/
  drained : List Nat
  deriving DecidableEq, Repr

/-- A command ring (R105): slots by sequence number modulo 512, accepted and retired counts. -/
structure Ring where
  slots : Tab Rec
  acc : Nat
  ret : Nat
  deriving DecidableEq, Repr

/-- The chain state of queue L or S (R114-R116): the next record's address, the records left, the number fetched
and the kick total. -/
structure Chain where
  mode : Bool
  addr : Word
  left : Nat
  fetched : Nat
  kicks : Nat
  /-- The address and count of a QLINK that waits for the ring to empty. -/
  link : Option (Word × Nat)
  deriving DecidableEq, Repr

/-- An entry of stream A's address queue (R217). `addrs` holds the elements' addresses once the index list has been read. -/
inductive AqEntry where
  | read (q : Nat) (va : Word) (cls : BitVec 4)
  | write (va : Word) (size : Nat) (data : Nat) (cls : BitVec 4)
  | gather (q : Nat) (base index : Word) (width : Nat) (addrs : Option (List Nat))
  | scatter (base index : Word) (width : Nat) (data : Nat) (addrs : Option (List Nat))
  deriving DecidableEq, Repr

/-- The watch of a stream C (R186, R187). -/
structure Watch where
  granule : Nat
  armed : Bool
  latch : Option Nat
  stolen : Bool
  deriving DecidableEq, Repr

/-- A stream block of a fault frame (R214). -/
structure StreamBlock where
  line : Word
  lane : BitVec 3
  wait : Nat
  obj : Nat
  flags : BitVec 3
  deriving DecidableEq, Repr

/-- A fault frame, reset record or event (R213). -/
structure Frame where
  cause : Nat
  sub : Nat
  src : Nat
  addrValid : Bool
  level : Nat
  access : Nat
  seq : Nat
  corr : Nat
  gen : Nat
  cls : Nat
  width : Nat
  tenant : Nat
  addr : Word
  beat : Nat
  strc : StreamBlock
  stra : StreamBlock
  strx : StreamBlock
  aux0 : Nat
  aux1 : Nat
  cmdw : Nat
  dlock : List (Nat × Nat)
  cstat : Option Status
  fseq : Nat
  core : Nat
  deriving DecidableEq, Repr

/-- A row of the loop table (R37). -/
structure LoopRow where
  kind : Nat
  mark : Bool
  nonrestart : Bool
  stages : Nat
  idx : Nat
  trips : Nat
  live : Word
  deriving DecidableEq, Repr

/-- A job: one instance of a launch record (R34, R198). -/
structure Job where
  tenant : BitVec 6
  level : BitVec 2
  queue : Nat
  record : Nat
  inst : Nat
  image : Word
  args : Word
  idx : Vector Word 4
  done : BitVec 32
  prio : Nat
  preemptible : Bool
  det : Bool
  hostEntry : Bool
  gang : Bool
  gateOpen : Bool
  /-- A COLL of the job has completed, so that every gate of its gang has opened (R249). -/
  joined : Bool
  mask : BitVec 256
  loops : List LoopRow
  /-- The step and the beat at which it was placed. -/
  placed : Nat
  start : Nat
  /-- Bank-table entries whose mode is still to be written, by bank and mode: no stream issues before (R58, R88). -/
  banksDue : List (Nat × Nat)
  deriving DecidableEq, Repr

/-- A debugger halt (R271). -/
structure Halt where
  op : Nat
  level : Nat
  deriving DecidableEq, Repr

/-- A core reset under way (R224, R229): its trigger, the die whose `mkst` reports it (R230), and the beat and the cycle at which it
began (R227). -/
structure Resetting where
  trigger : Nat
  reporter : Option Nat
  beat : Nat
  tick : Nat
  deriving DecidableEq, Repr

/-- One core (R12). -/
structure CoreState where
  job : Option Job
  c : StreamState
  a : StreamState
  x : StreamState
  q : Tab QueueReg
  bq : Tab QueueReg
  fifo : Tab Fifo
  ringL : Ring
  ringK : Ring
  ringS : Ring
  ringG : Ring
  chainL : Chain
  chainS : Chain
  aq : List AqEntry
  slots : Tab Nat
  watch : Option Watch
  gen : BitVec 32
  clsattr : Word
  leaseRun : BitVec 7
  stop : Option Frame
  /-- Results of the C pushes performed so far, oldest first (R130, R150, R299). -/
  log : List Word
  shareL : Nat
  halt : Option Halt
  preempting : Bool
  resetting : Option Resetting
  awaitingHost : Bool
  offline : Bool
  resets : List Nat
  heldResolution : Option Nat
  /-- Values of SYSWR to X's `fpctl`, `fpflags` and `seed`: each takes effect when X pops the `q6` entry that C pushes next, and is
  kept until X's mark is past it, so that a rolled-back X takes it again (R45, R66). -/
  xfp : List XWrite
  lastChange : Nat
  /-- When stream X last executed or last went on after a wait, a stop or a halt, in 300ths of a beat (R222, R223). -/
  xTick : Nat
  /-- The core's TLB, by tenant and page (R100). -/
  tlb : List (Nat × Nat)
  deriving DecidableEq, Repr

/-- A cluster SRAM bank (R84); `rd` is the FIFO read position of stream X and `consumer` its core. `line` lists the cores that wait to change
its mode, by number in the cluster and in order of arrival: while `pend` is set, the first is the one that set it (R298). -/
structure Bank where
  mode : BitVec 2
  fmt : BitVec 4
  pend : Option (BitVec 2)
  head : Nat
  tail : Nat
  rd : Nat
  consumer : Option Nat
  tenant : BitVec 6
  line : List Nat
  deriving DecidableEq, Repr

/-- A line held in a CWAY bank: its bank, its physical address and its bytes (R167). -/
structure CwayLine where
  bank : Nat
  pa : Nat
  data : Vec
  deriving DecidableEq, Repr

/-- The state word of an accumulator bank (R129). -/
structure AccBank where
  ovf : Nat
  tenant : BitVec 6
  busy : Bool
  alloc : Bool
  owner : BitVec 2
  allocr : BitVec 2
  deriving DecidableEq, Repr

/-- A buffer ring (R117). -/
structure Bring where
  acqs : BitVec 2
  rels : BitVec 2
  valid : Bool
  owner : BitVec 2
  busy : Nat
  acq : Nat
  rel : Nat
  count : Nat
  stride : Nat
  base : Nat
  acqTotal : Nat
  relTotal : Nat
  deriving DecidableEq, Repr

/-- The tile held in the cells (R133): elements by offset in accumulator memory, and staging counts by bank. -/
structure Tile where
  core : BitVec 8
  elems : List (Nat × BitVec 32)
  counts : Tab Nat
  deriving DecidableEq, Repr

/-- The array lease (R124, R125). -/
structure Lease where
  holder : Option (BitVec 2)
  retired : Nat
  len : Nat
  start : Nat
  last : BitVec 2
  lost : Tab Nat
  ending : Bool
  deriving DecidableEq, Repr

/-- The conflict matrix of a cluster (R272): for each past span of time, newest first, the number that names the free counts of its
lost cycles; and, for each core, how many spans had passed when its job started, so that its rows count the later ones only, and at
its last loop exit. -/
structure Matrix where
  spans : List Nat
  cleared : Tab Nat
  left : Tab Nat
  deriving DecidableEq, Repr

/-- The snapshot copy of a conflict matrix (R272), with its tag. -/
structure Conflicts where
  words : Matrix
  core : Nat
  loop : Nat
  beat : Nat
  deriving DecidableEq, Repr

/-- One cluster (R12). -/
structure ClusterState where
  banks : Tab Bank
  cway : List CwayLine
  acc : Tab AccBank
  cells : Option Tile
  lease : Lease
  brings : Tab Bring
  /-- Copies of reuse entries, the least recently claimed first: tenant, slot and the slot's update count (R142). -/
  reuseCache : List (Nat × Nat × Nat)
  matrix : Matrix
  cmSnap : Option Conflicts
  tlb : List (Nat × Nat)
  deriving DecidableEq, Repr

/-- What a Tahr slot holds (R177, R178). A barrier keeps, for each core, the phase of its last arrival; one that a job has made on
another core is kept plus 65,536. -/
inductive Obj where
  | counter (value : Nat)
  | barrier (expect : Nat) (mask : BitVec 256) (phase : Nat) (arrived : BitVec 256) (broken : Bool)
      (last : Tab Nat)
  | lock (holder : Option Nat) (aband : Bool) (waiters : List Nat)
  | wait
  deriving DecidableEq, Repr

/-- A Tahr slot: its generation, its owner and object, its declared holders, oldest first (R192), and the state of its two copies: which
of them hold an uncorrectable error, and whether they decode cleanly and differ (R179). -/
structure Slot where
  gen : BitVec 8
  tenant : BitVec 6
  obj : Option Obj
  poisoned : Bool
  holders : List Nat
  bad : BitVec 2
  differ : Bool
  deriving DecidableEq, Repr

/-- A post on its way to a Tahr store (R180): the posting stream, or no core for hardware; `cause` is the fault of a
refused one. -/
structure Post where
  core : Option (BitVec 8)
  lane : Nat
  /-- The job that posts: its queue, record and instance. -/
  job : Nat × Nat × Nat
  tenant : BitVec 6
  level : BitVec 2
  handle : BitVec 32
  inc : Nat
  cause : Nat
  deriving DecidableEq, Repr

/-- An edge of the wait-for table (R191): waiter stream id, object (a handle, or a granule for MWAIT). `cmd` is
the ring and sequence number of a command wait. -/
structure Edge where
  waiter : Nat
  granule : Bool
  obj : Nat
  cmd : Option (RingId × Nat)
  deriving DecidableEq, Repr

/-- A request written to a control register and not yet performed, with the level, tenant and core that wrote it and the
argument registers as they stood. -/
structure Request where
  value : Word
  level : BitVec 2
  tenant : BitVec 6
  core : Option (BitVec 8)
  args : List Nat
  deriving DecidableEq, Repr

/-- A message kept by its sender until it ends (R245): `origin` names the core, sequence number and rank of a COLL. -/
structure SentMsg where
  msgid : BitVec 32
  src : BitVec 16
  dst : BitVec 16
  pkey : BitVec 16
  tenant : BitVec 6
  corr : BitVec 32
  va : Word
  cls : BitVec 6
  data : List Nat
  m : Nat
  dl : Nat
  sent : Nat
  retrans : Bool
  origin : Option (BitVec 8 × Nat × Nat)
  deriving DecidableEq, Repr

/-- A decode context (R245): the header that opened it, the beat, the deadline, the fragments held by index. `complete` says
that it waits for earlier messages of its ordered channel (R246). -/
structure RecvCtx where
  src : BitVec 16
  msgid : BitVec 32
  hdr : BitVec 256
  opened : Nat
  dl : Nat
  data : Tab (List Nat)
  parity : Tab (List Nat)
  nacked : Bool
  complete : Bool
  deriving DecidableEq, Repr

/-- The state of one engine's supervisor (R224): 0 WATCH, 1 DRAIN, 2 HOLD, 3 RELOAD, 4 CORE. -/
structure Supervisor where
  engine : EngineId
  state : Nat
  trigger : Nat
  since : Nat
  history : List Nat
  wasIdle : Bool
  lastScrub : Nat
  /-- In state 4, the core that is reset. -/
  core : Option Nat
  /-- The die whose `mkst` waits for the reset (R230). -/
  reporter : Option Nat
  /-- The beat and the cycle at which the reset began, and the units and cycles of work that it discards (R227). -/
  beat : Nat
  tick : Nat
  lost : Nat × Nat
  deriving DecidableEq, Repr

/-- A page mapping (R98). -/
structure Mapping where
  va : Nat
  pa : Nat
  size : Nat
  u : Bool
  x : Bool
  w : Bool
  deriving DecidableEq, Repr

/-- A slot of the reuse directory (R141). `watch` lists the physical runs watched: base, length, and whether a comparator
watches them (else their region does, R156). `claim` is the stamp of the claiming MXR (`MxrRun.stamp`). -/
structure DirSlot where
  layer : Nat
  desc : BitVec 512
  state : Nat
  version : Nat
  steps : Nat
  side : Bool
  invals : Nat
  coarse : Bool
  claim : Option Nat
  race : Bool
  updates : Nat
  armed : Bool
  watch : List (Nat × Nat × Bool)
  deriving DecidableEq, Repr

/-- What a log holds beside bytes: the record as it entered state 7, its job, its tenant's mappings, its cluster with the formats of its banks,
the entry that it claimed with the entry's slot, and for each run of logged bytes the location that they were read from (R161, R266). -/
structure AuditStart where
  record : Rec
  job : Job
  maps : List Mapping
  cluster : ClusterState
  entry : Option (Nat × DirSlot)
  parts : List (Option Nat × Nat)
  deriving DecidableEq, Repr

/-- The audit of a selected record (R266, R267): its core, ring, sequence and correlation numbers and tenant, the base of the area and the 4
KiB units of it that its log takes, what the log holds beside bytes, the CRC over what has been marked, the destination bytes of the
boundary performed and not yet marked, and, in time, the two signatures and the cluster of the replay. -/
structure AuditLog where
  core : BitVec 8
  ring : RingId
  seq : Nat
  corr : Nat
  tenant : BitVec 6
  base : Nat
  place : List Nat
  start : AuditStart
  crc : Word
  pending : List Nat
  original : Option Word
  replay : Option (Nat × Word)
  deriving DecidableEq, Repr

/-- One die (R12). -/
structure DieState where
  mapva : Word
  mappa : Word
  mapReq : Option Request
  mapst : Nat
  tlb : List (Nat × Nat)
  /-- Misses by tenant and 4 KiB page, oldest first, with the cores that wait (R100). -/
  missTable : List (Nat × Nat × List Nat)
  objReq : Option Request
  objst : Word
  objmask : BitVec 256
  tahr : Tab Slot
  posts : List Post
  refusals : List Post
  held : List Post
  edges : List Edge
  wfovf : Nat
  watches : List (BitVec 8)
  scrubPeriod : Nat
  wdog : Nat
  mkReq : Option Request
  mkst : Nat
  phase : Nat
  /-- Tenants whose jobs a warm reset of the die has ended (R227). -/
  touched : List Nat
  /-- Of the warm reset under way: the units and cycles that were lost, and the beat at which it began (R227). -/
  lost : Nat × Nat × Nat
  supervisors : List Supervisor
  fabid : BitVec 16
  fcrate : Tab Word
  fcrcerr : Nat
  fkeydrop : Nat
  fctxfull : Nat
  flate : Nat
  route : Tab Word
  routeShadow : Tab Word
  fpk : Tab (BitVec 16)
  fpkShadow : Tab (BitVec 16)
  rtswap : Word
  rtst : Nat
  msgid : BitVec 32
  kept : List SentMsg
  /-- Fragments that leave the die, with the module port they queue on: 32 is the die's own receiver, 33 the other members
  of a gang (DESIGN CHOICE, log 33). -/
  egress : List (Nat × Fragment)
  ctxs : List RecvCtx
  past : List (Nat × Nat)
  newest : Tab Nat
  /-- Messages that the collective engine has not taken yet: tenant, address, length and, where it is known, the group tag (R313). -/
  arrivals : List (Nat × Nat × Nat × Option Nat)
  colltmo : Nat
  passes : Tab Nat
  ue : Tab Nat
  late : BitVec 3
  passStart : Tab Nat
  /-- What the present pass has read of each memory: runs of locations, base and length, ascending and apart (R263). -/
  covered : Tab (List (Nat × Nat))
  behind : BitVec 3
  mmcount : Tab Nat
  mmflash : Tab Nat
  mmidx : Nat
  audn : Nat
  auden : Bool
  audarea : Word
  audskip : Nat
  candidates : Nat
  audits : List AuditLog
  permits : List (BitVec 8 × RingId)
  deriving DecidableEq, Repr

/-- What a launch has read of its record, mask and image (R198, R58): the record's bytes, the entry line, the loop table, the
bank table (bank, mode, format), the ring table (id, count, stride / 256, base) and the first lanes of C, A and X. -/
structure Launch where
  bytes : List Nat
  mask : BitVec 256
  code : Word
  loops : List LoopRow
  banks : List (Nat × Nat × Nat)
  rings : List (Nat × Nat × Nat × Nat)
  starts : List Pc
  deriving DecidableEq, Repr

/-- The placement progress of a presented launch record (R197, R201). `since` is the beat at which it was found ready; `gate`
says that its start gate has opened, `cancelled` that its gang was cancelled (R207, R208). -/
structure Progress where
  placed : List Nat
  running : Nat
  since : Option Nat
  taken : Bool
  fail : Nat
  completed : List Nat
  ctl : Nat
  done : BitVec 32
  launch : Option Launch
  gate : Bool
  cancelled : Bool
  /-- The beat at which its last instance was placed (R207). -/
  full : Option Nat
  /-- The record's bytes, once the schedulers have acted on it. -/
  bytes : Option (List Nat)
  deriving DecidableEq, Repr

/-- A launch queue (R196). -/
structure LaunchQueue where
  cfg : Word
  tail : Nat
  head : Nat
  progress : Tab Progress
  deriving DecidableEq, Repr

/-- A completion entry on its way to the host's ring (R254). -/
structure HostEntry where
  kind : Nat
  code : Nat
  lq : Nat
  record : Nat
  done : BitVec 32
  disc : Nat
  core : Option (BitVec 8)
  deriving DecidableEq, Repr

/-- One tenant (R2). -/
structure TenantState where
  lqs : Tab LaunchQueue
  fqcfg : Word
  fqtail : Nat
  fqhead : Nat
  fqsig : BitVec 32
  fqresn : Word
  frames : Nat
  outbox : List Frame
  warned : Bool
  amoflags : BitVec 5
  sqmask : BitVec 8
  tshare : Nat
  rsmcfg : Word
  hsqcfg : Word
  hcqcfg : Word
  hsqtail : Nat
  hsacc : Nat
  hsdone : Nat
  hcqtail : Nat
  hcqhead : Nat
  hserr : Word
  hsStopped : Bool
  /-- Submissions accepted and not yet performed, oldest first (R253). -/
  hsHeld : List (List Nat)
  entries : List HostEntry
  trcfg : Word
  trtail : Nat
  trhead : Nat
  trmask : BitVec 16
  trdrop : Nat
  maps : List Mapping
  dir : Tab DirSlot
  /-- Start and end beats of the core time used by ended runs (R200). -/
  runs : List (Nat × Nat)
  deriving DecidableEq, Repr

/-- A pre-empted job (R219): the whole core context, the home-group banks, the owned accumulator banks with the
bytes of both, and the buffer rings. -/
structure Saved where
  id : Nat
  /-- The core it left. -/
  core : BitVec 8
  ctx : CoreState
  banks : Tab Bank
  acc : Tab AccBank
  brings : Tab Bring
  mem : List Host.Cell
  due : Bool
  halted : Bool
  /-- The beat at which it was saved. -/
  since : Nat
  deriving DecidableEq, Repr

/-- A kept resume state (R204): the contexts of the uncompleted instances of a launch, by `done` handle, and the launch's record. -/
structure Kept where
  tenant : BitVec 6
  done : BitVec 32
  queue : Nat
  record : Nat
  units : Nat
  ctxs : Tab Saved
  completed : List Nat
  deriving DecidableEq, Repr

/-- A port notice waiting to be written (R244). -/
structure Notice where
  seq : Nat
  beat : Nat
  up : Bool
  port : Nat
  fabid : BitVec 16
  deriving DecidableEq, Repr

/-- A snapshot in progress (R260). -/
structure Snapshot where
  step : BitVec 32
  /-- The chunks (64 KiB units) of the regions in ascending order, those not yet copied, and what those of them written
  meanwhile held before. -/
  chunks : List Nat
  pending : List Nat
  /-- Pending chunks that have been copied and are on their way to the buddy. -/
  sent : List Nat
  before : Tab (List Host.Cell)
  /-- The slot written, 0 or 1 at the buddy and 2 or 3 here. -/
  slot : Nat
  /-- Messages on their way to the buddy, each with the chunk that it carries a part of; none for a header. -/
  awaiting : List (BitVec 32 × Option Nat)
  /-- 0 while the slot's flag is being cleared, 1 while chunks are copied, 2 when the header has been sent. -/
  phase : Nat
  /-- The CRC of each chunk copied. -/
  crcs : Tab Word
  deriving DecidableEq, Repr

/-- The module level: what no die owns (R12). -/
structure ModuleState where
  present : BitVec 4
  podModule : BitVec 13
  linkDown : List (BitVec 2 × BitVec 2)
  edzanDown0 : Bool
  edzanDown1 : Bool
  portsUp : BitVec 32
  gangGrace : BitVec 32
  fnqcfg : Word
  fnqtail : Nat
  fnqhead : Nat
  fnqsig : BitVec 32
  noticeSeq : Nat
  notices : List Notice
  boot : Tab (BitVec 8)
  bootCount : BitVec 32
  bootClear : Bool
  halted : Bool
  flashA : List Byte
  flashB : List Byte
  blob : List Byte
  /-- The firmware that was started as tenant 0: the blob body it comes from (R256 step 9). -/
  firmware : List Byte
  ckarea : Word
  ckbuddy : BitVec 16
  ckslot : Nat
  ckcls : BitVec 3
  cklocal : Bool
  ckstep : BitVec 32
  ckReq : Option Word
  ckst : Nat
  ckclean : Bool
  cleanStep : BitVec 32
  ckreg : Tab Word
  snap : Option Snapshot
  /-- The slot that holds the newest complete step sent (R260). -/
  newestSlot : Option Nat
  /-- Writes of the hardware that wait for a chunk to be copied, in order (R260). -/
  heldWrites : List (Nat × List Nat)
  stgcfg : Tab (BitVec 14)
  saved : List Saved
  savedCount : Nat
  keptStates : List Kept
  /-- Cancellations received, by tenant and gang, of records that are not known yet (R208). -/
  cancelled : List (Nat × BitVec 32)
  latencyFixed : Bool
  mmSaved : Nat
  deriving DecidableEq, Repr

/-- The answer the host last received on the Edzan Link (DESIGN CHOICE, log 13). -/
inductive HostReply where
  | none
  | done
  | data (bytes : List Byte)
  | error (cause : Nat)
  deriving DecidableEq, Repr

/-- Who moves next: a stream of a core, or an event. -/
inductive Choice where
  | stream (core : BitVec 8) (lane : Lane)
  | event (i : Instr)
  deriving DecidableEq, Repr

/-- The state of the module. -/
structure State where
  mem : List Host.Cell
  /-- Locations of the 8-byte words that hold an uncorrectable error (R263, DESIGN CHOICE, log 34). -/
  damaged : List Nat
  cores : Tab CoreState
  clusters : Tab ClusterState
  dies : Tab DieState
  tenants : Tab TenantState
  mod : ModuleState
  tick : Word
  beat : Word
  cycle : Nat
  hostReply : HostReply
  script : List Choice
  focusCore : BitVec 8
  focusLane : Lane
  rotor : Nat
  fresh : Nat
  steps : Nat
  deriving DecidableEq, Repr

/-- The position before any job. -/
def Pc.zero : Pc := ⟨0, 0, false⟩

/-- A stream with every register zero (R34). -/
def StreamState.reset : StreamState :=
  { s := Vector.replicate 32 0, a := Vector.replicate 16 0, p := 0, k := Vector.replicate 8 0,
    v := Vector.replicate 32 0, m := Vector.replicate 8 0, pc := Pc.zero, ended := false, wait := .none,
    halted := false, loops := [], fpctl := 0, fpflags := 0, seed := 0, wstat := false, pushes := [], pops := [],
    mark := none, earlier := none, abandoned := false, granted := none, ibuf := [], worked := 0, since := 0, moved := false, fpUses := 0, fpTop := 0 }

/-- An empty queue (R40). -/
def QueueReg.reset : QueueReg := ⟨[], 0, 0⟩

/-- An empty token FIFO (R43). -/
def Fifo.reset : Fifo := ⟨0, 0, 0⟩

/-- A ring at job start (R105). -/
def Ring.reset : Ring := ⟨[], 0, 0⟩

/-- A queue in ring mode (R114). -/
def Chain.reset : Chain := ⟨false, 0, 0, 0, 0, none⟩

/-- `clsattr` at reset: class 15 is a device class (R165). -/
def clsattrReset : Word := 0x2000000000000000#64

/-- A core with no job (R34, R105, R126, R165, R218). -/
def CoreState.reset : CoreState :=
  { job := none, c := StreamState.reset, a := StreamState.reset, x := StreamState.reset, q := [], bq := [],
    fifo := [], ringL := Ring.reset, ringK := Ring.reset, ringS := Ring.reset, ringG := Ring.reset,
    chainL := Chain.reset, chainS := Chain.reset, aq := [], slots := [], watch := none, gen := 0,
    clsattr := clsattrReset, leaseRun := 8, stop := none, log := [], shareL := 0, halt := none,
    preempting := false, resetting := none, awaitingHost := false, offline := false, resets := [],
    heldResolution := none, xfp := [], lastChange := 0, xTick := 0, tlb := [] }

/-- A bank after a die reset: OFF, raw, tenant 0 (R84). -/
def Bank.reset : Bank := ⟨0, 0xF, none, 0, 0, 0, none, 0, []⟩

/-- A free accumulator bank (R129). -/
def AccBank.reset : AccBank := ⟨0, 0, false, false, 0, 0⟩

/-- A buffer ring that no job owns (R117). -/
def Bring.reset : Bring := ⟨0, 0, false, 0, 0, 0, 0, 0, 0, 0, 0, 0⟩

/-- No core holds the array (R124). -/
def Lease.reset : Lease := ⟨none, 0, 0, 0, 0, [], false⟩

/-- A cluster after a die reset. -/
def ClusterState.reset : ClusterState :=
  { banks := [], cway := [], acc := [], cells := none, lease := Lease.reset, brings := [], reuseCache := [],
    matrix := ⟨[], [], []⟩, cmSnap := none, tlb := [] }

/-- A Tahr slot that was never allocated (R178). -/
def Slot.reset : Slot := ⟨0, 0, none, false, [], 0, false⟩

/-- `fcrate` at reset: deadline 40, m 2, kmax 32 (R238). -/
def fcrateReset : Word := 0x0028000000000220#64

/-- A die right after reset (R98, R178, R222, R230, R236-R249, R264-R266). -/
def DieState.reset : DieState :=
  { mapva := 0, mappa := 0, mapReq := none, mapst := 0, tlb := [], missTable := [], objReq := none, objst := 0,
    objmask := 0, tahr := [], posts := [], refusals := [], held := [], edges := [], wfovf := 0, watches := [],
    scrubPeriod := 100, wdog := 4000, mkReq := none, mkst := 0, phase := 0, touched := [], lost := (0, 0, 0), supervisors := [], fabid := 0xFFFF,
    fcrate := [], fcrcerr := 0, fkeydrop := 0, fctxfull := 0, flate := 0, route := [], routeShadow := [],
    fpk := [], fpkShadow := [], rtswap := 0, rtst := 0, msgid := 0, kept := [], egress := [], ctxs := [],
    past := [], newest := [], arrivals := [], colltmo := 40000, passes := [], ue := [], late := 0,
    passStart := [], covered := [], behind := 0, mmcount := [], mmflash := [], mmidx := 0, audn := 16,
    auden := false, audarea := 0, audskip := 0, candidates := 0, audits := [], permits := [] }

/-- A launch queue at reset (R196). -/
def LaunchQueue.reset : LaunchQueue := ⟨0, 0, 0, []⟩

/-- A directory slot that was never armed (R141, R146). -/
def DirSlot.reset : DirSlot := ⟨0, 0, 0, 0, 0, false, 0, false, none, false, 0, false, []⟩

/-- A tenant at reset (R185, R196, R200, R205, R209, R215, R251, R270). -/
def TenantState.reset : TenantState :=
  { lqs := [], fqcfg := 0, fqtail := 0, fqhead := 0, fqsig := 0, fqresn := 0, frames := 0, outbox := [],
    warned := false, amoflags := 0, sqmask := 0, tshare := 1, rsmcfg := 0x100, hsqcfg := 0, hcqcfg := 0,
    hsqtail := 0, hsacc := 0, hsdone := 0, hcqtail := 0, hcqhead := 0, hserr := 0, hsStopped := false, hsHeld := [],
    entries := [], trcfg := 0, trtail := 0, trhead := 0, trmask := 0, trdrop := 0, maps := [], dir := [],
    runs := [] }

/-- The module level right after module reset (R208, R244, R257-R259). -/
def ModuleState.reset : ModuleState :=
  { present := 0xF, podModule := 0, linkDown := [], edzanDown0 := false, edzanDown1 := false,
    portsUp := 0xFFFFFFFF, gangGrace := 400, fnqcfg := 0, fnqtail := 0, fnqhead := 0, fnqsig := 0,
    noticeSeq := 0, notices := [], boot := [], bootCount := 0, bootClear := false, halted := false, flashA := [],
    flashB := [], blob := [], firmware := [], ckarea := 0, ckbuddy := 0xFFFF, ckslot := 0, ckcls := 0, cklocal := false,
    ckstep := 0, ckReq := none, ckst := 0, ckclean := false, cleanStep := 0, ckreg := [], snap := none, newestSlot := none, heldWrites := [],
    stgcfg := [], saved := [], savedCount := 0, keptStates := [], cancelled := [], latencyFixed := false,
    mmSaved := 0 }

/-- The machine right after reset. -/
def State.reset : State :=
  { mem := [], damaged := [], cores := [], clusters := [], dies := [], tenants := [], mod := ModuleState.reset, tick := 0,
    beat := 0, cycle := 0, hostReply := .none, script := [], focusCore := 0, focusLane := .c, rotor := 0,
    fresh := 0, steps := 0 }

end Sys2Proof.Machine
end

