-- ==== Sys2Proof/Machine/Ops.lean ====
section
/-! DEFINITION. The named operations over the state: numbering, registers, memory and its side effects, address
translation, the search for a stream's next lane, rings in a tenant's memory, the trace, taking a fault (the stop of
R212) and resolving it (R216). -/

namespace Sys2Proof.Machine

/-! ### Numbering (R13, R14) -/

def clusterOf (core : Nat) : Nat := core / 4
def dieOf (core : Nat) : Nat := core / 64
def coreIn (core : Nat) : Nat := core % 4
def dieOfCluster (cl : Nat) : Nat := cl / 16

def laneTag : Lane → Nat
  | .c => 1
  | .a => 2
  | .x => 3

def streamId (core : Nat) (l : Lane) : Nat := 4 * core + laneTag l

/-- The stream of a stream id; one whose low two bits are 0 names none (R13). -/
def streamOfId (i : Nat) : Option (Nat × Lane) :=
  match i % 4 with
  | 1 => some (i / 4, .c)
  | 2 => some (i / 4, .a)
  | 3 => some (i / 4, .x)
  | _ => none

def ringCode : RingId → Nat
  | .l => 0
  | .k => 1
  | .s => 2
  | .g => 3

def ringOfCode (q : BitVec 2) : RingId :=
  if q == 0 then .l else if q == 1 then .k else if q == 2 then .s else .g

/-! ### Parts of the state -/

def State.core (s : State) (c : Nat) : CoreState := s.cores.at c CoreState.reset
def State.setCore (s : State) (c : Nat) (x : CoreState) : State := { s with cores := s.cores.put c x }
def State.updCore (s : State) (c : Nat) (f : CoreState → CoreState) : State := s.setCore c (f (s.core c))
def State.cluster (s : State) (c : Nat) : ClusterState := s.clusters.at c ClusterState.reset
def State.updCluster (s : State) (c : Nat) (f : ClusterState → ClusterState) : State :=
  { s with clusters := s.clusters.put c (f (s.cluster c)) }
def State.die (s : State) (d : Nat) : DieState := s.dies.at d DieState.reset
def State.updDie (s : State) (d : Nat) (f : DieState → DieState) : State :=
  { s with dies := s.dies.put d (f (s.die d)) }
def State.tenant (s : State) (t : Nat) : TenantState := s.tenants.at t TenantState.reset
def State.updTenant (s : State) (t : Nat) (f : TenantState → TenantState) : State :=
  { s with tenants := s.tenants.put t (f (s.tenant t)) }
def State.updMod (s : State) (f : ModuleState → ModuleState) : State := { s with mod := f s.mod }

def CoreState.str (c : CoreState) : Lane → StreamState
  | .c => c.c
  | .a => c.a
  | .x => c.x

def CoreState.setStr (c : CoreState) (l : Lane) (t : StreamState) : CoreState :=
  match l with
  | .c => { c with c := t }
  | .a => { c with a := t }
  | .x => { c with x := t }

def State.str (s : State) (c : Nat) (l : Lane) : StreamState := (s.core c).str l
def State.updStr (s : State) (c : Nat) (l : Lane) (f : StreamState → StreamState) : State :=
  s.updCore c fun k => k.setStr l (f (k.str l))

/-- The stream that issues. -/
def State.fcore (s : State) : Nat := s.focusCore.toNat
def State.me (s : State) : StreamState := s.str s.fcore s.focusLane
def State.updMe (s : State) (f : StreamState → StreamState) : State := s.updStr s.fcore s.focusLane f
def State.myCore (s : State) : CoreState := s.core s.fcore
def State.updMyCore (s : State) (f : CoreState → CoreState) : State := s.updCore s.fcore f

/-- Tenant and level of the job on a core; tenant 0 at level U where there is none. -/
def State.tenantOf (s : State) (c : Nat) : Nat := ((s.core c).job.map (·.tenant.toNat)).getD 0
def State.levelOf (s : State) (c : Nat) : Nat := ((s.core c).job.map (·.level.toNat)).getD 0

def Tab.keys {α : Type} (t : Tab α) : List Nat := t.map Prod.fst

/-- Time in 300ths of a beat, which throttling does not slow (R7). -/
def State.fine (s : State) : Nat := s.beat.toNat * 300 + s.cycle

/-- A free natural number (DESIGN CHOICE, log 14). -/
def State.draw (s : State) : Nat × State := (Config.freeNat s.fresh, { s with fresh := s.fresh + 1 })

/-! ### Registers (R26) -/

def StreamState.rs (t : StreamState) (r : BitVec 5) : Word := t.s[r.toNat]'(r.isLt)
def StreamState.ws (t : StreamState) (r : BitVec 5) (v : Word) : StreamState :=
  { t with s := t.s.set r.toNat v r.isLt }

/-- Address register; check 7 keeps the number below 16. -/
def StreamState.ra (t : StreamState) (r : BitVec 5) : Word := t.a[(r.setWidth 4).toNat]'((r.setWidth 4).isLt)
def StreamState.wa (t : StreamState) (r : BitVec 5) (v : Word) : StreamState :=
  { t with a := t.a.set (r.setWidth 4).toNat v (r.setWidth 4).isLt }

/-- Predicate register: `p0` reads true (R26). -/
def StreamState.rp (t : StreamState) (p : BitVec 3) : Bool := p == 0 || t.p.getLsbD p.toNat

/-- A `.sp` loop is active (R348). -/
def StreamState.spActive (t : StreamState) : Bool := t.loops.any (·.sp)

def setBit8 (x : BitVec 8) (i : Nat) (b : Bool) : BitVec 8 :=
  if b then x ||| BitVec.ofNat 8 (2 ^ i) else x &&& ~~~(BitVec.ofNat 8 (2 ^ i))

/-- Writes a predicate: `p0` ignores writes, and so do `p4`-`p7` while a `.sp` loop is active (R26, R348). -/
def StreamState.wp (t : StreamState) (p : BitVec 3) (b : Bool) : StreamState :=
  if p == 0 || (4 ≤ p.toNat && t.spActive) then t else { t with p := setBit8 t.p p.toNat b }

def StreamState.rv (t : StreamState) (r : BitVec 5) : Vec := t.v[r.toNat]'(r.isLt)
def StreamState.wv (t : StreamState) (r : BitVec 5) (v : Vec) : StreamState :=
  { t with v := t.v.set r.toNat v r.isLt }

/-- Mask register: `m0` reads all ones and ignores writes (R26). -/
def StreamState.rm (t : StreamState) (m : BitVec 3) : Mask := if m == 0 then BitVec.allOnes 128 else t.m[m.toNat]'(m.isLt)
def StreamState.wm (t : StreamState) (m : BitVec 3) (v : Mask) : StreamState :=
  if m == 0 then t else { t with m := t.m.set m.toNat v m.isLt }

def StreamState.rk (t : StreamState) (k : BitVec 3) : Vec := t.k[k.toNat]'(k.isLt)
def StreamState.wk (t : StreamState) (k : BitVec 3) (v : Vec) : StreamState := { t with k := t.k.set k.toNat v k.isLt }

/-- The instruction has been executed: the stream goes on at its successor (R31). -/
def StreamState.done (t : StreamState) : StreamState := { t with pc := { t.pc with after := true }, wait := .none }

/-- As `done`, with the executed instruction at `pc` (the follower of an XIMM pair, R286). -/
def StreamState.doneAt (t : StreamState) (pc : Pc) : StreamState := { t with pc := { pc with after := true }, wait := .none }

/-- The stream continues at a line and lane. -/
def StreamState.goto (t : StreamState) (line : Word) (lane : BitVec 3) : StreamState :=
  { t with pc := ⟨line, lane, false⟩, wait := .none }

/-- The stream stays at the instruction and shows a wait. -/
def StreamState.stalls (t : StreamState) (w : Wait) : StreamState := { t with wait := w }

def State.advance (s : State) : State := s.updMe StreamState.done
/-- The issuing stream waits at its instruction; a new wait restarts the interval of R42. -/
def State.stall (s : State) (w : Wait) : State :=
  if s.me.wait == w then s
  else (s.updMe (·.stalls w)).updMyCore fun k => { k with lastChange := s.tick.toNat }

/-- Writes a scalar of the issuing stream and goes on. -/
def State.writeS (s : State) (d : BitVec 5) (v : Word) : State := s.updMe fun t => (t.ws d v).done
/-- Writes an address register of the issuing stream and goes on. -/
def State.writeA (s : State) (d : BitVec 5) (v : Word) : State := s.updMe fun t => (t.wa d v).done
/-- Writes a predicate of the issuing stream and goes on. -/
def State.writeP (s : State) (d : BitVec 3) (b : Bool) : State := s.updMe fun t => (t.wp d b).done

/-! ### Memory: byte locations (DESIGN CHOICE, log 4) -/

/-- Location of a byte of cluster SRAM and of accumulator memory; a physical address is its own location. -/
def sramKey (cl off : Nat) : Nat := 2 ^ 52 + cl * 2 ^ 21 + off
def accKey (cl off : Nat) : Nat := 2 ^ 53 + cl * 2 ^ 21 + off

/-- What a byte reads as: 0 when unlisted (DESIGN CHOICE, log 4). -/
def memRead (m : List Host.Cell) (k : Nat) : Byte := Tab.at m k 0

/-- Writes one byte, keeping the canonical form: addresses rise, no entry is 0. -/
def memWrite (m : List Host.Cell) (k : Nat) (b : Byte) : List Host.Cell :=
  if b == 0 then Tab.del m k else Tab.put m k b

/-- The canonical form. -/
def Memory.wf (m : List Host.Cell) : Bool := Tab.sorted m && m.all (fun c => c.2 != 0)

def memReads (m : List Host.Cell) (k : Nat) : Nat → List Nat
  | 0 => []
  | n + 1 => (memRead m k).toNat :: memReads m (k + 1) n

def memWrites (m : List Host.Cell) (k : Nat) : List Nat → List Host.Cell
  | [] => m
  | b :: t => memWrites (memWrite m k (BitVec.ofNat 8 b)) (k + 1) t

/-- Zeroes `n` bytes. -/
def memZero (m : List Host.Cell) (k n : Nat) : List Host.Cell := m.filter fun c => c.1 < k || k + n ≤ c.1

def overlaps (a n b m : Nat) : Bool := a < b + m && b < a + n

/-- Zeroes `n` bytes; errors in them are gone. -/
def State.zeroLoc (s : State) (k n : Nat) : State :=
  { s with mem := memZero s.mem k n, damaged := s.damaged.filter fun w => !overlaps w 8 k n }

/-- A write of whole words takes their errors away (DESIGN CHOICE, log 34). -/
def State.repair (s : State) (k n : Nat) : State :=
  { s with damaged := s.damaged.filter fun w => !(k ≤ w && w + 8 ≤ k + n) }

def State.readLoc (s : State) (k n : Nat) : List Nat := memReads s.mem k n

/-- Moves a reuse entry on a watched write or mapping change (R145, R157). -/
def DirSlot.hit (d : DirSlot) : DirSlot :=
  let r := d.race || d.claim.isSome
  if d.state == 1 || d.state == 2 then
    { d with state := 3, version := d.version % 65535 + 1, invals := min (d.invals + 1) 0xFFFFFFFF, race := r,
             updates := (d.updates + 1) % 2 ^ 32 }
  else if r && !d.race then { d with race := r, updates := (d.updates + 1) % 2 ^ 32 } else d

/-- Entries whose watch covers a written range move (R155). -/
def State.reuseWritten (s : State) (pa n : Nat) : State :=
  { s with tenants := s.tenants.map fun (t, x) =>
      (t, { x with dir := x.dir.map fun (i, d) => (i, if d.watch.any (fun w => overlaps w.1 w.2.1 pa n) then d.hit else d) }) }

/-- Removes the wait edges of a stream (R191). -/
def State.dropEdges (s : State) (p : Edge → Bool) : State :=
  { s with dies := s.dies.map fun (i, d) => (i, { d with edges := d.edges.filter fun e => !p e }) }

/-- A parked MWAIT returns `code` (R187). A latched code 2 is reported once, as the others are (DESIGN CHOICE, log 80). -/
def State.mwaitReturn (s : State) (core : Nat) (d : BitVec 5) (code : Nat) : State :=
  (s.updCore core fun k =>
    { k with c := (k.c.ws d (BitVec.ofNat 64 code)).done,
             watch := k.watch.map fun w => if code ≤ 3 then { w with latch := none } else w }).dropEdges
    fun e => e.waiter == streamId core .c && e.granule

/-- An occurrence reaches a stream's watch: it is latched, and a parked MWAIT returns with it, an IDLE ends
(R187, R335). -/
def State.watchOccurs (s : State) (core code : Nat) : State :=
  match (s.core core).watch with
  | none => s
  | some w =>
    if !w.armed && code != 1 then s else
    let s := s.updCore core fun k => { k with watch := some { w with latch := w.latch.or (some code) } }
    match (s.core core).c.wait with
    | .mwait d _ _ _ => s.mwaitReturn core d code
    | .idle _ => s.updStr core .c fun t => { t with wait := .none }
    | _ => s

/-- Every watch on a written granule takes the occurrence (R187). -/
def State.watchWritten (s : State) (k n : Nat) : State :=
  s.cores.foldl (init := s) fun s (c, x) =>
    match x.watch with
    | some w => if w.armed && overlaps (w.granule * 64) 64 k n then s.watchOccurs c 0 else s
    | none => s

/-- Bytes of a held line after a write. -/
def CwayLine.patch (l : CwayLine) (pa : Nat) (bs : List Nat) : CwayLine :=
  let old := bytesOf 128 l.data.toNat
  { l with data := BitVec.ofNat 1024 (ofBytes ((List.range 128).map fun i =>
      if pa ≤ l.pa + i && l.pa + i < pa + bs.length then bs.getD (l.pa + i - pa) 0 else old.getD i 0)) }

/-- A write by a stream of a cluster updates the cluster's held lines (R167). -/
def State.cwayWritten (s : State) (cl pa : Nat) (bs : List Nat) : State :=
  if (s.cluster cl).cway.any (fun l => overlaps l.pa 128 pa bs.length) then
    s.updCluster cl fun c => { c with cway := c.cway.map fun l => if overlaps l.pa 128 pa bs.length then l.patch pa bs else l }
  else s

/-- A declared checkpoint region (R259): its base and length. -/
def regionOf (r : Word) : Nat × Nat := (bitsOf r.toNat 16 36 * 65536, bitsOf r.toNat 52 12 * 65536)

/-- A write of `n` bytes reaches a chunk that a snapshot has still to copy: what the chunk held is kept for the copy, which comes next
(R260): so does a write of the controller, whose copy and write are one act (DESIGN CHOICE, log 35). A write into a region clears `clean`
(R261). -/
def State.checkpointWritten (s : State) (k n : Nat) : State :=
  let s := if s.mod.ckclean && s.mod.ckreg.any (fun r => overlaps (regionOf r.2).1 (regionOf r.2).2 k n) then
    s.updMod fun m => { m with ckclean := false } else s
  match s.mod.snap with
  | none => s
  | some p =>
    let hit (c : Nat) : Bool := overlaps (c * 65536) 65536 k n && !p.sent.contains c
    if !p.pending.any hit then s else
    let new := p.pending.filter fun c => hit c && (p.before.find c).isNone
    let cells (c : Nat) : List Host.Cell := s.mem.filter fun x => c * 65536 ≤ x.1 && x.1 < c * 65536 + 65536
    s.updMod fun m => { m with snap := some { p with
      pending := p.pending.filter hit ++ p.pending.filter (fun c => !hit c)
      before := new.foldl (fun t c => t.put c (cells c)) p.before } }

/-- A write performs at its point of order: memory, watches and reuse entries see it. -/
def State.writeLoc (s : State) (k : Nat) (bs : List Nat) : State :=
  let s := (s.checkpointWritten k bs.length).repair k bs.length
  (({ s with mem := memWrites s.mem k bs } : State).watchWritten k bs.length).reuseWritten k bs.length

/-! ### Writes that wait for a snapshot (R260) -/

/-- A location lies in a chunk that a snapshot has still to copy (R260). -/
def State.pendingChunk (s : State) (k : Nat) : Bool := s.mod.snap.any fun p => p.pending.contains (k / 65536)

/-- The engine copies a pending chunk next: a write waits for it (R260). -/
def State.hurryChunk (s : State) (k : Nat) : State :=
  let c := k / 65536
  let first (p : Snapshot) : Snapshot :=
    if p.pending.contains c then { p with pending := c :: p.pending.filter (· != c) } else p
  s.updMod fun m => { m with snap := m.snap.map first }

/-- A write of the hardware's own performs, or is held while a snapshot has still to copy its chunk, which comes next (R260). -/
def State.writeOrHold (s : State) (k : Nat) (bs : List Nat) : State :=
  if s.pendingChunk k then (s.hurryChunk k).updMod fun m => { m with heldWrites := m.heldWrites ++ [(k, bs)] } else s.writeLoc k bs

/-- Held writes whose chunk is pending no longer perform, in their order. -/
def State.performHeld (s : State) : State :=
  let (held, ready) := s.mod.heldWrites.partition fun h => s.pendingChunk h.1
  ready.foldl (fun s h => s.writeLoc h.1 h.2) (if ready.isEmpty then s else s.updMod fun m => { m with heldWrites := held })

/-! ### Address translation (R17-R24, R93, R97-R101) -/

/-- Kinds of access as a frame codes them (R213). -/
inductive AccKind where
  | read | write | rmw | fetch
  deriving DecidableEq, Repr

def AccKind.code : AccKind → Nat
  | .read => 0
  | .write => 1
  | .rmw => 2
  | .fetch => 3

def AccKind.writes (k : AccKind) : Bool := k == .write || k == .rmw

/-- Where an access lands. -/
inductive Target where
  | home (pa : Nat)
  | hostMem (pa : Nat)
  | staging (pa : Nat)
  | sram (cl off : Nat)
  | acc (cl off : Nat)
  | sys (pa : Nat)
  deriving DecidableEq, Repr

/-- The byte location of a target. -/
def Target.key : Target → Nat
  | .home p => p
  | .hostMem p => p
  | .staging p => p
  | .sram c o => sramKey c o
  | .acc c o => accKey c o
  | .sys p => p

/-- A failed access: cause, subcode and the address the frame names. -/
structure AccFault where
  cause : Nat
  sub : Nat
  addr : Nat
  deriving DecidableEq, Repr

/-- Who makes an access: tenant, level and issuing core. -/
structure Who where
  tenant : Nat
  level : Nat
  core : Nat
  deriving DecidableEq, Repr

/-- The job of a core as the maker of an access. -/
def State.who (s : State) (core : Nat) : Who := ⟨s.tenantOf core, s.levelOf core, core⟩

def State.present (s : State) (d : Nat) : Bool := s.mod.present.getLsbD d

/-- A die is up: present and not under warm reset (R23, R233). -/
def State.dieUp (s : State) (d : Nat) : Bool := s.present d && (s.die d).phase == 0

def State.linkUp (s : State) (a b : Nat) : Bool :=
  s.dieUp a && s.dieUp b &&
    !(s.mod.linkDown.any fun (x, y) => (x.toNat == a && y.toNat == b) || (x.toNat == b && y.toNat == a))

/-- A request of one die reaches another, directly or through one intermediate die (R17). -/
def State.reaches (s : State) (a b : Nat) : Bool :=
  if a == b then s.dieUp a
  else s.linkUp a b || [0, 1, 2, 3].any fun c => s.linkUp a c && s.linkUp c b

def State.edzanUp (s : State) (p : Nat) : Bool := s.dieUp p && !(if p == 0 then s.mod.edzanDown0 else s.mod.edzanDown1)

/-- The Edzan Link port that carries a host access of a die (R19). -/
def State.edzanPort (s : State) (d : Nat) : Option Nat :=
  let p := d % 2
  if s.edzanUp p then some p else if s.edzanUp (1 - p) then some (1 - p) else none

def causeNotMapped := 0x10
def causePermission := 0x11
def causeNonCanonical := 0x12
def causeWindow := 0x13
def causeBadPhys := 0x14
def causeHomeOffline := 0x15
def causeHostUnreachable := 0x16
def causeAlignment := 0x17
def causeStagingOwner := 0x18

/-- R93's checks of a direct access to a staging slice. -/
def State.stagingCheck (s : State) (w : Who) (g off va : Nat) : Option AccFault :=
  let cfg := (s.mod.stgcfg.at g 0).toNat
  if 3 * 2 ^ 20 ≤ off then some ⟨causeWindow, 0, va⟩
  else if cfg / 256 % 64 != w.tenant && w.level != 2 then some ⟨causeStagingOwner, 0, va⟩
  else if 3 * 2 ^ 20 ≤ off + cfg % 16 * 2 ^ 18 then some ⟨causeWindow, 0, va⟩
  else none

def causeUncorrectable := 0x19

/-- A read finds an error that cannot be corrected (R211). -/
def State.ecc (s : State) (kind : AccKind) (k n va : Nat) : Option AccFault :=
  if kind != .write && s.damaged.any (fun w => overlaps w 8 k n) then some ⟨causeUncorrectable, 0, va⟩ else none

/-- What a physical address names for a requester (R17, R19, R20, R22, R23). An AMO to the host window performs at die 0, or at die 1
where die 0 is excluded (R176). -/
def State.physTarget (s : State) (w : Who) (kind : AccKind) (pa va : Nat) : Except AccFault Target :=
  let here := dieOf w.core
  if pa < 2 ^ 42 then
    let d := pa / 2 ^ 40
    let off := pa % 2 ^ 40
    if !s.present d || (2 ^ 36 ≤ off && off < 2 ^ 39) then .error ⟨causeBadPhys, 0, pa⟩
    else if !s.reaches here d then .error ⟨causeHomeOffline, 0, va⟩
    else .ok (.home pa)
  else if 2 ^ 51 ≤ pa && pa < 3 * 2 ^ 50 then
    let at_ := if kind != .rmw then here else if s.present 0 then 0 else 1
    if kind == .rmw && !s.reaches here at_ then .error ⟨causeHomeOffline, 0, va⟩
    else match s.edzanPort at_ with
      | some p => if s.reaches at_ p then .ok (.hostMem pa) else .error ⟨causeHomeOffline, 0, va⟩
      | none => .error ⟨causeHostUnreachable, 0, va⟩
  else if 0xE000000000000 ≤ pa && pa < 0xE000020000000 then
    let g := (pa - 0xE000000000000) / 2 ^ 22
    let off := pa % 2 ^ 22
    if 3 * 2 ^ 20 ≤ off || !s.present (g / 32) then .error ⟨causeBadPhys, 0, pa⟩
    else match s.stagingCheck w g off va with
      | some f => .error f
      | none => if s.reaches here (g / 32) then .ok (.staging pa) else .error ⟨causeHomeOffline, 0, va⟩
  else if 0xF000000000000 ≤ pa && pa < 2 ^ 52 then .ok (.sys pa)
  else .error ⟨causeBadPhys, 0, pa⟩

/-- The mapping that covers a virtual address (R98). -/
def State.mapping (s : State) (t va : Nat) : Option Mapping :=
  (s.tenant t).maps.find? fun m => m.va ≤ va && va < m.va + m.size

/-- Translation of one address (R97, R98, R101). A staging slice of an excluded die that another tenant owns fails two checks, in an
order that the manual does not state: through the window the owner is checked first, and through a page the die (DESIGN CHOICE,
log 66). -/
def State.translate (s : State) (w : Who) (kind : AccKind) (va : Nat) : Except AccFault Target :=
  if 2 ^ 57 ≤ va then .error ⟨causeNonCanonical, 0, va⟩
  else if va < 2 ^ 56 then
    match s.mapping w.tenant va with
    | none => .error ⟨causeNotMapped, 0, va⟩
    | some m =>
      if (kind.writes && !m.w) || (kind == .fetch && !m.x) || (w.level == 0 && !m.u) then
        .error ⟨causePermission, 0, va⟩
      else s.physTarget w kind (m.pa + (va - m.va)) va
  else if kind == .fetch then .error ⟨causeWindow, 0, va⟩
  else if 0x1E0000000000000 ≤ va && va < 0x1E0000020000000 then
    let g := (va - 0x1E0000000000000) / 2 ^ 22
    let off := va % 2 ^ 22
    match s.stagingCheck w g off va with
    | some f => .error f
    | none =>
      let pa := 0xE000000000000 + g * 2 ^ 22 + off
      if !s.present (g / 32) then .error ⟨causeBadPhys, 0, pa⟩
      else if s.reaches (dieOf w.core) (g / 32) then .ok (.staging pa) else .error ⟨causeHomeOffline, 0, va⟩
  else if 0x1F0000000000000 ≤ va && va < 0x1F0000000200000 then
    .ok (.sram (clusterOf w.core) (va - 0x1F0000000000000))
  else if 0x1F1000000000000 ≤ va && va < 0x1F1000000200000 then
    .ok (.acc (clusterOf w.core) (va - 0x1F1000000000000))
  else .error ⟨causeWindow, 0, va⟩

/-! ### TLBs (R100, DEDUCED, log 10) -/

/-- A TLB on the way from a core holds the page of an address, or the address is not in user global space. -/
def State.tlbHit (s : State) (t core va : Nat) : Bool :=
  let key := (t, va / 4096)
  2 ^ 56 ≤ va || (s.core core).tlb.contains key || (s.cluster (clusterOf core)).tlb.contains key ||
    (s.die (dieOf core)).tlb.contains key

/-- An access to user global space waits while no TLB holds its page: for a walk, or for room in the miss table, whatever the walk will
find; and a write, while a snapshot has still to copy its chunk (R260). -/
def State.walking (s : State) (w : Who) (kind : AccKind) (va : Nat) : Bool :=
  !s.tlbHit w.tenant w.core va ||
    match s.translate w kind va with
    | .error _ => false
    | .ok t => kind.writes && s.pendingChunk t.key

/-- A miss enters the die's miss table, which holds 512; a later miss of the same page waits on its entry. A write that waits for its
chunk has it copied next. -/
def State.noteMiss (s : State) (core va : Nat) : State :=
  if s.tlbHit (s.tenantOf core) core va then
    match s.translate (s.who core) .read va with
    | .error _ => s
    | .ok t => s.hurryChunk t.key
  else
  let d := dieOf core
  let key := (s.tenantOf core, va / 4096)
  let x := s.die d
  if x.missTable.any fun m => (m.1, m.2.1) == key then
    s.updDie d fun x => { x with missTable := x.missTable.map fun m =>
      if (m.1, m.2.1) == key && !m.2.2.contains core then (m.1, m.2.1, m.2.2 ++ [core]) else m }
  else if 512 ≤ x.missTable.length then s
  else s.updDie d fun x => { x with missTable := x.missTable ++ [(key.1, key.2, [core])] }

/-! ### Banks and accumulator banks (R84-R89, R129, R131) -/

def ClusterState.bank (c : ClusterState) (b : Nat) : Bank := c.banks.at b Bank.reset
def State.updBank (s : State) (cl b : Nat) (f : Bank → Bank) : State :=
  s.updCluster cl fun c => { c with banks := c.banks.upd b Bank.reset f }
def ClusterState.accb (c : ClusterState) (b : Nat) : AccBank := c.acc.at b AccBank.reset
def State.updAcc (s : State) (cl b : Nat) (f : AccBank → AccBank) : State :=
  s.updCluster cl fun c => { c with acc := c.acc.upd b AccBank.reset f }

def causeCrossTenant := 0x20
def causeBankMode := 0x21
def causeAccFree := 0x23
def causeAccOwner := 0x24
def causeAccWidth := 0x25

/-- The tenant check of R86. -/
def bankTenantOk (b : Bank) (w : Who) : Bool := b.tenant.toNat == w.tenant || w.level == 2

/-- R131: an accumulator bank is readable and writable by its owner; level M passes the owner check only. -/
def accCheck (a : AccBank) (w : Who) : Option Nat :=
  if !a.alloc then some causeAccFree
  else if w.level != 2 && (a.owner.toNat != coreIn w.core || a.tenant.toNat != w.tenant) then some causeAccOwner
  else none

/-- The first and last use of a list of pieces: `[va, va + n)` cut at 128-byte boundaries. -/
def piecesFrom : Nat → Nat → Nat → List (Nat × Nat)
  | 0, _, _ => []
  | f + 1, va, n =>
    if n == 0 then [] else
    let m := min n (128 - va % 128)
    (va, m) :: piecesFrom f (va + m) (n - m)

def pieces (va n : Nat) : List (Nat × Nat) := piecesFrom (n / 128 + 2) va n

/-! ### Fetch (R28-R33) -/

/-- A line: its header and lanes 1-7. -/
structure Line where
  words : List Nat
  deriving DecidableEq, Repr

def Line.word (l : Line) (i : Nat) : Nat := l.words.getD i 0
def Line.tag (l : Line) (i : Nat) : Nat := bitsOf (l.word 0) (4 * i - 4) 4
def Line.last (l : Line) : Bool := (l.word 0).testBit 28
def Line.reserved (l : Line) : Nat := bitsOf (l.word 0) 29 3

/-- Four-byte words of bytes. -/
def wordsOf : List Nat → List Nat
  | a :: b :: c :: d :: t => ofBytes [a, b, c, d] :: wordsOf t
  | _ => []

/-- A target that is plain memory. -/
def Target.isMemory : Target → Bool
  | .home _ | .hostMem _ | .staging _ => true
  | _ => false

/-- Reads a line of the image as one access of the job (R33, R58); system space takes no access of 32 bytes (R383). -/
def State.fetchLine (s : State) (core line : Nat) : Except AccFault Line :=
  match s.translate (s.who core) .fetch line with
  | .error f => .error f
  | .ok t =>
    if !t.isMemory then .error ⟨causeBadPhys, 0, t.key⟩
    else match s.ecc .fetch t.key 32 line with
      | some f => .error f
      | none => .ok ⟨wordsOf (s.readLoc t.key 32)⟩

/-- A line as a stream executes it: as its instruction buffer holds it, else as memory does now (R33). -/
def State.lineFor (s : State) (core : Nat) (l : Lane) (line : Nat) : Except AccFault Line :=
  match Tab.find (s.str core l).ibuf line with
  | some ws => .ok ⟨ws⟩
  | none => s.fetchLine core line

/-- Outcome of the search for a stream's next lane. -/
inductive Found where
  | lane (line lane : Nat)
  | past
  | fault (f : AccFault)
  deriving DecidableEq, Repr

/-- The first lane from `i` on that bears the stream's tag or a reserved one (R30, R31). -/
def Line.next (l : Line) (tag i : Nat) : Option Nat :=
  [1, 2, 3, 4, 5, 6, 7].find? fun j => i ≤ j && (l.tag j == tag || 4 ≤ l.tag j)

/-- R31: the next lane from `(line, i)` on; `fuel` exceeds the number of lines of the space. -/
def State.searchLane (s : State) (core : Nat) (t : Lane) : Nat → Nat → Nat → Found
  | 0, _, _ => .past
  | f + 1, line, i =>
    match s.lineFor core t line with
    | .error e => .fault e
    | .ok l =>
      match l.next (laneTag t) i with
      | some j => .lane line j
      | none => if l.last then .past else s.searchLane core t f (line + 32) 1

def lineFuel : Nat := 0x800000000000000

/-- The instruction after a position. -/
def State.successor (s : State) (core : Nat) (l : Lane) (pc : Pc) : Found :=
  s.searchLane core l lineFuel pc.line.toNat (pc.lane.toNat + 1)

/-! ### Accesses of the hardware to a tenant's memory -/

/-- An access of a list of pieces: the target of each, all of them memory. -/
def State.targets (s : State) (w : Who) (kind : AccKind) : List (Nat × Nat) → Except AccFault (List (Target × Nat))
  | [] => .ok []
  | (va, n) :: r =>
    match s.translate w kind va with
    | .error f => .error f
    | .ok t =>
      if !t.isMemory then .error ⟨causeWindow, 0, va⟩
      else if let some f := s.ecc kind t.key n va then .error f
      else match s.targets w kind r with
        | .error f => .error f
        | .ok l => .ok ((t, n) :: l)

/-- Reads bytes of a tenant's memory. -/
def State.readVa (s : State) (w : Who) (va n : Nat) : Except AccFault (List Nat) :=
  match s.targets w .read (pieces va n) with
  | .error f => .error f
  | .ok l => .ok (l.flatMap fun (t, m) => s.readLoc t.key m)

/-- Writes bytes of a tenant's memory, or nothing where some part is not writable; what lies in a pending chunk is held. -/
def State.writeVa (s : State) (w : Who) (va : Nat) (bs : List Nat) : Except AccFault State :=
  match s.targets w .write (pieces va bs.length) with
  | .error f => .error f
  | .ok l =>
    .ok (l.foldl (init := (s, bs)) fun (s, bs) (t, m) => (s.writeOrHold t.key (bs.take m), bs.drop m)).1

/-- A place that a write to a tenant's memory would wait for, its chunk being pending (R260). -/
def State.heldVa (s : State) (w : Who) (va n : Nat) : Option Nat :=
  match s.targets w .write (pieces va n) with
  | .error _ => none
  | .ok l => (l.map fun x => x.1.key).find? s.pendingChunk

/-- A write of the hardware that other acts follow: they wait with it while a snapshot has still to copy its chunk (R260). -/
def State.writeThen (s : State) (w : Who) (va : Nat) (bs : List Nat) (fail : State) (after : State → State) : State :=
  match s.writeVa w va bs with
  | .error _ => fail
  | .ok t =>
    match s.heldVa w va bs.length with
    | some k => s.hurryChunk k
    | none => after t

/-- The die at which the hardware acts for a tenant: the first that is up. -/
def State.hwDie (s : State) : Nat := ([0, 1, 2, 3].find? s.dieUp).getD 0

/-- The agent of an access that the hardware makes for a tenant: level S (R215). -/
def State.hwWho (s : State) (t : Nat) : Who := ⟨t, 1, 64 * s.hwDie⟩

/-- A little-endian field of bytes. -/
def fieldOf (bs : List Nat) (at_ n : Nat) : Nat := ofBytes ((bs.drop at_).take n)

/-! ### Rings in a tenant's memory -/

/-- Fields of a ring configuration of the layout of `lqcfg` (R196). -/
def cfgBase (c : Word) : Nat := bitsOf c.toNat 12 45 * 4096
def cfgSize (c : Word) : Nat := bitsOf c.toNat 4 4
def cfgEn (c : Word) : Bool := c.getLsbD 0

/-- The address of a slot of a ring of `w`-byte slots. -/
def cfgSlot (c : Word) (w n : Nat) : Nat := cfgBase c + n % 2 ^ cfgSize c * w

/-! ### Trace (R270) -/

/-- What a trace record reports of the innermost loop of a stream: iteration, loop id, stage and the mark of no loop.
The stage of a `.sp` loop is a free value (DESIGN CHOICE, log 27). -/
def StreamState.loopInfo (t : StreamState) (free : Nat) : Nat × Nat :=
  match t.loops with
  | [] => (0, 128)
  | e :: _ => (e.iter % 2 ^ 32, e.id.toNat + 16 * (if e.sp then free % 4 else 0))

/-- A trace record of 32 bytes. -/
def traceBytes (beat corr seq iter loop src event tenant core info : Nat) : List Nat :=
  bytesOf 8 beat ++ bytesOf 4 corr ++ bytesOf 4 seq ++ bytesOf 4 iter ++ [loop, src, event, tenant] ++ bytesOf 2 core ++
    bytesOf 6 info

/-- An enabled event of a core writes a trace record, or is dropped and counted where the ring has no room or its slot
is not writable; a ring that is not enabled records nothing. `l` is the stream whose loops are reported. -/
def State.trace (s : State) (core : Nat) (l : Lane) (src event corr seq info : Nat) : State :=
  let t := s.tenantOf core
  let x := s.tenant t
  if !x.trmask.getLsbD event || !cfgEn x.trcfg then s
  else
    let drop := s.updTenant t fun x => { x with trdrop := min (x.trdrop + 1) 0xFFFFFFFF }
    if 2 ^ cfgSize x.trcfg ≤ (x.trtail + 2 ^ 32 - x.trhead) % 2 ^ 32 then drop
    else
      let (v, s) := s.draw
      let (it, lp) := (s.str core l).loopInfo v
      match s.writeVa (s.hwWho t) (cfgSlot x.trcfg 32 x.trtail)
          (traceBytes s.beat.toNat corr seq it lp src event t core info) with
      | .error _ => drop
      | .ok s => s.updTenant t fun x => { x with trtail := (x.trtail + 1) % 2 ^ 32 }

/-- The conflict count at an index of the matrix over the spans that follow the first `n`. -/
def Matrix.count (m : Matrix) (n i : Nat) : Nat :=
  min (((m.spans.take (m.spans.length - n)).map fun v => Config.conflicts v i).foldl (· + ·) 0) 0xFFFFFFFF

/-- A word of the matrix (R272): the requesters below 12 are those of the cores, whose rows a job's start clears. -/
def Matrix.word (m : Matrix) (i : Nat) : Nat := m.count (if i < 768 then m.cleared.at (i / 64 % 4) 0 else 0) i

/-- Cycles that the requesters of a core have lost since its last loop exit. -/
def Matrix.sinceExit (m : Matrix) (core : Nat) : Nat :=
  min (([core, 4 + core, 8 + core].flatMap fun r => (List.range 64).map fun b => m.count (m.left.at core 0) (64 * r + b)).foldl
    (· + ·) 0) 0xFFFFFFFF

/-- A stream leaves a hardware loop: the conflict matrix, whose counts are free values (DESIGN CHOICE, log 26), is copied to the
snapshot, and trace event 3 is written with the cycles lost since the core's previous exit (R270, R272). -/
def State.loopExit (s : State) (core : Nat) (l : Lane) (id : BitVec 4) : State :=
  let (b, s) := s.draw
  let i := coreIn core
  let old := (s.cluster (clusterOf core)).matrix
  let m : Matrix := { old with spans := b :: old.spans }
  let s := s.updCluster (clusterOf core) fun c =>
    { c with matrix := { m with left := m.left.put i m.spans.length }, cmSnap := some ⟨m, core, id.toNat, s.beat.toNat⟩ }
  s.trace core l (laneTag l) 3 0 0 (m.sinceExit i)

/-- Loops that a stream discards are left (R348, R349). -/
def State.loopsExit (s : State) (core : Nat) (l : Lane) (es : List LoopEntry) : State :=
  es.foldl (fun s e => s.loopExit core l e.id) s

/-- A job starts on a core: its rows of the matrix are cleared (R272). -/
def Matrix.clear (m : Matrix) (core : Nat) : Matrix :=
  { m with cleared := m.cleared.put core m.spans.length, left := m.left.put core m.spans.length }

/-! ### Taking a fault: the stop of R212 and the frame of R213 -/

/-- What a stop reports beside the state of the streams. -/
structure Stop where
  cause : Nat
  sub : Nat := 0
  src : Nat := 8
  addr : Option Nat := none
  access : Nat := 0
  cls : Nat := 0
  width : Nat := 0
  seq : Nat := 0
  corr : Nat := 0
  aux0 : Nat := 0
  cmdw : Nat := 0
  dlock : List (Nat × Nat) := []
  cstat : Option Status := none
  /-- Resumption continues after the faulting instruction (TRAP, BKPT, R31). -/
  after : Bool := false
  deriving DecidableEq, Repr

/-- Wait state and object of a stream block (R214). -/
def Wait.code : Wait → Nat × Nat
  | .queue q => (1, q)
  | .branchQueue q => (2, q)
  | .token p c => (3, 4 * p + c)
  | .ringFull r => (4, ringCode r)
  | .counter _ _ _ reg .. => (if reg then 5 else 6, 0)
  | .lock _ _ reg .. => (if reg then 5 else 6, 0)
  | .barrier _ _ _ _ _ reg .. => (if reg then 5 else 6, 0)
  | .mwait _ _ reg _ => (if reg then 5 else 6, 0)
  | .ended => (7, 0)
  | _ => (0, 0)

/-- The stream block of a frame (R214): a stream that is past an executed instruction resumes at its successor. -/
def State.streamBlock (s : State) (core : Nat) (l : Lane) (faulting after : Bool) : StreamBlock :=
  let t := s.str core l
  let w := (if t.ended then Wait.ended else t.wait).code
  let fl : BitVec 3 := (if faulting then 1 else 0) ||| (if t.ended then 2 else 0) ||| (if after then 4 else 0)
  if t.pc.after && !after && !t.ended then
    match s.successor core l t.pc with
    | .lane ln i => ⟨BitVec.ofNat 64 ln, BitVec.ofNat 3 i, w.1, w.2, fl⟩
    | _ => ⟨t.pc.line, t.pc.lane, w.1, w.2, fl ||| 4⟩
  else ⟨t.pc.line &&& ~~~31#64, t.pc.lane, w.1, w.2, fl⟩

def laneSrc (l : Lane) : Nat := laneTag l

/-- The source code of a ring's engine (R213). -/
def ringSrc (r : RingId) : Nat := 4 + ringCode r

/-- The frame of a stop, before its number is given. -/
def State.frameOf (s : State) (core : Nat) (p : Stop) : Frame :=
  let is (l : Lane) := p.src == laneSrc l
  { cause := p.cause, sub := p.sub, src := p.src, addrValid := p.addr.isSome, level := s.levelOf core,
    access := p.access, seq := p.seq, corr := p.corr, gen := (s.core core).gen.toNat % 65536, cls := p.cls,
    width := p.width, tenant := s.tenantOf core, addr := BitVec.ofNat 64 (p.addr.getD 0), beat := s.beat.toNat,
    strc := s.streamBlock core .c (is .c) (is .c && p.after),
    stra := s.streamBlock core .a (is .a) (is .a && p.after),
    strx := s.streamBlock core .x (is .x) (is .x && p.after),
    aux0 := p.aux0, aux1 := 0, cmdw := p.cmdw, dlock := p.dlock, cstat := p.cstat, fseq := 0, core := core }

/-- Offers a frame, record or event to a tenant's fault queue, numbering it (R213, R215). -/
def State.offerFrame (s : State) (t : Nat) (f : Frame) : State × Nat :=
  let n := (s.tenant t).frames + 1
  (s.updTenant t fun x => { x with frames := n, outbox := x.outbox ++ [{ f with fseq := n }] }, n)

/-- A non-stopping record (R211) with no stream blocks. -/
def State.eventFrame (s : State) (cause sub src tenant : Nat) : Frame :=
  let z : StreamBlock := ⟨0, 0, 0, 0, 0⟩
  { cause := cause, sub := sub, src := src, addrValid := false, level := 0, access := 0, seq := 0, corr := 0, gen := 0, cls := 0,
    width := 0, tenant := tenant, addr := 0, beat := s.beat.toNat, strc := z, stra := z, strx := z, aux0 := 0, aux1 := 0, cmdw := 0,
    dlock := [], cstat := none, fseq := 0, core := 0 }

def State.event (s : State) (t : Nat) (f : Frame) : State := (s.offerFrame t f).1

/-- Ends the lease run of a core whose array work has ended (events of R124). -/
def Lease.endRun (l : Lease) : Lease :=
  { l with holder := none, retired := 0, ending := false, last := l.holder.getD l.last }

def Ring.head (r : Ring) : Option Rec := r.slots.find ((r.ret + 1) % 512)

def CoreState.ring (c : CoreState) : RingId → Ring
  | .l => c.ringL
  | .k => c.ringK
  | .s => c.ringS
  | .g => c.ringG

def CoreState.setRing (c : CoreState) (q : RingId) (r : Ring) : CoreState :=
  match q with
  | .l => { c with ringL := r }
  | .k => { c with ringK := r }
  | .s => { c with ringS := r }
  | .g => { c with ringG := r }

/-- The lease run of a cluster ends; a record of the holder that waits for a permit or a token waits for the lease
again. -/
def State.endLeaseRun (s : State) (cl : Nat) : State :=
  match (s.cluster cl).lease.holder with
  | none => s
  | some h =>
    let back (x : Rec) : Rec :=
      if x.st.state == 5 || x.st.state == 6 then { x with st := { x.st with state := 4, beat := s.beat.setWidth 32 }, asked := none } else x
    (s.updCluster cl fun c => { c with lease := c.lease.endRun }).updCore (4 * cl + h.toNat) fun k =>
      { k with ringK := { k.ringK with slots := k.ringK.slots.map fun (i, x) => (i, back x) } }

/-- Event 6 of R124: a stopped core requests the lease no more, and its run ends once it has no K record in state 7. -/
def State.leaseAfterStop (s : State) (core : Nat) : State :=
  let cl := clusterOf core
  let s := s.updCluster cl fun c => { c with lease := { c.lease with lost := c.lease.lost.del (coreIn core) } }
  if (s.cluster cl).lease.holder == some (BitVec.ofNat 2 (coreIn core)) &&
      !((s.core core).ringK.head.any fun r => r.st.state == 7) then s.endLeaseRun cl
  else s

/-- A fault ends a PAUSE; the resume point follows it (R363). -/
def StreamState.endPause (t : StreamState) : StreamState :=
  match t.wait with
  | .pause _ => { t with wait := .none }
  | _ => t

/-- TAKING A FAULT. The core stops (R212): no stream issues and no queue starts a record until the frame is
resolved. The frame names the faulting agent and every stream's resume point (R213, R214) and is offered to the
tenant's fault queue (R215). A core that is stopped already takes no second frame (DEDUCED, log 22). -/
def State.stopCore (s : State) (core : Nat) (p : Stop) : State :=
  if (s.core core).stop.isSome then s else
  let (s', n) := s.offerFrame (s.tenantOf core) (s.frameOf core p)
  ((s'.updCore core fun k =>
    { k with stop := some { s.frameOf core p with fseq := n }, c := k.c.endPause, a := k.a.endPause }).leaseAfterStop core).trace
      core (if p.src == 2 then .a else if p.src == 3 then .x else .c) p.src 5 p.corr p.seq 0

/-- The issuing stream takes a fault at its instruction. -/
def State.trap (s : State) (cause sub : Nat) : State :=
  s.stopCore s.fcore { cause := cause, sub := sub, src := laneSrc s.focusLane }

def causeIllegal := 0x01
def causeLane := 0x02
def causeStream := 0x03
def causePrivilege := 0x04
def causeBadHandle := 0x38
def causePoisoned := 0x39

/-- log2 of an access width. -/
def widthLog (n : Nat) : Nat := n.log2

/-- The issuing stream takes an access fault. -/
def State.trapAccess (s : State) (f : AccFault) (kind : AccKind) (cls size : Nat) : State :=
  s.stopCore s.fcore
    { cause := f.cause, sub := f.sub, src := laneSrc s.focusLane, addr := some f.addr, access := kind.code,
      cls := cls, width := widthLog size }

/-- Causes whose resolution may resume the job (R211). -/
def causeResumes (c : Nat) : Bool := [0x05, 0x06, 0x08, 0x10, 0x11, 0x15, 0x16].contains c

/-- THE RETURN FROM A FAULT: Resume of R216. Streams restart at their resume points (after the instruction where
flags bit 2 says so), the address queue reissues its head, and a stopped command leaves state 10. -/
def State.resume (s : State) (core : Nat) : State :=
  s.updCore core fun k =>
    match k.stop with
    | none => k
    | some f =>
      let restart (b : StreamBlock) (t : StreamState) : StreamState :=
        let t := { t with since := s.tick.toNat }
        if b.flags.getLsbD 2 && b.flags.getLsbD 0 then t.done else t
      let unstop (r : Ring) : Ring :=
        { r with slots := r.slots.map fun (i, x) =>
            (i, if x.st.state == 10 then { x with st := { x.st with state := 1, cause := 0, beat := s.beat.setWidth 32 } } else x) }
      { k with stop := none, xTick := s.fine,
               c := restart f.strc k.c, a := restart f.stra k.a, x := restart f.strx k.x,
               ringL := unstop k.ringL, ringK := unstop k.ringK, ringS := unstop k.ringS, ringG := unstop k.ringG }

/-! ### Engines under Markhor -/

def engineDie : EngineId → Nat
  | .array c => dieOfCluster c.toNat
  | .copy c => dieOf c.toNat
  | .vec c => dieOf c.toNat
  | .coll d => d.toNat

/-- The supervisor state of an engine (R224): 0 WATCH unless listed. -/
def State.engineState (s : State) (e : EngineId) : Nat :=
  (((s.die (engineDie e)).supervisors.find? (·.engine == e)).map (·.state)).getD 0

/-! ### Streams that may issue -/

/-- Waits that end without an event are tried again each time the stream is chosen. -/
def Wait.retried : Wait → Bool
  | .none | .stall | .queue _ | .branchQueue _ | .token .. | .ringFull _ => true
  | _ => false

/-- A stream issues while its job runs, its core is not stopped, and it neither waits nor has ended (R25, R35, R212,
R219 step 2 and 4, R232, R271), and the bank table of its launch has been written (R58). -/
def State.mayIssue (s : State) (core : Nat) (l : Lane) : Bool :=
  let k := s.core core
  let t := k.str l
  k.job.any (fun j => j.gateOpen && j.banksDue.isEmpty) && k.stop.isNone && k.resetting.isNone && !(k.preempting && l != .x) && !t.ended && !t.halted &&
    t.wait.retried && s.dieUp (dieOf core) && (l != .x || s.engineState (.vec (BitVec.ofNat 8 core)) == 0)

/-! ### Issuing an instruction: the checks of R275 that follow decoding -/

/-- The guard of a lane instruction; forms with no predicate, and those that use the pair otherwise, execute. -/
def StreamState.guard (t : StreamState) (g : Guard) : Bool := t.rp g.p != g.n

/-- Checks 5-8 of R275 that follow decoding, in order, then the predicate (R274). `level` is the least level, `pc`
the place of the instruction (the follower's in an XIMM pair); forms without a predicate give none. -/
def State.issueAt (s : State) (i : Instr) (level : Nat) (g : Option Guard) (pc : Pc) (body : State → State) : State :=
  if !i.streams.contains s.focusLane then s.trap causeStream 0
  else if !i.wellFormed then s.trap causeIllegal 1
  else if !i.regsOk s.focusLane then s.trap causeIllegal 3
  else if s.levelOf s.fcore < level then s.trap causePrivilege 0
  else if g.any fun g => !s.me.guard g then s.updMe (·.doneAt pc)
  else body s

/-- As `issueAt`, for an instruction that stands at the stream's program counter. -/
def State.issue (s : State) (i : Instr) (level : Nat) (g : Option Guard) (body : State → State) : State :=
  s.issueAt i level g s.me.pc body

end Sys2Proof.Machine
end

