-- ==== Sys2Proof/Machine/Operands.lean ====
section
/-! DEFINITION. Operand forms: immediates (R52, R277), memory operands (R50), code pointers (R280), queue and
token operands, system-register numbers (R382). -/

namespace Sys2Proof.Machine

/-- An immediate field used as a value (R277). -/
def imm12 (i : BitVec 12) : Word := i.signExtend 64
def imm17 (i : BitVec 17) : Word := i.signExtend 64
def imm14 (i : BitVec 14) : Word := i.signExtend 64
def imm19 (o : BitVec 19) : Word := o.signExtend 64
def imm8 (i : BitVec 8) : Word := i.signExtend 64

/-- The immediate composed with an XIMM (R52): `imm26` above the field, sign-extended. -/
def ximm12 (x : BitVec 26) (i : BitVec 12) : Word := (x ++ i).signExtend 64
def ximm17 (x : BitVec 26) (i : BitVec 17) : Word := (x ++ i).signExtend 64
def ximm14 (x : BitVec 26) (i : BitVec 14) : Word := (x ++ i).signExtend 64
def ximm19 (x : BitVec 26) (o : BitVec 19) : Word := (x ++ o).signExtend 64

/-- The address of a memory operand: base + size * s6(off), modulo 2^64 (R340). -/
def memAddr (base : Word) (size : Nat) (o : BitVec 6) : Word := base + BitVec.ofNat 64 size * o.signExtend 64

/-- The access size of `sz`: 1, 2, 4 or 8 bytes. -/
def sizeOf (z : BitVec 2) : Nat := 2 ^ z.toNat

/-- The target line of a branch of a line (R277). -/
def branchLine (line : Word) (off : Word) : Word := line + (off <<< 5)

/-- A code pointer: bundle address with the lane in bits [2:0] (R280). -/
def codePointer (line lane : Nat) : Word := BitVec.ofNat 64 line ||| BitVec.ofNat 64 lane

/-- The agent codes of tokens: 0 L, 1 K, 2 X, 3 S (R214); FIFO `t.PQ` is numbered 4P + Q. -/
def fifoOf (p q : Nat) : Nat := 4 * p + q

/-- Channels of a stream's push and pop counts (R44): queues, branch queues, rings, tokens, and C's other pushes. -/
def chQueue (q : Nat) : Nat := q
def chBranch (q : Nat) : Nat := 8 + q
def chRing (r : RingId) : Nat := 12 + ringCode r
def chToken (f : Nat) : Nat := 16 + f
def chOther : Nat := 40
def chBring (i : Nat) : Nat := 64 + 2 * i

def StreamState.pushed (t : StreamState) (ch : Nat) : Nat := t.pushes.at ch 0
def StreamState.popped (t : StreamState) (ch : Nat) : Nat := t.pops.at ch 0
def StreamState.addPush (t : StreamState) (ch n : Nat) : StreamState := { t with pushes := t.pushes.put ch (t.pushed ch + n) }
def StreamState.setPop (t : StreamState) (ch n : Nat) : StreamState := { t with pops := t.pops.put ch n }

/-- The fields of a system-register number (R382). -/
def regSpace (n : Nat) : Nat := bitsOf n 28 4
def regTenant (n : Nat) : Nat := bitsOf n 22 6
def regDie (n : Nat) : Nat := bitsOf n 20 2
def regIndex (n : Nat) : Nat := bitsOf n 0 20

/-- Whether the stream has another instruction's lane tag; the tag of a lane (R30). -/
def tagOf (l : Lane) : Nat := laneTag l

end Sys2Proof.Machine
end

