-- ==== Sys2Proof/Machine/Flags.lean ====
section
/-! DEFINITION. Conditions, predicate combination, floating-point flags and rounding control of the streams (R63-R66,
R77, R309, R326), the result word of the synchronisation instructions (R183). -/

namespace Sys2Proof.Machine

/-- The condition codes of CMP on `n`-bit values (R309). -/
def icond (k : Nat) (n x y : Nat) : Bool :=
  let sx := toSigned n x
  let sy := toSigned n y
  match k with
  | 0 => x == y
  | 1 => x != y
  | 2 => sx < sy
  | 3 => sx ≤ sy
  | 4 => sy < sx
  | 5 => sy ≤ sx
  | 6 => x < y
  | 7 => x ≤ y
  | 8 => y < x
  | _ => y ≤ x

/-- Combination with the old predicate: 0 set, 1 and, 2 or (R309). -/
def combine (c : BitVec 2) (old new : Bool) : Bool :=
  if c == 1 then old && new else if c == 2 then old || new else new

/-- Writes a compare's result into a predicate and goes on. -/
def State.compareTo (s : State) (c : BitVec 2) (t : BitVec 3) (b : Bool) : State :=
  s.writeP t (combine c (s.me.rp t) b)

/-- Flags are ORed into the stream's `fpflags` (R65). -/
def State.orFlags (s : State) (f : Flags) : State := s.updMe fun t => { t with fpflags := t.fpflags ||| f }

/-- The iteration count of the innermost active loop, 0 outside loops (R77). -/
def StreamState.iter (t : StreamState) : Nat := (t.loops.head?.map (·.iter)).getD 0

/-- The counter of R77 for a destination register and element. -/
def StreamState.ctr (t : StreamState) (d e : Nat) : Nat := t.iter * 65536 + d * 256 + e

/-- The latest SYSWR to X's register `r` that waits for an entry of `q6` that X has not popped, and that C wrote before X's present use
of its mode or seed was made first (R66). -/
def CoreState.xfpWaiting (k : CoreState) (r : Nat) : Option XWrite :=
  (k.xfp.filter fun e => e.reg == r && ((k.q.find 6).map (·.rd)).getD 0 ≤ e.place && e.since ≤ k.x.fpUses).getLast?

/-- A SYSWR by C to X's `fpctl` (0), `fpflags` (1) or `seed` (2) waits for X to pop a `q6` entry: what X's present instruction takes
meanwhile is not defined (R66), and is what it took before where the instruction is executed again (R77). -/
def State.fpEarly (s : State) (r : Nat) : Option Nat :=
  if s.focusLane == .x then (s.myCore.xfpWaiting r).map fun e => Config.earlyFp e.key s.me.fpUses else none

/-- The stream uses its rounding mode or seed once more. -/
def StreamState.useFp (t : StreamState) : StreamState := { t with fpUses := t.fpUses + 1, fpTop := max t.fpTop (t.fpUses + 1) }

/-- The rounding mode of `fpctl` and the seed that an instruction of the issuing stream uses; free values while a
write to them is pending (R66). -/
def State.fpEnv (s : State) : (Nat × Nat) × State :=
  (((s.fpEarly 0).elim s.me.fpctl.toNat (· % 5), (s.fpEarly 2).elim s.me.seed.toNat (· % 2 ^ 64)), s.updMe (·.useFp))

/-- A rounding field: code 5 is `fpctl.rm` (R63). -/
def roundMode (code rm : Nat) : Nat := if code == 5 then rm else code

def boolBit (b : Bool) (i : Nat) : Nat := if b then 2 ^ i else 0

/-- The result word of LOCK, UNLOCK and the barrier instructions (R183). -/
def resultWord (broken unreg aband nowner : Bool) (phase : Nat) : Word :=
  BitVec.ofNat 64 (boolBit broken 63 + boolBit unreg 62 + boolBit aband 61 + boolBit nowner 60 + phase)

end Sys2Proof.Machine
end

