-- ==== Sys2Proof/Machine/Scalar.lean ====
section
/-! DEFINITION. Integer arithmetic of majors 0x01-0x0C and the address instructions of majors 0x0D and 0x0E
(R291-R294, R308-R310, R320, R329, R343, R350, R354, R366, R367, R377, R406). -/

namespace Sys2Proof.Machine

abbrev Out := Host.Outcome State Fault Refusal

/-! ### The operations on 64-bit values -/

/-- Shift amounts use bits [5:0] (R350). -/
def shiftAmt (y : Word) : Nat := y.toNat % 64

def opShl (x y : Word) : Word := x <<< shiftAmt y
def opShr (x y : Word) : Word := x >>> shiftAmt y
def opSar (x y : Word) : Word := x.sshiftRight (shiftAmt y)
def opMin (x y : Word) : Word := if x.toInt ≤ y.toInt then x else y
def opMinn (x y : Word) : Word := if x.toNat ≤ y.toNat then x else y
def opMax (x y : Word) : Word := if x.toInt ≤ y.toInt then y else x
def opMaxn (x y : Word) : Word := if x.toNat ≤ y.toNat then y else x
def opMulh (x y : Word) : Word := BitVec.ofInt 64 (x.toInt * y.toInt / (2 ^ 64 : Nat))
def opMulhn (x y : Word) : Word := BitVec.ofNat 64 (x.toNat * y.toNat / 2 ^ 64)

/-- DIV: all ones for a zero divisor; toward zero otherwise, the one overflow wrapping (R320). -/
def opDiv (x y : Word) : Word := if y == 0 then BitVec.allOnes 64 else BitVec.ofInt 64 (x.toInt.tdiv y.toInt)
def opDivn (x y : Word) : Word := if y == 0 then BitVec.allOnes 64 else BitVec.ofNat 64 (x.toNat / y.toNat)
def opRem (x y : Word) : Word := if y == 0 then x else BitVec.ofInt 64 (x.toInt.tmod y.toInt)
def opRemn (x y : Word) : Word := if y == 0 then x else BitVec.ofNat 64 (x.toNat % y.toNat)

/-- The number of zero bits above the most significant one of an `n`-bit value (R308). -/
def clzNat (n x : Nat) : Nat := if x == 0 then n else n - 1 - x.log2

/-- The number of zero bits below the least significant one among the low `n` bits (R308). -/
def ctzNat : Nat → Nat → Nat
  | 0, _ => 0
  | n + 1, x => if x % 2 == 1 then 0 else 1 + ctzNat n (x / 2)

/-- The number of one bits among the low `n` (R350). -/
def popcNat : Nat → Nat → Nat
  | 0, _ => 0
  | n + 1, x => x % 2 + popcNat n (x / 2)

def opClz (x : Word) : Word := BitVec.ofNat 64 (clzNat 64 x.toNat)
def opCtz (x : Word) : Word := BitVec.ofNat 64 (ctzNat 64 x.toNat)
def opPopc (x : Word) : Word := BitVec.ofNat 64 (popcNat 64 x.toNat)

/-- Funnel shifts of `a:b` (R329). -/
def opFunl (n : Nat) (a b : Word) : Word := if n == 0 then a else (a <<< n) ||| (b >>> (64 - n))
def opFunr (n : Nat) (a b : Word) : Word := if n == 0 then b else (b >>> n) ||| (a <<< (64 - n))

/-! ### Shapes -/

/-- `sD := f sA sB`. -/
def alu (i : Instr) (g : Guard) (d a b : BitVec 5) (f : Word → Word → Word) (s : State) : Out :=
  .next (s.issue i 0 (some g) fun s => s.writeS d (f (s.me.rs a) (s.me.rs b)))

/-- `sD := f sA`. -/
def alu1 (i : Instr) (g : Guard) (d a : BitVec 5) (f : Word → Word) (s : State) : Out :=
  .next (s.issue i 0 (some g) fun s => s.writeS d (f (s.me.rs a)))

/-- Writes a scalar; the instruction executed stands at `pc` (the follower's place in an XIMM pair, R286). -/
def State.writeSAt (s : State) (pc : Pc) (d : BitVec 5) (v : Word) : State := s.updMe fun t => (t.ws d v).doneAt pc
def State.writeAAt (s : State) (pc : Pc) (d : BitVec 5) (v : Word) : State := s.updMe fun t => (t.wa d v).doneAt pc

/-- The bodies of the instructions that accept an XIMM: `imm` is the whole immediate, `pc` the place of the
instruction (R52, R286). -/
def addiBody (d a : BitVec 5) (imm : Word) (pc : Pc) (s : State) : State := s.writeSAt pc d (s.me.rs a + imm)
def andiBody (d a : BitVec 5) (imm : Word) (pc : Pc) (s : State) : State := s.writeSAt pc d (s.me.rs a &&& imm)
def oriBody (d a : BitVec 5) (imm : Word) (pc : Pc) (s : State) : State := s.writeSAt pc d (s.me.rs a ||| imm)
def xoriBody (d a : BitVec 5) (imm : Word) (pc : Pc) (s : State) : State := s.writeSAt pc d (s.me.rs a ^^^ imm)
def liBody (d : BitVec 5) (imm : Word) (pc : Pc) (s : State) : State := s.writeSAt pc d imm
def luiBody (d : BitVec 5) (imm : Word) (pc : Pc) (s : State) : State := s.writeSAt pc d (imm <<< 15)
def addaiBody (d a : BitVec 5) (imm : Word) (pc : Pc) (s : State) : State := s.writeAAt pc d (s.me.ra a + imm)

/-! ### Meanings -/

def execAdd (g : Guard) (d a b : BitVec 5) (s : State) : Out := alu (.add g d a b) g d a b (· + ·) s
def execSub (g : Guard) (d a b : BitVec 5) (s : State) : Out := alu (.sub g d a b) g d a b (· - ·) s
def execAnd (g : Guard) (d a b : BitVec 5) (s : State) : Out := alu (.and g d a b) g d a b (· &&& ·) s
def execOr (g : Guard) (d a b : BitVec 5) (s : State) : Out := alu (.or g d a b) g d a b (· ||| ·) s
def execXor (g : Guard) (d a b : BitVec 5) (s : State) : Out := alu (.xor g d a b) g d a b (· ^^^ ·) s
def execAndn (g : Guard) (d a b : BitVec 5) (s : State) : Out := alu (.andn g d a b) g d a b (fun x y => x &&& ~~~y) s
def execShl (g : Guard) (d a b : BitVec 5) (s : State) : Out := alu (.shl g d a b) g d a b opShl s
def execShr (g : Guard) (d a b : BitVec 5) (s : State) : Out := alu (.shr g d a b) g d a b opShr s
def execSar (g : Guard) (d a b : BitVec 5) (s : State) : Out := alu (.sar g d a b) g d a b opSar s
def execMin (g : Guard) (d a b : BitVec 5) (s : State) : Out := alu (.min g d a b) g d a b opMin s
def execMinn (g : Guard) (d a b : BitVec 5) (s : State) : Out := alu (.minn g d a b) g d a b opMinn s
def execMax (g : Guard) (d a b : BitVec 5) (s : State) : Out := alu (.max g d a b) g d a b opMax s
def execMaxn (g : Guard) (d a b : BitVec 5) (s : State) : Out := alu (.maxn g d a b) g d a b opMaxn s
def execMov (g : Guard) (d a : BitVec 5) (s : State) : Out := alu1 (.mov g d a) g d a id s
def execClz (g : Guard) (d a : BitVec 5) (s : State) : Out := alu1 (.clz g d a) g d a opClz s
def execCtz (g : Guard) (d a : BitVec 5) (s : State) : Out := alu1 (.ctz g d a) g d a opCtz s
def execPopc (g : Guard) (d a : BitVec 5) (s : State) : Out := alu1 (.popc g d a) g d a opPopc s

/-- SEL always executes; its predicate pair is the selector (R274, R281). -/
def execSel (g : Guard) (d a b : BitVec 5) (s : State) : Out :=
  .next (s.issue (.sel g d a b) 0 none fun s => s.writeS d (if s.me.guard g then s.me.rs a else s.me.rs b))

def execMul (g : Guard) (d a b : BitVec 5) (s : State) : Out := alu (.mul g d a b) g d a b (· * ·) s
def execMulh (g : Guard) (d a b : BitVec 5) (s : State) : Out := alu (.mulh g d a b) g d a b opMulh s
def execMulhn (g : Guard) (d a b : BitVec 5) (s : State) : Out := alu (.mulhn g d a b) g d a b opMulhn s
def execDiv (g : Guard) (d a b : BitVec 5) (s : State) : Out := alu (.div g d a b) g d a b opDiv s
def execDivn (g : Guard) (d a b : BitVec 5) (s : State) : Out := alu (.divn g d a b) g d a b opDivn s
def execRem (g : Guard) (d a b : BitVec 5) (s : State) : Out := alu (.rem g d a b) g d a b opRem s
def execRemn (g : Guard) (d a b : BitVec 5) (s : State) : Out := alu (.remn g d a b) g d a b opRemn s

def execAddi (g : Guard) (d a : BitVec 5) (i : BitVec 12) (s : State) : Out :=
  .next (s.issue (.addi g d a i) 0 (some g) fun s => addiBody d a (imm12 i) s.me.pc s)
def execAndi (g : Guard) (d a : BitVec 5) (i : BitVec 12) (s : State) : Out :=
  .next (s.issue (.andi g d a i) 0 (some g) fun s => andiBody d a (imm12 i) s.me.pc s)
def execOri (g : Guard) (d a : BitVec 5) (i : BitVec 12) (s : State) : Out :=
  .next (s.issue (.ori g d a i) 0 (some g) fun s => oriBody d a (imm12 i) s.me.pc s)
def execXori (g : Guard) (d a : BitVec 5) (i : BitVec 12) (s : State) : Out :=
  .next (s.issue (.xori g d a i) 0 (some g) fun s => xoriBody d a (imm12 i) s.me.pc s)

def execShli (g : Guard) (d a : BitVec 5) (n : BitVec 6) (s : State) : Out :=
  alu1 (.shli g d a n) g d a (· <<< n.toNat) s
def execShri (g : Guard) (d a : BitVec 5) (n : BitVec 6) (s : State) : Out :=
  alu1 (.shri g d a n) g d a (· >>> n.toNat) s
def execSari (g : Guard) (d a : BitVec 5) (n : BitVec 6) (s : State) : Out :=
  alu1 (.sari g d a n) g d a (·.sshiftRight n.toNat) s

def execFunl (g : Guard) (d a b : BitVec 5) (n : BitVec 6) (s : State) : Out :=
  alu (.funl g d a b n) g d a b (opFunl n.toNat) s
def execFunr (g : Guard) (d a b : BitVec 5) (n : BitVec 6) (s : State) : Out :=
  alu (.funr g d a b n) g d a b (opFunr n.toNat) s

/-- Compares the low 8, 16, 32 or 64 bits (R309). -/
def execCmp (g : Guard) (c : BitVec 2) (t : BitVec 3) (a b : BitVec 5) (w : BitVec 2) (k : BitVec 4) (s : State) : Out :=
  .next (s.issue (.cmp g c t a b w k) 0 (some g) fun s =>
    let n := 8 * 2 ^ w.toNat
    s.compareTo c t (icond k.toNat n ((s.me.rs a).toNat % 2 ^ n) ((s.me.rs b).toNat % 2 ^ n)))

/-- Compares 64 bits with a sign-extended byte (R310). -/
def execCmpi (g : Guard) (c : BitVec 2) (t : BitVec 3) (a : BitVec 5) (k : BitVec 4) (i : BitVec 8) (s : State) : Out :=
  .next (s.issue (.cmpi g c t a k i) 0 (some g) fun s =>
    s.compareTo c t (icond k.toNat 64 (s.me.rs a).toNat (imm8 i).toNat))

def execLi (g : Guard) (d : BitVec 5) (i : BitVec 17) (s : State) : Out :=
  .next (s.issue (.li g d i) 0 (some g) fun s => liBody d (imm17 i) s.me.pc s)
def execLui (g : Guard) (d : BitVec 5) (i : BitVec 17) (s : State) : Out :=
  .next (s.issue (.lui g d i) 0 (some g) fun s => luiBody d (imm17 i) s.me.pc s)

/-- A truth table of two predicates (R367). -/
def execPlog (g : Guard) (t a b : BitVec 3) (e : BitVec 4) (s : State) : Out :=
  .next (s.issue (.plog g t a b e) 0 (some g) fun s =>
    s.writeP t (e.getLsbD ((if s.me.rp a then 2 else 0) + (if s.me.rp b then 1 else 0))))

def execAdda (g : Guard) (d a b : BitVec 5) (s : State) : Out :=
  .next (s.issue (.adda g d a b) 0 (some g) fun s => s.writeA d (s.me.ra a + s.me.rs b))
def execMova (g : Guard) (d a : BitVec 5) (s : State) : Out :=
  .next (s.issue (.mova g d a) 0 (some g) fun s => s.writeA d (s.me.rs a))
def execMovs (g : Guard) (d a : BitVec 5) (s : State) : Out :=
  .next (s.issue (.movs g d a) 0 (some g) fun s => s.writeS d (s.me.ra a))
def execAddai (g : Guard) (d a : BitVec 5) (i : BitVec 12) (s : State) : Out :=
  .next (s.issue (.addai g d a i) 0 (some g) fun s => addaiBody d a (imm12 i) s.me.pc s)

end Sys2Proof.Machine
end

