-- ==== Sys2Proof/Machine/Queue.lean ====
section
/-! DEFINITION. Queue registers, branch-outcome queues and token FIFOs (R40-R45), and the instructions of major
0x35 (R371-R373). -/

namespace Sys2Proof.Machine

/-! ### Queues -/

/-- Depths of R40. -/
def queueDepth (q : Nat) : Nat := if q < 4 then 8 else 16
def branchDepth : Nat := 32

def CoreState.queue (k : CoreState) (q : Nat) : QueueReg := k.q.at q QueueReg.reset
def CoreState.branch (k : CoreState) (q : Nat) : QueueReg := k.bq.at q QueueReg.reset
def CoreState.setQueue (k : CoreState) (q : Nat) (x : QueueReg) : CoreState := { k with q := k.q.put q x }
def CoreState.setBranch (k : CoreState) (q : Nat) (x : QueueReg) : CoreState := { k with bq := k.bq.put q x }

/-- Entries accepted from the producer. -/
def QueueReg.accepted (q : QueueReg) : Nat := q.base + q.entries.length
def QueueReg.append (q : QueueReg) (v : Nat) : QueueReg := { q with entries := q.entries ++ [v] }

/-- The entry at the read position, when there is one (R41). -/
def QueueReg.peek (q : QueueReg) : Option Nat := q.entries[q.rd - q.base]?
def QueueReg.pop (q : QueueReg) : QueueReg := { q with rd := q.rd + 1 }

/-- The consumer commits a mark: what it popped stops being held (R45). -/
def QueueReg.commit (q : QueueReg) : QueueReg := ⟨q.entries.drop (q.rd - q.base), q.rd, q.rd⟩

/-- The consumer is rolled back: held entries are read again (R45). -/
def QueueReg.rewind (q : QueueReg) : QueueReg := { q with rd := q.base }

/-- A change of a queue or FIFO restarts the interval of R42. -/
def State.queueChanged (s : State) (core : Nat) : State := s.updCore core fun k => { k with lastChange := s.tick.toNat }

/-- What a push meets: it is discarded (R45), accepted, or the queue is full (R41). -/
inductive Push where
  | discard | accept | full
  deriving DecidableEq, Repr

def QueueReg.tryPush (q : QueueReg) (count depth : Nat) : Push :=
  if count < q.accepted then .discard else if q.entries.length < depth then .accept else .full

/-- The issuing stream's push to queue register `q`, counted. -/
def State.pushQueue (s : State) (q : Nat) (v : Nat) : State :=
  let s' := match (s.myCore.queue q).tryPush (s.me.pushed (chQueue q)) (queueDepth q) with
    | .accept => (s.updMyCore fun k => k.setQueue q ((k.queue q).append v)).queueChanged s.fcore
    | _ => s
  s'.updMe (·.addPush (chQueue q) 1)

/-- The issuing stream's push to branch-outcome queue `q`, counted. -/
def State.pushBranch (s : State) (q : Nat) (v : Bool) : State :=
  let s' := match (s.myCore.branch q).tryPush (s.me.pushed (chBranch q)) branchDepth with
    | .accept => (s.updMyCore fun k => k.setBranch q ((k.branch q).append (if v then 1 else 0))).queueChanged s.fcore
    | _ => s
  s'.updMe (·.addPush (chBranch q) 1)

def State.branchFull (s : State) (q : Nat) : Bool :=
  (s.myCore.branch q).tryPush (s.me.pushed (chBranch q)) branchDepth == .full

/-! ### Token FIFOs (R43) -/

def CoreState.tokens (k : CoreState) (f : Nat) : Fifo := k.fifo.at f Fifo.reset
def CoreState.setTokens (k : CoreState) (f : Nat) (x : Fifo) : CoreState := { k with fifo := k.fifo.put f x }

/-- A FIFO whose consumer is X holds popped tokens until X's next mark. -/
def Fifo.room (f : Fifo) : Bool := f.acc - f.base < 15
def Fifo.some (f : Fifo) : Bool := f.rd < f.acc

/-- Pops a token; only stream X (agent 2) holds what it pops. -/
def State.popToken (s : State) (core p q : Nat) : State :=
  (s.updCore core fun k =>
    let f := k.tokens (fifoOf p q)
    k.setTokens (fifoOf p q) { f with rd := f.rd + 1, base := if q == 2 then f.base else f.rd + 1 }).queueChanged core

/-- Pushes a token that the FIFO accepts. -/
def State.pushToken (s : State) (core p q : Nat) : State :=
  (s.updCore core fun k =>
    let f := k.tokens (fifoOf p q)
    k.setTokens (fifoOf p q) { f with acc := f.acc + 1 }).queueChanged core

/-- X's push of a token, counted and discarded when the FIFO has it already (R43). -/
def State.pushTokenX (s : State) (q : Nat) : State :=
  let f := fifoOf 2 q
  let s' := if s.me.pushed (chToken f) < (s.myCore.tokens f).acc then s else s.pushToken s.fcore 2 q
  s'.updMe (·.addPush (chToken f) 1)

/-- X's push of a token must wait for room. -/
def State.tokenBlocked (s : State) (q : Nat) : Bool :=
  let f := fifoOf 2 q
  !(s.me.pushed (chToken f) < (s.myCore.tokens f).acc) && !(s.myCore.tokens f).room

/-! ### QPOP, QPEEK, QPUSH, QSTAT -/

/-- Writes an entry: a vector for `q0`-`q3`, a scalar otherwise (R371). -/
def StreamState.writeEntry (t : StreamState) (q : Nat) (d : BitVec 5) (v : Nat) : StreamState :=
  if q < 4 then t.wv d (BitVec.ofNat 1024 v) else t.ws d (BitVec.ofNat 64 v)

/-- A SYSWR to X's floating-point registers takes effect when X pops the `q6` entry that C pushed next, each time it does (R45, R66). -/
def CoreState.applyXfp (k : CoreState) (index : Nat) : CoreState :=
  { k with x := (k.xfp.filter fun e => e.place == index).foldl (init := k.x) fun x e =>
      if e.reg == 0 then { x with fpctl := e.value.setWidth 3 }
      else if e.reg == 1 then { x with fpflags := e.value.setWidth 5 } else { x with seed := e.value } }

def qpopBody (d : BitVec 5) (q : BitVec 3) (t : Bool) (f : BitVec 2) (s : State) : State :=
  let qr := s.myCore.queue q.toNat
  if t && !(s.myCore.tokens (fifoOf f.toNat 2)).some then s.stall (.token f.toNat 2)
  else match qr.peek with
    | none => s.stall (.queue q.toNat)
    | some v =>
      let s := if t then s.popToken s.fcore f.toNat 2 else s
      let s := (s.updMyCore fun k => k.setQueue q.toNat qr.pop).queueChanged s.fcore
      let s := if q == 6 then s.updMyCore (·.applyXfp qr.rd) else s
      s.updMe fun m => ((m.writeEntry q.toNat d v).setPop (chQueue q.toNat) (qr.rd + 1)).done

def execQpop (g : Guard) (d : BitVec 5) (q : BitVec 3) (t : Bool) (f : BitVec 2) (s : State) : Out :=
  .next (s.issue (.qpop g d q t f) 0 (some g) (qpopBody d q t f))

/-- QPEEK returns the entry without advancing (R371). -/
def execQpeek (g : Guard) (d : BitVec 5) (q : BitVec 3) (s : State) : Out :=
  .next (s.issue (.qpeek g d q) 0 (some g) fun s =>
    match (s.myCore.queue q.toNat).peek with
    | none => s.stall (.queue q.toNat)
    | some v => s.updMe fun m => (m.writeEntry q.toNat d v).done)

def qpushBody (q : BitVec 3) (a : BitVec 5) (t : Bool) (f : BitVec 2) (s : State) : State :=
  if (s.myCore.queue q.toNat).tryPush (s.me.pushed (chQueue q.toNat)) (queueDepth q.toNat) == .full then
    s.stall (.queue q.toNat)
  else if t && s.tokenBlocked f.toNat then s.stall (.token 2 f.toNat)
  else
    let s := s.pushQueue q.toNat (s.me.rs a).toNat
    (if t then s.pushTokenX f.toNat else s).advance

def execQpush (g : Guard) (q : BitVec 3) (a : BitVec 5) (t : Bool) (f : BitVec 2) (s : State) : Out :=
  .next (s.issue (.qpush g q a t f) 0 (some g) (qpushBody q a t f))

/-- The record of a sequence number while its slot still holds it (R105, R373). -/
def Ring.recAt (r : Ring) (n : Nat) : Option Rec :=
  if 1 ≤ n && n ≤ r.acc && r.acc < n + 512 then r.slots.find (n % 512) else none

/-- What QSTAT returns of a status entry (R113, R373). -/
def Status.word (t : Status) (sel : Nat) : Word :=
  match sel with
  | 0 => BitVec.ofNat 64 (t.state + t.cause * 2 ^ 8 + t.fpfl.toNat * 2 ^ 16 + t.kflags.toNat * 2 ^ 24
      + t.kcount % 2 ^ 32 * 2 ^ 32)
  | 1 => t.rmask
  | 2 => BitVec.ofNat 64 (t.mark % 2 ^ 32 + t.beat.toNat * 2 ^ 32)
  | _ => if t.popd then 1 else 0

def execQstat (g : Guard) (d a : BitVec 5) (r : BitVec 2) (s : State) : Out :=
  .next (s.issue (.qstat g d a r) 0 (some g) fun s =>
    let n := (s.me.rs a).toNat
    match (s.myCore.ring (ringOfCode r)).recAt (n % 2 ^ 32) with
    | some x => s.writeS d (x.st.word (bitsOf n 32 2))
    | none => s.writeS d (BitVec.allOnes 64))

end Sys2Proof.Machine
end

