-- ==== Sys2Proof/Machine/Ring.lean ====
section
/-! DEFINITION. Command registers and command rings as the streams see them (R102, R105-R107, R114, R115, R337,
R339, R369, R370, R374). -/

namespace Sys2Proof.Machine

/-! ### Fields of a command record -/

/-- Bits `[lo + n - 1 : lo]` of a record. -/
def vecBits (v : Vec) (lo n : Nat) : Nat := bitsOf v.toNat lo n
/-- `n` bytes of a record from byte `b`, as a little-endian number (R4). -/
def vecField (v : Vec) (b n : Nat) : Nat := vecBits v (8 * b) (8 * n)

/-- Replaces `n` bits from bit `lo`. -/
def vecSet (v : Vec) (lo n x : Nat) : Vec :=
  BitVec.ofNat 1024 (v.toNat % 2 ^ lo + x % 2 ^ n * 2 ^ lo + v.toNat / 2 ^ (lo + n) * 2 ^ (lo + n))

/-- A fresh status entry (R113). -/
def Status.fresh (seq beat : Nat) : Status :=
  { state := 1, cause := 0, fpfl := 0, kflags := 0, mark := 0, seq := seq, kcount := 0, rmask := 0,
    beat := BitVec.ofNat 32 beat, popd := false }

/-- A record as it enters a slot. -/
def Rec.make (bytes : Vec) (seq beat tick born : Nat) (final chain : Bool) : Rec :=
  { bytes := bytes, st := Status.fresh seq beat, plan := none, fifo := ⟨[], [], [], false⟩, performed := false, pend := 0,
    failed := none, posted := false, slots := false, asked := none, tick := tick, waited := 0, born := born, rivals := none,
    after := some 0, derived := [], recheck := none, started := false, final := final, inChain := chain, mxr := none, coll := none,
    seg := none, source := none, refetch := false, audited := false, drained := [] }

/-- The hardware writes `seq` and `gen` into a record at push (R107). -/
def stampRec (v : Vec) (seq gen : Nat) : Vec := vecSet (vecSet v 32 32 seq) 64 16 gen

/-- The NOTE record of KNOTE and REND (R339, R364). -/
def noteRec (val : Word) (final : Bool) : Vec :=
  vecSet (vecSet (vecSet 0 0 8 0x3F) 576 64 val.toNat) 640 1 (if final then 1 else 0)

def causeQueueLimit := 0x31
def causeQueueSeq := 0x32
def causeQueueMode := 0x33

def Ring.occupancy (r : Ring) : Nat := r.acc - r.ret

/-- A ring accepts a record as its next (R107). -/
def Ring.accept (r : Ring) (x : Rec) : Ring := { r with slots := r.slots.put ((r.acc + 1) % 512) x, acc := r.acc + 1 }

def CoreState.chain (k : CoreState) (q : RingId) : Chain :=
  match q with
  | .l => k.chainL
  | .s => k.chainS
  | _ => Chain.reset

def CoreState.setChain (k : CoreState) (q : RingId) (c : Chain) : CoreState :=
  match q with
  | .l => { k with chainL := c }
  | .s => { k with chainS := c }
  | _ => k

/-- The oldest unstarted record of a ring: the first not retired, or the one behind it where that one runs (R106). -/
def Ring.oldest (r : Ring) : Option Nat :=
  if r.ret == r.acc then none
  else if r.head.any fun x => x.st.state < 7 then some (r.ret + 1)
  else if r.ret + 2 ≤ r.acc then some (r.ret + 2) else none

/-- The 16 oldest records of the rings L, K and S, other than one, that are not retired, by ring code and sequence number (R174). -/
def CoreState.oldestOf (k : CoreState) (q : RingId) : List (Nat × Nat) :=
  ([RingId.l, .k, .s].filter (· != q)).flatMap fun p =>
    (List.range (min 16 (k.ring p).occupancy)).map fun i => (ringCode p, (k.ring p).ret + 1 + i)

/-- A record that has become the oldest unstarted one of its ring takes note of the records it is compared with (R174). -/
def CoreState.noteOldest (k : CoreState) (q : RingId) : CoreState :=
  let r := k.ring q
  match r.oldest with
  | none => k
  | some n =>
    match r.slots.find (n % 512) with
    | none => k
    | some x =>
      if x.rivals.isSome then k
      else k.setRing q { r with slots := r.slots.put (n % 512) { x with rivals := some (k.oldestOf q) } }

/-- The ordering class of an entry of the address queue. -/
def AqEntry.cls : AqEntry → BitVec 4
  | .read _ _ c | .write _ _ _ c => c
  | .gather .. | .scatter .. => 0

/-- The entry may reach system space, where only accesses of eight bytes perform, as class 15 whatever class they carry (R163, R383). -/
def AqEntry.maySys : AqEntry → Bool
  | .read .. => false
  | .write _ n _ _ => n == 8
  | .gather _ _ _ w _ | .scatter _ _ w _ _ => w == 8

/-- A push by stream A releases its class: how many entries of the address queue, from its head, perform before the record runs
(R171). -/
def CoreState.releaseOf (k : CoreState) (q : RingId) (cls : BitVec 4) : Nat :=
  if q == .l || q == .s then (k.aq.zipIdx.filter fun e => e.1.cls == cls || cls == 15 && e.1.maySys).foldl (fun n e => max n (e.2 + 1)) 0 else 0

/-- Offers a record of the issuing stream to a ring (R107): a re-push is discarded, but tells the record again what it waits for. The
new push count is returned; an error is the cause of a fault. -/
def State.offer (s : State) (q : RingId) (bytes : Vec) (final : Bool) : Except Nat (Nat × State) :=
  let k := s.myCore
  let r := k.ring q
  let n := s.me.pushed (chRing q) + 1
  let rel := k.releaseOf q (BitVec.ofNat 4 (vecBits bytes 24 4))
  let counted (s : State) : State := s.updMe (·.addPush (chRing q) 1)
  if n ≤ r.acc then
    .ok (n, counted (s.updMyCore fun k => k.setRing q { r with slots := r.slots.map fun (i, x) =>
      (i, if i == n % 512 && x.st.seq == n && x.after.isNone then { x with after := some rel } else x) }))
  else if n != r.acc + 1 then .error causeQueueSeq
  else if 2 ^ 30 - 1 ≤ r.acc then .error causeQueueLimit
  else
    let x := Rec.make (stampRec bytes n (k.gen.toNat % 65536)) n s.beat.toNat s.tick.toNat s.steps final false
    .ok (n, counted (s.updMyCore fun k => (k.setRing q (r.accept { x with after := some rel })).noteOldest q))

/-- An entry at the head of the address queue has performed: the records that wait for it wait for one less. -/
def Ring.aqPerformed (r : Ring) : Ring :=
  { r with slots := r.slots.map fun (i, x) => (i, { x with after := x.after.map (· - 1) }) }

/-- The address queue is discarded, and stream A executes from its mark: records that wait for its entries wait to be pushed again. -/
def Ring.aqDropped (r : Ring) : Ring :=
  { r with slots := r.slots.map fun (i, x) => (i, { x with after := if x.after == some 0 then x.after else none }) }

/-- A FENCESC waits for one entry less. -/
def StreamState.aqPerformed (t : StreamState) : StreamState :=
  match t.wait with
  | .fencesc n acc r => { t with wait := .fencesc (n - 1) acc r }
  | _ => t

/-- An access of stream A that stood at the head of the address queue has performed (R169, R171, R217). -/
def CoreState.aqPop (k : CoreState) (rest : List AqEntry) : CoreState :=
  { k with aq := rest, ringL := k.ringL.aqPerformed, ringS := k.ringS.aqPerformed, c := k.c.aqPerformed, a := k.a.aqPerformed
           x := k.x.aqPerformed }

/-- The address queue is discarded: a FENCESC of another stream waits for its entries no more. -/
def StreamState.aqDropped (t : StreamState) : StreamState :=
  match t.wait with
  | .fencesc _ acc r => { t with wait := .fencesc 0 acc r }
  | _ => t

def CoreState.aqDrop (k : CoreState) : CoreState :=
  { k with aq := [], ringL := k.ringL.aqDropped, ringS := k.ringS.aqDropped, c := k.c.aqDropped, x := k.x.aqDropped }

/-- KPUSH and KNOTE (R339). -/
def pushRec (d : BitVec 5) (q : RingId) (bytes : Vec) (s : State) : State :=
  if (s.myCore.chain q).mode then s.trap causeQueueMode 0
  else if (s.myCore.ring q).occupancy = 512 then s.stall (.ringFull q)
  else match s.offer q bytes false with
    | .error c => s.trap c 0
    | .ok (n, s) => s.writeS d (BitVec.ofNat 64 n)

/-! ### Command registers (R337) -/

def execKclr (g : Guard) (k : BitVec 3) (s : State) : Out :=
  .next (s.issue (.kclr g k) 0 (some g) fun s => s.updMe fun t => (t.wk k 0).done)

def execKset (g : Guard) (k : BitVec 3) (w r : BitVec 5) (s : State) : Out :=
  .next (s.issue (.kset g k w r) 0 (some g) fun s =>
    s.updMe fun t => (t.wk k (vecSet (t.rk k) (32 * w.toNat) 32 (t.rs r).toNat)).done)

def execKsetd (g : Guard) (k : BitVec 3) (w r : BitVec 5) (s : State) : Out :=
  .next (s.issue (.ksetd g k w r) 0 (some g) fun s =>
    s.updMe fun t => (t.wk k (vecSet (t.rk k) (32 * w.toNat) 64 (t.rs r).toNat)).done)

def execKget (g : Guard) (k : BitVec 3) (w r : BitVec 5) (s : State) : Out :=
  .next (s.issue (.kget g k w r) 0 (some g) fun s =>
    s.writeS r (BitVec.ofNat 64 (vecBits (s.me.rk k) (32 * w.toNat) 32)))

/-- Bits [31:0] of the immediate go into word `w`; `pc` is the place of the instruction (R286). -/
def ksetiBody (k : BitVec 3) (w : BitVec 5) (imm : Word) (pc : Pc) (s : State) : State :=
  s.updMe fun t => (t.wk k (vecSet (t.rk k) (32 * w.toNat) 32 imm.toNat)).doneAt pc

def execKseti (g : Guard) (k : BitVec 3) (w : BitVec 5) (i : BitVec 14) (s : State) : Out :=
  .next (s.issue (.kseti g k w i) 0 (some g) fun s => ksetiBody k w (imm14 i) s.me.pc s)

/-- What a kind's count makes of `kcount`; in a call that counts the segment records retired (R345). -/
def Rec.kindCount (r : Rec) (n : Nat) : Nat := if r.seg.isSome then r.st.kcount else n

/-! ### Pushing -/

def execKpush (g : Guard) (d a : BitVec 5) (q : BitVec 2) (s : State) : Out :=
  .next (s.issue (.kpush g d a q) 0 (some g) fun s => pushRec d (ringOfCode q) (s.me.rk (a.setWidth 3)) s)

def execKnote (g : Guard) (d a : BitVec 5) (q : BitVec 2) (s : State) : Out :=
  .next (s.issue (.knote g d a q) 0 (some g) fun s => pushRec d (ringOfCode q) (noteRec (s.me.rs a) false) s)

def kickRing (q : Bool) : RingId := if q then .s else .l
def chKick (q : Bool) : Nat := if q then 33 else 32

/-- QKICK (R115, R369). -/
def execQkick (g : Guard) (a : BitVec 5) (q : Bool) (s : State) : Out :=
  .next (s.issue (.qkick g a q) 0 (some g) fun s =>
    let c := s.myCore.chain (kickRing q)
    if !c.mode then s.trap causeQueueMode 0
    else
      let n := s.me.pushed (chKick q) + (s.me.rs a).toNat % 2 ^ 32
      ((s.updMyCore fun k => k.setChain (kickRing q) { c with kicks := max c.kicks n }).updMe fun t =>
        { t with pushes := t.pushes.put (chKick q) n }).advance)

/-- C's other pushes are logged in order, so that a re-execution finds the first one's result (R45, R130, R150). -/
def State.repeated (s : State) : Option Word := s.myCore.log[s.me.pushed chOther]?

/-- Counts a push of C that was performed or found performed. -/
def State.countOther (s : State) : State := s.updMe (·.addPush chOther 1)

/-- Logs and counts a push of C with its result. -/
def State.logPush (s : State) (w : Word) : State :=
  (s.updMyCore fun k => { k with log := k.log ++ [w] }).countOther

/-- An access fault that names an address but no translation: alignment (R340, R370). -/
def State.trapAlign (s : State) (va : Word) (kind : AccKind) (cls size : Nat) : State :=
  s.trapAccess ⟨causeAlignment, 0, va.toNat⟩ kind cls size

/-- Queue L or S switches to a chain, or back to ring mode; C's QLINK has done its work (R114). -/
def State.enterChain (s : State) (r : RingId) (addr : Word) (n : Nat) : State :=
  let c := s.myCore.chain r
  ((s.updMyCore fun k => k.setChain r
    { c with mode := n != 0, addr := addr, left := n, fetched := if n != 0 then c.kicks else c.fetched, link := none }).logPush
      0).advance

/-- QLINK (R114, R370). -/
def execQlink (g : Guard) (q : Bool) (a b : BitVec 5) (s : State) : Out :=
  .next (s.issue (.qlink g q a b) 0 (some g) fun s =>
    let r := kickRing q
    let n := (s.me.rs b).toNat
    let c := s.myCore.chain r
    if 65536 < n then s.trap causeIllegal 4
    else if (s.me.ra a).toNat % 128 != 0 then s.trapAlign (s.me.ra a) .read 0 128
    else if s.repeated.isSome then s.countOther.advance
    else if (s.myCore.ring r).occupancy != 0 then
      (s.updMyCore fun k => k.setChain r { c with link := some (s.me.ra a, n) }).stall (.ringFull r)
    else s.enterChain r (s.me.ra a) n)

/-- A QLINK that waits goes on once every record the ring has accepted has retired (R114). -/
def execChainModeEnter (core : BitVec 8) (r : RingId) (s : State) : Out :=
  let k := s.core core.toNat
  match (k.chain r).link with
  | none => .next s
  | some (addr, n) =>
    if k.c.wait == .ringFull r && (k.ring r).occupancy == 0 && s.mayIssue core.toNat .c then
      .next (({ s with focusCore := core, focusLane := .c } : State).enterChain r addr n)
    else .next s

/-! ### REND (R35, R374) -/

/-- Whether the stream has pushed its final NOTE into a ring already: its last counted push there is final. -/
def State.finalPushed (s : State) (q : RingId) : Bool :=
  match (s.myCore.ring q).recAt (s.me.pushed (chRing q)) with
  | some x => x.final
  | none => false

/-- The newest record of a chain is a LINK that has not replaced the chain yet. -/
def CoreState.chainBlocked (k : CoreState) (q : RingId) : Bool :=
  let r := k.ring q
  r.ret != r.acc && ((r.slots.find (r.acc % 512)).any fun x => x.inChain && vecField x.bytes 0 1 == 0x3E && !x.performed && x.st.state < 8)

/-- A chain queue whose engine has fetched all that the kicks allow, or the whole chain, which a jump continues (R114, R116). -/
def CoreState.chainDrained (k : CoreState) (q : RingId) : Bool :=
  let c := k.chain q
  !c.mode || c.kicks ≤ c.fetched || (c.left == 0 && !k.chainBlocked q)

/-- One final push; `none` when it must wait. -/
def State.finalPush (s : State) (q : RingId) : Except Nat (Option State) :=
  if s.finalPushed q then .ok (some s)
  else if !s.myCore.chainDrained q || (s.myCore.ring q).occupancy = 512 then .ok none
  else
    match s.offer q (noteRec 0 true) true with
    | .error c => .error c
    | .ok (_, s) => .ok (some s)

/-- The stream has executed REND: its instruction buffer and its loop stack are discarded (R35, R374), and the interval of R42 begins
again. -/
def State.endStream (s : State) : State :=
  ((s.loopsExit s.fcore s.focusLane s.me.loops).updMe fun t => { t with ended := true, wait := .ended, loops := [], ibuf := [] }).queueChanged s.fcore

def rendPushes (q1 q2 : RingId) (s : State) : State :=
  match s.finalPush q1 with
  | .error c => s.trap c 0
  | .ok none => s.stall (.ringFull q1)
  | .ok (some s1) =>
    match s1.finalPush q2 with
    | .error c => s1.trap c 0
    | .ok none => s1.stall (.ringFull q2)
    | .ok (some s2) => s2.endStream

/-- What names a job of a tenant: its queue, record and instance. -/
def Job.name (j : Job) : Nat × Nat × Nat := (j.queue, j.record, j.inst)

/-- Whether a post is one of a job. -/
def Post.ofJob (p : Post) (j : Job) : Bool := p.core.isSome && j.tenant == p.tenant && j.name == p.job

/-- Whether a post is one of a stream. -/
def State.ofStream (s : State) (core : Nat) (l : Lane) (p : Post) : Bool := (s.core core).job.any p.ofJob && p.lane == laneTag l

/-- The stream has posts that no store has performed, or refusals of posts on their way back (R180). -/
def State.hasPosts (s : State) (core : Nat) (l : Lane) : Bool :=
  s.dies.any fun (_, d) => (d.posts ++ d.held ++ d.refusals).any (s.ofStream core l)

/-- Every earlier access of a stream has performed: only stream A's address queue keeps accesses waiting (R217). -/
def State.performed (s : State) (core : Nat) (l : Lane) : Bool := l != .a || (s.core core).aq.isEmpty

/-- Every earlier access and post of the issuing stream has performed. -/
def State.settled (s : State) : Bool := s.performed s.fcore s.focusLane && !s.hasPosts s.fcore s.focusLane

/-- REND waits for the stream's earlier accesses, then pushes the final NOTEs. -/
def execRend (s : State) : Out :=
  .next (s.issue .rend 0 none fun s =>
    if !s.settled then s.stall .stall
    else match s.focusLane with
      | .c => rendPushes .k .g s
      | .a => rendPushes .l .s s
      | .x => s.endStream)

end Sys2Proof.Machine
end

