-- ==== Sys2Proof/Machine/Control.lean ====
section
/-! DEFINITION. Control transfer, hardware loops and marks, XIMM, and the instructions that only take time (R32,
R37-R45, R286, R301, R303-R306, R321, R336, R347, R348, R363, R385, R405). -/

namespace Sys2Proof.Machine

/-! ### The instruction buffer (R33) -/

/-- The `n` lines from an address on that the fetch unit reads ahead, up to one that it cannot read now or the last of the image. -/
def State.linesAhead (s : State) (core line : Nat) : Nat → List (Nat × List Nat)
  | 0 => []
  | n + 1 =>
    if s.walking (s.who core) .fetch line then [] else
    match s.fetchLine core line with
    | .error _ => []
    | .ok l => (line, l.words) :: if l.last then [] else s.linesAhead core (line + 32) n

/-- The issuing stream's buffer takes a line to its front, and a free number of lines ahead of it; the others that it held give way
(DESIGN CHOICE, log 67). -/
def State.bufferLine (s : State) (line : Nat) (l : Line) : State :=
  let (v, s) := s.draw
  let ahead := if l.last then [] else s.linesAhead s.fcore (line + 32) (v % 4)
  let new := (line, l.words) :: ahead
  s.updMe fun t => { t with ibuf := (new ++ t.ibuf.filter fun x => !new.any (·.1 == x.1)).take 4 }

/-- The line that the stream executes stands at the front of its buffer, and stays there as it was read until the stream executes
another. -/
def State.holdLine (s : State) (line : Nat) (l : Line) : State :=
  if s.me.ibuf.head?.map (·.1) == some line then s else s.bufferLine line l

/-- A stream that goes on in a line executes the line's next lanes as the line was read for it already (R33). -/
def State.keepLine (s : State) (line : Nat) (l : Line) : State := if s.me.pc.line.toNat == line then s.holdLine line l else s

/-- The first page from one line to another, of lines that the buffer does not hold, whose translation must be walked (R100). -/
def State.unwalked (s : State) (line last : Nat) : Option Nat :=
  if (Tab.find s.me.ibuf last).isSome then none
  else ((List.range (last / 4096 + 1 - line / 4096)).map fun i => max line ((line / 4096 + i) * 4096)).find? fun va =>
    s.walking (s.who s.fcore) .fetch va

/-- What the search for the instruction after a position finds: the line and lane, with the line as the stream will execute it. -/
inductive Sought where
  | lane (line lane : Nat) (l : Line)
  | past
  | miss (va : Nat)
  | fault (f : AccFault)
  deriving DecidableEq, Repr

def State.seek (s : State) (pc : Pc) : Sought :=
  match s.successor s.fcore s.focusLane pc with
  | .past => .past
  | .fault f =>
    match if f.cause == causeBadPhys then none else s.unwalked f.addr f.addr with
    | some va => .miss va
    | none => .fault f
  | .lane ln i =>
    match s.unwalked pc.line.toNat ln with
    | some va => .miss va
    | none =>
      match s.lineFor s.fcore s.focusLane ln with
      | .ok l => .lane ln i l
      | .error f => .fault f

/-! ### Branches -/

/-- The link register: `s31` in C and X, `s15` in A (R280). -/
def linkReg (l : Lane) : BitVec 5 := if l == .a then 15 else 31

/-- Branches from the line of `pc` by `off` lines (R277). -/
def brBody (l : BitVec 3) (off : Word) (pc : Pc) (s : State) : State := s.updMe (·.goto (branchLine pc.line off) l)

/-- Writes the code pointer of the instruction after `pc` into the link register and continues; a call with no next
instruction traps at itself (R305). -/
def callTo (pc : Pc) (line : Word) (lane : BitVec 3) (s : State) : State :=
  match s.successor s.fcore s.focusLane pc with
  | .lane ln i => s.updMe fun t => (t.ws (linkReg s.focusLane) (codePointer ln i)).goto line lane
  | .past => s.trap causeIllegal 2
  | .fault f => s.trapAccess f .fetch 0 32

def callBody (l : BitVec 3) (off : Word) (pc : Pc) (s : State) : State := callTo pc (branchLine pc.line off) l s

/-- A code pointer's line (bits [4:3] are kept, so that the fetch finds them) and lane (R280, R306). -/
def pointerLine (t : Word) : Word := t &&& ~~~7#64
def pointerLane (t : Word) : BitVec 3 := t.setWidth 3

def jumpReg (a : BitVec 5) (s : State) : State := s.updMe fun t => t.goto (pointerLine (t.rs a)) (pointerLane (t.rs a))

/-- BRX exports its condition to `bq0` and `bq1` from C, to `bq2` from A, and branches on it (R40, R304). -/
def brxBody (g : Guard) (l : BitVec 3) (off : Word) (pc : Pc) (s : State) : State :=
  let c := s.me.guard g
  let qs := if s.focusLane == .c then [0, 1] else [2]
  match qs.find? s.branchFull with
  | some q => s.stall (.branchQueue q)
  | none =>
    let s := qs.foldl (fun s q => s.pushBranch q c) s
    if c then brBody l off pc s else s.updMe (·.doneAt pc)

/-- BRQ always pops; the outcome xor `n` is the condition (R274, R303). -/
def brqBody (q : BitVec 3) (n : Bool) (l : BitVec 3) (off : Word) (pc : Pc) (s : State) : State :=
  let qr := s.myCore.branch q.toNat
  match qr.peek with
  | none => s.stall (.branchQueue q.toNat)
  | some v =>
    let s := (s.updMyCore fun k => k.setBranch q.toNat qr.pop).queueChanged s.fcore
    let s := s.updMe (·.setPop (chBranch q.toNat) (qr.rd + 1))
    if (v == 1) != n then brBody l off pc s else s.updMe (·.doneAt pc)

def execBr (g : Guard) (l : BitVec 3) (o : BitVec 19) (s : State) : Out :=
  .next (s.issue (.br g l o) 0 (some g) fun s => brBody l (imm19 o) s.me.pc s)
def execJmp (l : BitVec 3) (o : BitVec 19) (s : State) : Out :=
  .next (s.issue (.jmp l o) 0 none fun s => brBody l (imm19 o) s.me.pc s)
def execCall (g : Guard) (l : BitVec 3) (o : BitVec 19) (s : State) : Out :=
  .next (s.issue (.call g l o) 0 (some g) fun s => callBody l (imm19 o) s.me.pc s)
def execJmpi (g : Guard) (a : BitVec 5) (s : State) : Out :=
  .next (s.issue (.jmpi g a) 0 (some g) (jumpReg a))
/-- JMPI on `s31` (R336). -/
def execRet (g : Guard) (s : State) : Out := .next (s.issue (.ret g) 0 (some g) (jumpReg 31))
/-- JMPI on `s15` (R336). -/
def execRetA (g : Guard) (s : State) : Out := .next (s.issue (.retA g) 0 (some g) (jumpReg 15))
/-- The target is read before the link register is written (R306). -/
def execCalli (g : Guard) (a : BitVec 5) (s : State) : Out :=
  .next (s.issue (.calli g a) 0 (some g) fun s =>
    callTo s.me.pc (pointerLine (s.me.rs a)) (pointerLane (s.me.rs a)) s)
def execBrx (g : Guard) (l : BitVec 3) (o : BitVec 19) (s : State) : Out :=
  .next (s.issue (.brx g l o) 0 none fun s => brxBody g l (imm19 o) s.me.pc s)
def execBrq (q : BitVec 3) (n : Bool) (l : BitVec 3) (o : BitVec 19) (s : State) : Out :=
  .next (s.issue (.brq q n l o) 0 none fun s => brqBody q n l (imm19 o) s.me.pc s)

/-! ### Loops (R39, R348) -/

/-- An unused row of the loop table. -/
def LoopRow.unused : LoopRow := ⟨0, false, false, 0, 0, 0, 0⟩

def CoreState.loopRow (k : CoreState) (id : Nat) : LoopRow :=
  match k.job with
  | some j => j.loops.getD id LoopRow.unused
  | none => LoopRow.unused

/-- `p4`-`p7` as the stage predicates of iteration `it` (R348). -/
def stagePreds (p : BitVec 8) (stages n it : Nat) : BitVec 8 :=
  [0, 1, 2, 3].foldl (init := p) fun p j => setBit8 p (4 + j) (j < stages && j ≤ it && it < n + j)

/-- Restores `p4`-`p7` to saved values. -/
def restorePreds (p saved : BitVec 8) : BitVec 8 := (p &&& 0x0F#8) ||| (saved &&& 0xF0#8)

/-- Takes the innermost entry off the stack, a `.sp` entry restoring `p4`-`p7`. -/
def StreamState.popLoop (t : StreamState) : StreamState :=
  match t.loops with
  | [] => t
  | e :: r => { t with loops := r, p := if e.sp then restorePreds t.p e.saved else t.p }

/-- Discards `n` entries. -/
def StreamState.popLoops (t : StreamState) : Nat → StreamState
  | 0 => t
  | n + 1 => t.popLoop.popLoops n

/-- How many entries lie above the entry of an id. -/
def loopDepth (id : BitVec 4) : List LoopEntry → Option Nat
  | [] => none
  | e :: r => if e.id == id then some 0 else (loopDepth id r).map (· + 1)

/-- Outcome of the skip of a loop with no iterations. -/
inductive Skip where
  | found (line lane : Nat)
  | ends (line lane : Nat) (isEnd : Bool)
  | badTag (line lane : Nat)
  | fault (f : AccFault)
  deriving DecidableEq, Repr

/-- Passes over the stream's lanes of one line from lane `i` on, to the first ENDL of the id. -/
def skipLine (l : Line) (line tag : Nat) (id : BitVec 4) : List Nat → Option Skip
  | [] => none
  | j :: r =>
    if 4 ≤ l.tag j then some (.badTag line j)
    else if l.tag j == tag then
      match decodeWord (BitVec.ofNat 32 (l.word j)) with
      | .ok (.endl _ k _) => if k == id then some (.found line j) else skipLine l line tag id r
      | .ok .rend => some (.ends line j true)
      | _ => skipLine l line tag id r
    else skipLine l line tag id r

/-- The search line by line (R348). `at_` is the last lane passed. -/
def State.skipLoop (s : State) (core : Nat) (t : Lane) (id : BitVec 4) : Nat → Nat → Nat → Nat × Nat → Skip
  | 0, _, _, p => .ends p.1 p.2 false
  | f + 1, line, i, p =>
    match s.lineFor core t line with
    | .error e => .fault e
    | .ok l =>
      match skipLine l line (laneTag t) id ([1, 2, 3, 4, 5, 6, 7].filter (i ≤ ·)) with
      | some r => r
      | none =>
        let own := [1, 2, 3, 4, 5, 6, 7].filter fun j => i ≤ j && l.tag j == laneTag t
        let p := match own.getLast? with
          | some j => (line, j)
          | none => p
        if l.last then .ends p.1 p.2 false else s.skipLoop core t id f (line + 32) 1 p

/-- A loop with no iterations: the stream continues after its ENDL, or traps where it finds none (R348). -/
def skipBody (id : BitVec 4) (s : State) : State :=
  let pc := s.me.pc
  match s.skipLoop s.fcore s.focusLane id lineFuel pc.line.toNat (pc.lane.toNat + 1)
      (pc.line.toNat, pc.lane.toNat) with
  | .found ln i =>
    match s.unwalked pc.line.toNat ln, s.lineFor s.fcore s.focusLane ln with
    | some va, _ => (s.noteMiss s.fcore va).stall .stall
    | none, .ok l => (s.holdLine ln l).updMe (·.doneAt ⟨BitVec.ofNat 64 ln, BitVec.ofNat 3 i, false⟩)
    | none, .error f => s.trapAccess f .fetch 0 32
  | .ends ln i isEnd =>
    (s.updMe (·.goto (BitVec.ofNat 64 ln) (BitVec.ofNat 3 i))).stopCore s.fcore
      { cause := causeIllegal, sub := 2, src := laneSrc s.focusLane, after := !isEnd }
  | .badTag ln i => (s.updMe (·.goto (BitVec.ofNat 64 ln) (BitVec.ofNat 3 i))).trap causeLane 0
  | .fault f => s.trapAccess f .fetch 0 32

/-- A level is active. -/
def hasLevel (l : List LoopEntry) (n : Nat) : Bool := l.any (·.id.toNat == n)

/-- A precise halt stops the stream that it let go on, where `hit` says that its level has been left or its ENDL executed (R271). -/
def State.preciseStop (s : State) (hit : Nat → Bool) : State :=
  match s.myCore.halt with
  | some h => if h.op == 3 && hit h.level then s.updMe fun t => { t with halted := true } else s
  | none => s

def loopBody (i : BitVec 4) (sp : Bool) (a : BitVec 5) (n : BitVec 3) (s : State) : State :=
  if (s.myCore.loopRow i.toNat).kind != 1 then s.trap causeIllegal 4
  else
    let t := match loopDepth i s.me.loops with
      | some d => s.me.popLoops (d + 1)
      | none => s.me
    if t.loops.length == 8 || (sp && t.spActive) then s.trap causeIllegal 4
    else
      let count := (t.rs a).toNat % 2 ^ 32
      let stages := if sp then max n.toNat 1 else 1
      let gone (n : Nat) : Bool := hasLevel s.me.loops n && !hasLevel t.loops n
      let s := s.loopsExit s.fcore s.focusLane (s.me.loops.take (s.me.loops.length - t.loops.length))
      if count == 0 then (skipBody i (s.updMe fun _ => t)).preciseStop gone
      else
        let e : LoopEntry :=
          { id := i, start := { t.pc with after := true }, left := count + stages - 1, iter := 0, sp := sp,
            stages := stages, n := count, saved := t.p }
        (s.updMe fun _ => ({ t with loops := e :: t.loops, p := if sp then stagePreds t.p stages count 0 else t.p } :
          StreamState).done).preciseStop gone

def execLoop (g : Guard) (i : BitVec 4) (sp : Bool) (a : BitVec 5) (n : BitVec 3) (s : State) : Out :=
  .next (s.issue (.loop g i sp a n) 0 (some g) (loopBody i sp a n))

/-! ### Marks (R44, R45, R66) -/

/-- Queues, branch queues and token FIFOs that a stream consumes (R40, R43). -/
def consumedQueues : Lane → List Nat
  | .c => [7]
  | .a => [4, 5]
  | .x => [0, 1, 2, 3, 6]
def consumedBranches : Lane → List Nat
  | .c => []
  | .a => [0]
  | .x => [1, 2]
def consumedTokens : Lane → List Nat
  | .x => [fifoOf 0 2, fifoOf 1 2, fifoOf 3 2]
  | _ => []

/-- Keeps the registers that a `live` mask names, zeros elsewhere (R37, R44). -/
def keepLive {n m : Nat} (v : Vector (BitVec n) m) (live : Word) (lo : Nat) : Vector (BitVec n) m :=
  Vector.ofFn fun i : Fin m => if live.getLsbD (lo + i.val) then v[i] else 0

/-- Only `v0`-`v15` can be live (R37). -/
def keepLiveV (v : Vector Vec 32) (live : Word) : Vector Vec 32 :=
  Vector.ofFn fun i : Fin 32 => if i.val < 16 && live.getLsbD (48 + i.val) then v[i] else 0

/-- What a mark of a stream holds (R44). -/
def StreamState.markOf (t : StreamState) (live : Word) : Mark :=
  { seq := (t.mark.map (·.seq)).getD 0 + 1, pc := t.pc, loops := t.loops, s := keepLive t.s live 0,
    a := keepLive t.a live 32, v := keepLiveV t.v live, p := t.p, m := t.m, fpctl := t.fpctl,
    fpflags := t.fpflags, seed := t.seed, pops := t.pops, pushes := t.pushes, fpUses := t.fpUses }

/-- A mark is written into the slot that does not hold the newest one, and becomes the newest (R44). -/
def StreamState.newMark (t : StreamState) (live : Word) : StreamState := 
  { t with mark := some (t.markOf live), earlier := t.mark, worked := 0, moved := false }

/-- X's FIFO banks: `head` advances to the read position at a mark of the core that pops (R89). -/
def ClusterState.commitFifos (c : ClusterState) (core : Nat) : ClusterState :=
  { c with banks := c.banks.map fun (b, x) => (b, if x.consumer == some core then { x with head := x.rd } else x) }

/-- A stream commits a mark: what it popped before stops being held (R45, R89), with the SYSWR values that came with it (R66). -/
def State.commitMark (s : State) (core : Nat) (l : Lane) (live : Word) : State :=
  let s := s.updCore core fun k =>
    let k := (consumedQueues l).foldl (fun k q => k.setQueue q (k.queue q).commit) k
    let k := (consumedBranches l).foldl (fun k q => k.setBranch q (k.branch q).commit) k
    let k := (consumedTokens l).foldl (fun k f => k.setTokens f { k.tokens f with base := (k.tokens f).rd }) k
    let k := k.setStr l ((k.str l).newMark live)
    if l == .x then { k with xfp := k.xfp.filter fun e => (k.queue 6).base ≤ e.place } else k
  if l == .x then s.updCluster (clusterOf core) (·.commitFifos core) else s

/-- ENDL (R348): `m` waits for the stream's earlier accesses (R44). -/
def endlBody (i : BitVec 4) (m : Bool) (s : State) : State :=
  let row := s.myCore.loopRow i.toNat
  match loopDepth i s.me.loops with
  | none => s.trap causeIllegal 4
  | some d =>
    if row.kind != 1 || row.mark != m then s.trap causeIllegal 4
    else if m && !s.settled then s.stall .stall
    else
      let t := s.me.popLoops d
      match t.loops with
      | [] => s
      | e :: r =>
        let e' := { e with iter := e.iter + 1, left := e.left - 1 }
        let t' : StreamState :=
          if e'.left > 0 then
            { t with loops := e' :: r, pc := e.start, wait := .none,
                     p := if e.sp then stagePreds t.p e.stages e.n e'.iter else t.p }
          else t.popLoop.done
        let hit (n : Nat) : Bool := i.toNat == n || (hasLevel s.me.loops n && !hasLevel t.loops n)
        let s := s.loopsExit s.fcore s.focusLane (s.me.loops.take d)
        let s := s.updMe fun _ => t'
        let s := if e'.left > 0 then s else s.loopExit s.fcore s.focusLane i
        if m then ((s.commitMark s.fcore s.focusLane row.live).trace s.fcore s.focusLane (laneTag s.focusLane) 2 0 0 0).preciseStop hit
        else s.preciseStop hit

def execEndl (g : Guard) (i : BitVec 4) (m : Bool) (s : State) : Out :=
  .next (s.issue (.endl g i m) 0 (some g) (endlBody i m))

/-! ### XIMM (R286, R405) -/

/-- The pair of an XIMM and its follower `i` at `pc`; the follower's predicate governs it. -/
def ximmPair (x : BitVec 26) (i : Instr) (pc : Pc) (s : State) : State :=
  match i with
  | .addi g d a f => s.issueAt i 0 (some g) pc (addiBody d a (ximm12 x f) pc)
  | .andi g d a f => s.issueAt i 0 (some g) pc (andiBody d a (ximm12 x f) pc)
  | .ori g d a f => s.issueAt i 0 (some g) pc (oriBody d a (ximm12 x f) pc)
  | .xori g d a f => s.issueAt i 0 (some g) pc (xoriBody d a (ximm12 x f) pc)
  | .addai g d a f => s.issueAt i 0 (some g) pc (addaiBody d a (ximm12 x f) pc)
  | .li g d f => s.issueAt i 0 (some g) pc (liBody d (ximm17 x f) pc)
  | .lui g d f => s.issueAt i 0 (some g) pc (luiBody d (ximm17 x f) pc)
  | .kseti g k w f => s.issueAt i 0 (some g) pc (ksetiBody k w (ximm14 x f) pc)
  | .br g l o => s.issueAt i 0 (some g) pc (brBody l (ximm19 x o) pc)
  | .jmp l o => s.issueAt i 0 none pc (brBody l (ximm19 x o) pc)
  | .call g l o => s.issueAt i 0 (some g) pc (callBody l (ximm19 x o) pc)
  | .brx g l o => s.issueAt i 0 none pc (brxBody g l (ximm19 x o) pc)
  | .brq q n l o => s.issueAt i 0 none pc (brqBody q n l (ximm19 x o) pc)
  | _ => s.trap causeIllegal 1

/-- The trap of a word that decodes to nothing: check 5 comes before check 6 (R275). -/
def State.trapDecode (s : State) (e : DecodeErr) : State :=
  match e with
  | .reserved => s.trap causeIllegal 1
  | .field ls => if ls.contains s.focusLane then s.trap causeIllegal 1 else s.trap causeStream 0

/-- Check 3: the follower must exist (subcode 2 otherwise) and accept the XIMM (subcode 1). A stream that goes on in the follower's line
executes its next lanes as the line was read for the follower (R33). -/
def execXimm (x : BitVec 26) (s : State) : Out :=
  .next (s.issue (.ximm x) 0 none fun s =>
    match s.seek s.me.pc with
    | .past => s.trap causeIllegal 2
    | .miss va => (s.noteMiss s.fcore va).stall .stall
    | .fault f => s.trapAccess f .fetch 0 32
    | .lane ln j l =>
      let w := BitVec.ofNat 32 (l.word j)
      if l.reserved != 0 || l.tag j != laneTag s.focusLane then s.trap causeLane 0
      else if !majorAcceptsXimm w then s.trap causeIllegal 1
      else match decodeWord w with
        | .error e => s.trapDecode e
        | .ok i => (ximmPair x i ⟨BitVec.ofNat 64 ln, BitVec.ofNat 3 j, false⟩ s).keepLine ln l)

/-! ### NOP, PAUSE, TIME -/

def execNop (g : Guard) (s : State) : Out := .next (s.issue (.nop g) 0 (some g) (·.advance))

/-- The stream issues nothing for min(`sA`[31:0], 65536) cycles of `tick`; the resume point follows (R363). -/
def execPause (g : Guard) (a : BitVec 5) (s : State) : Out :=
  .next (s.issue (.pause g a) 0 (some g) fun s =>
    let n := min ((s.me.rs a).toNat % 2 ^ 32) 65536
    s.updMe fun t => { t.done with wait := if n == 0 then .none else .pause (s.tick.toNat + n) })

/-- TIME reads `tick` or `beat` when it issues (R385). -/
def execTime (g : Guard) (d : BitVec 5) (b : Bool) (s : State) : Out :=
  .next (s.issue (.time g d b) 0 (some g) fun s => s.writeS d (if b then s.beat else s.tick))

end Sys2Proof.Machine
end

