-- ==== Sys2Proof/Machine/Fetch.lean ====
section
/-! DEFINITION. What a step does around `exec`: time passes (DESIGN CHOICE, log 2), one agent is chosen (DESIGN CHOICE, log 1), and a stream's next
instruction is found, fetched and decoded (R28-R33, R275). -/

namespace Sys2Proof.Machine

/-! ### Time (R7) -/

/-- `n` core cycles pass: `tick` counts them, `beat` counts periods of 300. -/
def State.passCycles (s : State) (n : Nat) : State :=
  { s with tick := s.tick + BitVec.ofNat 64 n, beat := s.beat + BitVec.ofNat 64 ((s.cycle + n) / 300),
           cycle := (s.cycle + n) % 300 }

/-- The cycles of this step. -/
def State.elapse (s : State) : State :=
  { s.passCycles (Config.stepCycles s.steps) with steps := s.steps + 1 }

/-! ### Fetch -/

/-- What the chosen stream does: it executes an instruction at its program counter, or the step is over. -/
inductive Fetched where
  | instr (i : Instr) (s : State)
  | none (s : State)
  deriving DecidableEq, Repr

/-- Before a stream goes on, any of the lines that its buffer holds beside the one it is executing may have given way (R33). Which is a
free choice (DESIGN CHOICE, log 67). -/
def State.shedLines (s : State) : State :=
  match s.me.ibuf with
  | x :: y :: r =>
    let (v, s) := s.draw
    s.updMe fun t => { t with ibuf := x :: ((y :: r).zipIdx.filter fun z => v.testBit z.2).map (·.1) }
  | _ => s

/-- The stream's program counter names a lane (R31): the successor of an executed instruction is found now, and its line is the one that
the stream executes. A stream past the end of the image has executed its last instruction, at which it resumes (R214). -/
def State.locate (s : State) : Except State State :=
  let pc := s.me.pc
  if !pc.after then .ok s
  else match s.seek pc with
    | .lane ln i l => .ok ((s.holdLine ln l).updMe fun t => { t with pc := ⟨BitVec.ofNat 64 ln, BitVec.ofNat 3 i, false⟩ })
    | .past => .error (s.stopCore s.fcore { cause := causeIllegal, sub := 2, src := laneSrc s.focusLane, after := true })
    | .miss va => .error (s.noteMiss s.fcore va)
    | .fault f => .error (s.trapAccess f .fetch 0 32)

/-- The instruction at the program counter of the issuing stream: check 1 of R275, then decoding. A line whose page no TLB holds is
executed after its walk (R100). -/
def State.fetchAt (s : State) : Fetched :=
  let pc := s.me.pc
  let line := pc.line.toNat
  if line % 32 != 0 then .none (s.trap causeLane 0)
  else if (Tab.find s.me.ibuf line).isNone && s.walking (s.who s.fcore) .fetch line then .none (s.noteMiss s.fcore line)
  else match s.lineFor s.fcore s.focusLane line with
    | .error f => .none (s.trapAccess f .fetch 0 32)
    | .ok l =>
      let s := s.holdLine line l
      if l.reserved != 0 || pc.lane == 0 || l.tag pc.lane.toNat != laneTag s.focusLane then .none (s.trap causeLane 0)
      else match decodeWord (BitVec.ofNat 32 (l.word pc.lane.toNat)) with
        | .error e => .none (s.trapDecode e)
        | .ok i => .instr i (s.updMe fun t => { t with moved := true })

/-- A stream goes on: the cycles since it last did so are work unless it waited (R227), and the watchdog sees stream X (R223). -/
def State.chosenNow (s : State) : State :=
  let n := s.tick.toNat
  let s := s.updMe fun t => { t with worked := t.worked + (if t.wait == .none then n - t.since else 0), since := n }
  if s.focusLane == .x then s.updMyCore fun k => { k with xTick := s.fine } else s

/-- A stream is chosen. -/
def State.fetch (s : State) (core : BitVec 8) (l : Lane) : Fetched :=
  if !s.mayIssue core.toNat l then .none s
  else match ({ s with focusCore := core, focusLane := l } : State).chosenNow.shedLines.locate with
    | .error s => .none s
    | .ok s => s.fetchAt

/-! ### Placing an instruction -/

/-- A page of die 0 that is mapped read, write and execute for every level of tenant 0. -/
def placeVa : Nat := 0x10000

/-- A job of tenant 0 at level M whose streams stand at lane 1 of the placed line. -/
def placeJob : Job :=
  { tenant := 0, level := 2, queue := 0, record := 0, inst := 0, image := BitVec.ofNat 64 placeVa, args := 0,
    idx := Vector.replicate 4 0, done := 0, prio := 0, preemptible := false, det := false, hostEntry := false,
    gang := false, gateOpen := true, joined := false, mask := 0, loops := [], placed := 0, start := 0,
    banksDue := [] }

/-- The stream a word is placed for: the first that may execute it, or C. -/
def placeLane (w : BitVec 32) : Lane :=
  match decodeWord w with
  | .ok i => i.streams.headD .c
  | .error (.field ls) => ls.headD .c
  | .error .reserved => .c

/-- A core that has just been given the job. -/
def placeCore : CoreState :=
  let t := { StreamState.reset with pc := ⟨BitVec.ofNat 64 placeVa, 1, false⟩ }
  let t := { t with mark := some (t.markOf 0) }
  { CoreState.reset with job := some placeJob, c := t, a := t, x := t, tlb := [(0, placeVa / 4096)] }

/-- The line's header (tag of lane 1, last line) and lane 1, on a mapped page; the core's job stands there and its
stream is chosen next. -/
def State.placeWord (s : State) (w : BitVec 32) : State :=
  let l := placeLane w
  let line := bytesOf 4 (2 ^ 28 + laneTag l) ++ bytesOf 4 w.toNat
  let maps := (s.tenant 0).maps.filter fun m => !overlaps m.va m.size placeVa 4096
  ({ s with mem := memWrites (memZero s.mem placeVa 32) placeVa line, script := .stream 0 l :: s.script,
            mod := { s.mod with present := s.mod.present ||| 1, halted := false } }.updTenant 0 fun t =>
    { t with maps := ⟨placeVa, placeVa, 4096, true, true, true⟩ :: maps }).setCore 0 placeCore
    |>.updDie 0 fun d => { d with phase := 0 }

end Sys2Proof.Machine
end

