-- ==== Sys2Proof/Machine/FpScalar.lean ====
section
/-! DEFINITION. Scalar floating point, majors 0x10-0x13 (R323-R328). -/

namespace Sys2Proof.Machine

/-- The format of a scalar type code (R324). -/
def scalarFmt (t : BitVec 3) : FFmt :=
  if t == 0 then fF32 else if t == 1 then fF64 else if t == 2 then fBF16 else fF16

/-- The value in the low bits of a scalar (R323). -/
def fpArg (f : FFmt) (x : Word) : Num := f.decode (x.toNat % 2 ^ f.width)

/-- Writes a float result, upper bits zero, and its flags (R323, R324). -/
def State.writeF (s : State) (d : BitVec 5) (r : Nat × Flags) : State :=
  (s.orFlags r.2).writeS d (BitVec.ofNat 64 r.1)

/-- An operation rounded by `fpctl.rm` of the stream (R279). -/
def fpRounded (i : Instr) (g : Guard) (d : BitVec 5) (f : Nat → Nat → StreamState → Nat × Flags) (s : State) : Out :=
  .next (s.issue i 0 (some g) fun s =>
    let ((rm, seed), s) := s.fpEnv
    s.writeF d (f rm (rsBits seed (s.me.ctr d.toNat 0)) s.me))

def execFadd (g : Guard) (d a b : BitVec 5) (t : BitVec 3) (s : State) : Out :=
  let f := scalarFmt t
  fpRounded (.fadd g d a b t) g d (fun rm r m => f.add rm r (fpArg f (m.rs a)) (fpArg f (m.rs b))) s

/-- rnd(a - b): the sum with the sign of b changed, a NaN kept (R324, R68). -/
def execFsub (g : Guard) (d a b : BitVec 5) (t : BitVec 3) (s : State) : Out :=
  let f := scalarFmt t
  fpRounded (.fsub g d a b t) g d (fun rm r m => f.add rm r (fpArg f (m.rs a)) (fpArg f (m.rs b)).neg) s

def execFmul (g : Guard) (d a b : BitVec 5) (t : BitVec 3) (s : State) : Out :=
  let f := scalarFmt t
  fpRounded (.fmul g d a b t) g d (fun rm r m => f.mul rm r (fpArg f (m.rs a)) (fpArg f (m.rs b))) s

def execFmin (g : Guard) (d a b : BitVec 5) (t : BitVec 3) (s : State) : Out :=
  let f := scalarFmt t
  .next (s.issue (.fmin g d a b t) 0 (some g) fun s =>
    s.writeF d (f.minmax false (fpArg f (s.me.rs a)) (fpArg f (s.me.rs b))))

def execFmax (g : Guard) (d a b : BitVec 5) (t : BitVec 3) (s : State) : Out :=
  let f := scalarFmt t
  .next (s.issue (.fmax g d a b t) 0 (some g) fun s =>
    s.writeF d (f.minmax true (fpArg f (s.me.rs a)) (fpArg f (s.me.rs b))))

/-- FCLASS raises no flag (R325). -/
def execFclass (g : Guard) (d a : BitVec 5) (t : BitVec 3) (s : State) : Out :=
  let f := scalarFmt t
  .next (s.issue (.fclass g d a t) 0 (some g) fun s =>
    s.writeS d (BitVec.ofNat 64 (f.classify ((s.me.rs a).toNat % 2 ^ f.width))))

/-- rnd(a * b + d), `d` the old destination (R328). -/
def execFfma (g : Guard) (d a b : BitVec 5) (t : BitVec 3) (s : State) : Out :=
  let f := scalarFmt t
  fpRounded (.ffma g d a b t) g d
    (fun rm r m => f.fma rm r (fpArg f (m.rs a)) (fpArg f (m.rs b)) (fpArg f (m.rs d))) s

def execFcmp (g : Guard) (c : BitVec 2) (u : BitVec 3) (a b : BitVec 5) (t k : BitVec 3) (s : State) : Out :=
  let f := scalarFmt t
  .next (s.issue (.fcmp g c u a b t k) 0 (some g) fun s =>
    let r := fcond k.toNat (fpArg f (s.me.rs a)) (fpArg f (s.me.rs b))
    (s.orFlags r.2).compareTo c u r.1)

/-- Extends a converted pattern to 64 bits: sign extension for s types, zero extension otherwise (R327). -/
def extendType (t x : Nat) : Word :=
  if typeSigned t then BitVec.ofInt 64 (toSigned (8 * typeWidth t) x) else BitVec.ofNat 64 x

def execFcvt (g : Guard) (d a : BitVec 5) (src : BitVec 4) (sat : Bool) (dst : BitVec 4) (r : BitVec 3) (s : State) : Out :=
  .next (s.issue (.fcvt g d a src sat dst r) 0 (some g) fun s =>
    let ((rm, seed), s) := s.fpEnv
    let v := convertType src.toNat dst.toNat (roundMode r.toNat rm) (rsBits seed (s.me.ctr d.toNat 0)) sat
      (s.me.rs a).toNat
    (s.orFlags v.2).writeS d (extendType dst.toNat v.1))

end Sys2Proof.Machine
end

