-- ==== Sys2Proof/Machine/Crypto.lean ====
section
/-! DEFINITION. SHA-512 and the Ed25519 signatures of RFC 8032, without pre-hashing (R2, R255, R258). Byte strings are lists of numbers
below 256. -/

namespace Sys2Proof.Machine

/-! ### SHA-512 -/

/-- Round constants 0 to 19. -/
def shaK0 : List (BitVec 64) :=
  [0x428A2F98D728AE22, 0x7137449123EF65CD, 0xB5C0FBCFEC4D3B2F, 0xE9B5DBA58189DBBC, 0x3956C25BF348B538,
   0x59F111F1B605D019, 0x923F82A4AF194F9B, 0xAB1C5ED5DA6D8118, 0xD807AA98A3030242, 0x12835B0145706FBE,
   0x243185BE4EE4B28C, 0x550C7DC3D5FFB4E2, 0x72BE5D74F27B896F, 0x80DEB1FE3B1696B1, 0x9BDC06A725C71235,
   0xC19BF174CF692694, 0xE49B69C19EF14AD2, 0xEFBE4786384F25E3, 0x0FC19DC68B8CD5B5, 0x240CA1CC77AC9C65]

/-- Round constants 20 to 39. -/
def shaK1 : List (BitVec 64) :=
  [0x2DE92C6F592B0275, 0x4A7484AA6EA6E483, 0x5CB0A9DCBD41FBD4, 0x76F988DA831153B5, 0x983E5152EE66DFAB,
   0xA831C66D2DB43210, 0xB00327C898FB213F, 0xBF597FC7BEEF0EE4, 0xC6E00BF33DA88FC2, 0xD5A79147930AA725,
   0x06CA6351E003826F, 0x142929670A0E6E70, 0x27B70A8546D22FFC, 0x2E1B21385C26C926, 0x4D2C6DFC5AC42AED,
   0x53380D139D95B3DF, 0x650A73548BAF63DE, 0x766A0ABB3C77B2A8, 0x81C2C92E47EDAEE6, 0x92722C851482353B]

/-- Round constants 40 to 59. -/
def shaK2 : List (BitVec 64) :=
  [0xA2BFE8A14CF10364, 0xA81A664BBC423001, 0xC24B8B70D0F89791, 0xC76C51A30654BE30, 0xD192E819D6EF5218,
   0xD69906245565A910, 0xF40E35855771202A, 0x106AA07032BBD1B8, 0x19A4C116B8D2D0C8, 0x1E376C085141AB53,
   0x2748774CDF8EEB99, 0x34B0BCB5E19B48A8, 0x391C0CB3C5C95A63, 0x4ED8AA4AE3418ACB, 0x5B9CCA4F7763E373,
   0x682E6FF3D6B2B8A3, 0x748F82EE5DEFB2FC, 0x78A5636F43172F60, 0x84C87814A1F0AB72, 0x8CC702081A6439EC]

/-- Round constants 60 to 79. -/
def shaK3 : List (BitVec 64) :=
  [0x90BEFFFA23631E28, 0xA4506CEBDE82BDE9, 0xBEF9A3F7B2C67915, 0xC67178F2E372532B, 0xCA273ECEEA26619C,
   0xD186B8C721C0C207, 0xEADA7DD6CDE0EB1E, 0xF57D4F7FEE6ED178, 0x06F067AA72176FBA, 0x0A637DC5A2C898A6,
   0x113F9804BEF90DAE, 0x1B710B35131C471B, 0x28DB77F523047D84, 0x32CAAB7B40C72493, 0x3C9EBE0A15C9BEBC,
   0x431D67C49C100D4C, 0x4CC5D4BECB3E42B6, 0x597F299CFC657E2A, 0x5FCB6FAB3AD6FAEC, 0x6C44198C4A475817]

def shaK : List (BitVec 64) := shaK0 ++ shaK1 ++ shaK2 ++ shaK3

/-- The eight words of a state. -/
structure Sha where
  a : BitVec 64
  b : BitVec 64
  c : BitVec 64
  d : BitVec 64
  e : BitVec 64
  f : BitVec 64
  g : BitVec 64
  h : BitVec 64
  deriving DecidableEq, Repr

def Sha.start : Sha :=
  ⟨0x6A09E667F3BCC908, 0xBB67AE8584CAA73B, 0x3C6EF372FE94F82B, 0xA54FF53A5F1D36F1,
   0x510E527FADE682D1, 0x9B05688C2B3E6C1F, 0x1F83D9ABFB41BD6B, 0x5BE0CD19137E2179⟩

def Sha.add (x y : Sha) : Sha :=
  ⟨x.a + y.a, x.b + y.b, x.c + y.c, x.d + y.d, x.e + y.e, x.f + y.f, x.g + y.g, x.h + y.h⟩

def Sha.words (x : Sha) : List (BitVec 64) := [x.a, x.b, x.c, x.d, x.e, x.f, x.g, x.h]

/-- One round, with a round constant and a word of the message schedule. -/
def Sha.round (x : Sha) (k w : BitVec 64) : Sha :=
  let s1 := x.e.rotateRight 14 ^^^ x.e.rotateRight 18 ^^^ x.e.rotateRight 41
  let ch := (x.e &&& x.f) ^^^ (~~~x.e &&& x.g)
  let t1 := x.h + s1 + ch + k + w
  let s0 := x.a.rotateRight 28 ^^^ x.a.rotateRight 34 ^^^ x.a.rotateRight 39
  let maj := (x.a &&& x.b) ^^^ (x.a &&& x.c) ^^^ (x.b &&& x.c)
  ⟨t1 + (s0 + maj), x.a, x.b, x.c, x.d + t1, x.e, x.f, x.g⟩

/-- The schedule's next word, from the sixteen before it, oldest first. -/
def shaNext (w : List (BitVec 64)) : BitVec 64 :=
  let x := w.getD 1 0
  let y := w.getD 14 0
  (y.rotateRight 19 ^^^ y.rotateRight 61 ^^^ (y >>> 6)) + w.getD 9 0 +
    (x.rotateRight 1 ^^^ x.rotateRight 8 ^^^ (x >>> 7)) + w.getD 0 0

/-- The rounds of a block, over the constants that are left. -/
def shaRounds : List (BitVec 64) → List (BitVec 64) → Sha → Sha
  | [], _, x => x
  | k :: r, w, x => shaRounds r (w.drop 1 ++ [shaNext w]) (x.round k (w.getD 0 0))

/-- A number from bytes, the first the most significant. -/
def bigEndian (b : List Nat) : Nat := b.foldl (fun n x => n * 256 + x) 0

/-- `n` bytes of a number, the most significant first. -/
def bigBytes (n x : Nat) : List Nat := (bytesOf n x).reverse

/-- The blocks of a padded message. -/
def shaBlocks : Nat → List Nat → Sha → Sha
  | 0, _, x => x
  | n + 1, b, x =>
    let w := (List.range 16).map fun i => BitVec.ofNat 64 (bigEndian ((b.drop (8 * i)).take 8))
    shaBlocks n (b.drop 128) (x.add (shaRounds shaK w x))

/-- The message, a one bit, zeros, and the length in bits. -/
def shaPad (b : List Nat) : List Nat :=
  b ++ [0x80] ++ List.replicate ((239 - b.length % 128) % 128) 0 ++ bigBytes 16 (8 * b.length)

/-- The SHA-512 digest of a byte string. -/
def sha512 (b : List Nat) : List Nat :=
  let p := shaPad b
  (shaBlocks (p.length / 128) p Sha.start).words.flatMap fun w => bigBytes 8 w.toNat

/-! ### The curve of Ed25519 (RFC 8032, 5.1) -/

def edP : Nat := 2 ^ 255 - 19
def edL : Nat := 2 ^ 252 + 27742317777372353535851937790883648493

/-- A power in the field, by squaring, for an exponent of at most `n` bits. -/
def edPow (x : Nat) : Nat → Nat → Nat
  | 0, _ => 1
  | n + 1, e =>
    let h := edPow x n (e / 2)
    let q := h * h % edP
    if e % 2 == 1 then q * x % edP else q

def edInv (x : Nat) : Nat := edPow x 256 (edP - 2)
def edNeg (x : Nat) : Nat := (edP - x % edP) % edP
def edSub (x y : Nat) : Nat := (x + edNeg y) % edP

/-- The constant d = -121665 / 121666. -/
def edD : Nat := edNeg 121665 * edInv 121666 % edP

/-- A point in extended coordinates. -/
structure EdPoint where
  x : Nat
  y : Nat
  z : Nat
  t : Nat
  deriving DecidableEq, Repr

def EdPoint.zero : EdPoint := ⟨0, 1, 1, 0⟩

/-- The complete addition. -/
def EdPoint.add (p q : EdPoint) : EdPoint :=
  let a := edSub p.y p.x * edSub q.y q.x % edP
  let b := (p.y + p.x) * (q.y + q.x) % edP
  let c := p.t * 2 * edD * q.t % edP
  let d := p.z * 2 * q.z % edP
  let e := edSub b a
  let f := edSub d c
  let g := (d + c) % edP
  let h := (b + a) % edP
  ⟨e * f % edP, g * h % edP, f * g % edP, e * h % edP⟩

/-- A multiple of a point, for a factor of at most `n` bits. -/
def EdPoint.mul (p : EdPoint) : Nat → Nat → EdPoint
  | 0, _ => EdPoint.zero
  | n + 1, k =>
    let h := p.mul n (k / 2)
    let q := h.add h
    if k % 2 == 1 then q.add p else q

/-- Two points are the same. -/
def EdPoint.same (p q : EdPoint) : Bool :=
  p.x * q.z % edP == q.x * p.z % edP && p.y * q.z % edP == q.y * p.z % edP

/-- The x-coordinate of a point from its y-coordinate and its sign bit, where there is one. -/
def edRecover (y sign : Nat) : Option Nat :=
  let u := edSub (y * y % edP) 1
  let v := (edD * y % edP * y + 1) % edP
  let v3 := v * v % edP * v % edP
  let r := u * v3 % edP * edPow (u * v3 % edP * v3 % edP * v % edP) 256 ((edP - 5) / 8) % edP
  let c := v * r % edP * r % edP
  let root := if c == u then some r else if c == edNeg u then some (r * edPow 2 256 ((edP - 1) / 4) % edP) else none
  root.bind fun x => if x == 0 && sign == 1 then none else some (if x % 2 == sign then x else edNeg x)

def EdPoint.decode (b : List Nat) : Option EdPoint :=
  let n := ofBytes b
  let y := n % 2 ^ 255
  if edP ≤ y then none else (edRecover y (n / 2 ^ 255 % 2)).map fun x => ⟨x, y, 1, x * y % edP⟩

def EdPoint.bytes (p : EdPoint) : List Nat :=
  let i := edInv p.z
  bytesOf 32 (p.y * i % edP + 2 ^ 255 * (p.x * i % edP % 2))

/-- The base point: y = 4 / 5, with an even x. -/
def edBase : EdPoint :=
  let y := 4 * edInv 5 % edP
  let x := (edRecover y 0).getD 0
  ⟨x, y, 1, x * y % edP⟩

/-! ### Keys and signatures (RFC 8032, 5.1.5-5.1.7) -/

/-- The secret scalar of a private key. -/
def edScalar (key : List Nat) : Nat := ofBytes ((sha512 key).take 32) % 2 ^ 254 / 8 * 8 + 2 ^ 254

def edPublic (key : List Nat) : List Nat := (edBase.mul 256 (edScalar key)).bytes

def edChallenge (r pub msg : List Nat) : Nat := ofBytes (sha512 (r ++ pub ++ msg)) % edL

/-- The signature of a message by a private key of 32 bytes. -/
def edSign (key msg : List Nat) : List Nat :=
  let n := ofBytes (sha512 ((sha512 key).drop 32 ++ msg)) % edL
  let r := (edBase.mul 256 n).bytes
  r ++ bytesOf 32 ((n + edChallenge r (edPublic key) msg * edScalar key) % edL)

/-- The public identity key (R258). -/
def identityPublic : List Nat := edPublic (bytesOf 32 Config.identitySecret.toNat)

/-- A signature of a message is valid under a public key: [8][S]B = [8]R + [8][k]A. -/
def edVerify (pub msg sig : List Nat) : Bool :=
  let s := ofBytes (sig.drop 32)
  match EdPoint.decode pub, EdPoint.decode (sig.take 32) with
  | some a, some r =>
    decide (s < edL) && sig.length == 64 &&
      ((edBase.mul 256 s).mul 4 8).same ((r.add (a.mul 256 (edChallenge (sig.take 32) pub msg))).mul 4 8)
  | _, _ => false

end Sys2Proof.Machine
end

