-- ==== Sys2Proof/Machine/Tahr.lean ====
section
/-! DEFINITION. The Tahr store: handles and objects (R177-R179), posts (R180), the wait-for table with priorities and
the cycle search (R191-R195), and what ends a wait on an object. -/

namespace Sys2Proof.Machine

/-! ### Handles and objects -/

def hDie (h : BitVec 32) : Nat := bitsOf h.toNat 30 2
def hSlot (h : BitVec 32) : Nat := bitsOf h.toNat 8 22
def hChk (h : BitVec 32) : BitVec 8 := h.setWidth 8

/-- The handle of a slot (R177). -/
def mkHandle (die slot : Nat) (gen : BitVec 8) : BitVec 32 := BitVec.ofNat 32 (die * 2 ^ 30 + slot * 2 ^ 8 + gen.toNat)

/-- Type codes of `objctl` (R178). -/
def Obj.type : Obj → Nat
  | .counter _ => 0
  | .barrier .. => 1
  | .lock .. => 2
  | .wait => 3

def State.slot (s : State) (h : BitVec 32) : Slot := (s.die (hDie h)).tahr.at (hSlot h) Slot.reset
def State.updSlot (s : State) (h : BitVec 32) (f : Slot → Slot) : State :=
  s.updDie (hDie h) fun d => { d with tahr := d.tahr.upd (hSlot h) Slot.reset f }
def State.setObj (s : State) (h : BitVec 32) (o : Obj) : State := s.updSlot h fun x => { x with obj := some o }

/-- The checks of R177 and R179 on an operation: the object, or the cause of the fault. The checks of the handle come
before that for poison. -/
def State.object (s : State) (tenant level : Nat) (h : BitVec 32) (types : List Nat) : Except Nat Obj :=
  let x := s.slot h
  match x.obj with
  | none => .error causeBadHandle
  | some o =>
    if !s.present (hDie h) || x.gen != hChk h || (x.tenant.toNat != tenant && level != 2) || !types.contains o.type then
      .error causeBadHandle
    else if x.poisoned || x.bad == 3 || x.differ then .error causePoisoned
    else .ok o

/-- An access reads both copies of an object: a bad copy is rewritten from the other one, and an object with no copy to trust is
poisoned, which level M is told (R179, R211). The event carries the handle in `aux0`, to which R213 gives no meaning for an event
(DESIGN CHOICE, log 54). -/
def State.readCopies (s : State) (h : BitVec 32) : State :=
  let x := s.slot h
  if x.obj.isNone || x.poisoned || (x.bad == 0 && !x.differ) then s
  else if x.bad == 3 || x.differ then
    (s.updSlot h fun x => { x with poisoned := true, bad := 0, differ := false }).event 0
      { s.eventFrame 0x51 0 0 x.tenant.toNat with aux0 := h.toNat }
  else s.updSlot h fun x => { x with bad := 0 }

def State.readObjects (s : State) (hs : List (BitVec 32 × Nat)) : State := hs.foldl (fun s p => s.readCopies p.1) s

/-- The die of an object is up, and no way leads there from a die: the operation finds its home offline (R17). -/
def State.cutOffFrom (s : State) (from_ : Nat) (h : BitVec 32) : Bool := s.dieUp (hDie h) && !s.reaches from_ (hDie h)

/-- An operation of the issuing stream on an object: it waits while the object's die is under warm reset (R179) and faults where no way
leads there (R17) or the checks fail; `body` goes on from the state after the access. -/
def State.withObject (s : State) (h : BitVec 32) (types : List Nat) (body : Obj → State → State) : State :=
  if s.present (hDie h) && !s.dieUp (hDie h) then s.stall (.tahrHeld (hDie h))
  else if s.cutOffFrom (dieOf s.fcore) h then s.trap causeHomeOffline 0
  else
    let s := s.readCopies h
    match s.object (s.tenantOf s.fcore) (s.levelOf s.fcore) h types with
    | .error c => s.trap c 0
    | .ok o => body o s

/-- The handle an instruction names in `sA`[31:0] (R182). -/
def State.handleIn (s : State) (a : BitVec 5) : BitVec 32 := (s.me.rs a).setWidth 32

/-! ### Edges (R191-R193) -/

def edgeLimit : Nat := 4096

def State.edges (s : State) : List Edge := s.dies.flatMap fun d => d.2.edges

/-- Numbers of the streams of a saved job, until it is restored (DESIGN CHOICE, log 19). -/
def savedStream (id : Nat) (l : Lane) : Nat := 1024 + 4 * id + laneTag l

/-- The streams that can end a wait on the object of an edge (R192); a barrier's participant may be a job saved from its core. -/
def State.holders (s : State) (e : Edge) : List Nat :=
  if e.granule then [] else
  let x := s.slot (BitVec.ofNat 32 e.obj)
  match x.obj with
  | some (.lock (some w) _ _) => [w]
  | some (.barrier _ mask _ arrived _ _) =>
    let cs := (List.range 256).filter fun c => mask.getLsbD c && !arrived.getLsbD c
    cs.map (streamId · .c) ++ (s.mod.saved.filter fun x => cs.contains x.core.toNat).map fun x => savedStream x.id .c
  | some (.counter _) | some .wait => x.holders
  | _ => []

/-- The cycle that an edge closes for a waiter, at most as many edges as the fuel (R194). -/
def State.cycleFrom (s : State) (w : Nat) : Nat → Edge → Option (List Edge)
  | 0, _ => none
  | f + 1, e =>
    let hs := s.holders e
    if hs.contains w then some [e]
    else (s.edges.filter fun x => hs.contains x.waiter).findSome? fun x => (s.cycleFrom w f x).map (e :: ·)

/-- The launch priority of the job of a stream. -/
def State.jobPrio (s : State) (w : Nat) : Nat :=
  if w < 1024 then ((s.core (w / 4)).job.map (·.prio)).getD 0
  else ((s.mod.saved.find? fun x => x.id == (w - 1024) / 4).bind fun x => x.ctx.job.map (·.prio)).getD 0

/-- Priority of a record (R102). -/
def Rec.prio (r : Rec) : Nat := vecBits (r.seg.getD r.bytes) 88 8

/-- Effective priority (R193), following as many edges as the fuel. -/
def State.effPrio (s : State) : Nat → Nat → Nat
  | 0, w => s.jobPrio w
  | f + 1, w =>
    (s.edges.filter fun e => (s.holders e).contains w).foldl (init := s.jobPrio w) fun p e =>
      max p (match e.cmd with
        | some (r, n) => (((s.core (e.waiter / 4)).ring r).recAt n).elim 0 Rec.prio
        | none => s.effPrio f e.waiter)

def State.prioOf (s : State) (w : Nat) : Nat := s.effPrio 8 w

/-- The priority of the waiter of an edge (R193). -/
def State.waiterPrio (s : State) (e : Edge) : Nat :=
  match e.cmd with
  | some (r, n) => (((s.core (e.waiter / 4)).ring r).recAt n).elim 0 Rec.prio
  | none => s.effPrio 7 e.waiter

/-- The boost of a core: the greatest priority of those that wait on what its streams hold (R193). -/
def State.boost (s : State) (core : Nat) : Nat :=
  (s.edges.filter fun e => (s.holders e).any fun w => w / 4 == core).foldl (fun p e => max p (s.waiterPrio e)) 0

/-- What inserting an edge does (R191, R194, R195). -/
inductive Insert where
  | registered (s : State)
  | full (s : State)
  | cycle (es : List Edge)
  deriving DecidableEq, Repr

/-- A new edge in the table of the waiter's die; one that stands already is kept. -/
def State.insertEdge (s : State) (e : Edge) : Insert :=
  let d := dieOf (e.waiter / 4)
  if (s.die d).edges.contains e then .registered s
  else if edgeLimit ≤ (s.die d).edges.length then
    .full (s.updDie d fun x => { x with wfovf := min (x.wfovf + 1) 0xFFFFFFFF })
  else
    let s' := s.updDie d fun x => { x with edges := x.edges ++ [e] }
    match s'.cycleFrom e.waiter 8 e with
    | some es => .cycle es
    | none => .registered s'

def causeDeadlock := 0x08

/-- The pairs of a deadlock record (R194). -/
def deadlockPairs (es : List Edge) : List (Nat × Nat) := es.map fun e => (e.waiter, if e.granule then 0 else e.obj)
def deadlockBits (es : List Edge) : Nat :=
  (es.zipIdx.map fun (e, i) => if e.cmd.isSome then 2 ^ i else 0).foldl (· + ·) 0

/-- The deadlock trap of the issuing stream. -/
def State.trapDeadlock (s : State) (es : List Edge) : State :=
  s.stopCore s.fcore
    { cause := causeDeadlock, src := laneSrc s.focusLane, cmdw := deadlockBits es, dlock := deadlockPairs es }

def State.mySid (s : State) : Nat := streamId s.fcore s.focusLane
def myEdge (s : State) (h : BitVec 32) : Edge := ⟨s.mySid, false, h.toNat, none⟩

/-- First re-check interval of an unregistered wait (R195). -/
def firstGap : Nat := 64

/-- Parks the issuing stream on a handle; `w` makes the wait, registered or not. -/
def State.park (s : State) (h : BitVec 32) (w : Bool → Nat → Nat → Wait) (parked : State → State) : State :=
  match s.insertEdge (myEdge s h) with
  | .registered s => (parked s).updMe fun t => { t with wait := w true 0 0 }
  | .full s => s.updMe fun t => { t with wait := w false firstGap (s.tick.toNat + firstGap) }
  | .cycle es => s.trapDeadlock es

/-- A stream goes on after a wait: what X waited is no lack of progress (R223). -/
def State.goesOn (s : State) (core : Nat) (l : Lane) : State :=
  if l == .x then s.updCore core fun k => { k with xTick := s.fine } else s

/-- A stream's wait ends: it writes `d` and goes on, and its edge goes (R191). -/
def State.wake (s : State) (core : Nat) (l : Lane) (h : BitVec 32) (f : StreamState → StreamState) : State :=
  ((s.updStr core l fun t => (f t).done).goesOn core l).dropEdges fun e =>
    e.waiter == streamId core l && !e.granule && e.obj == h.toNat && e.cmd.isNone

/-- The streams of the module that are parked. -/
def State.parkedStreams (s : State) : List (Nat × Lane × Wait) :=
  s.cores.flatMap fun (c, k) => [(c, Lane.c, k.c.wait), (c, Lane.a, k.a.wait), (c, Lane.x, k.x.wait)]

/-! ### Pending launches (R181, R196-R198) -/

def TenantState.lq (x : TenantState) (q : Nat) : LaunchQueue := x.lqs.at q LaunchQueue.reset
def State.updLq (s : State) (t q : Nat) (f : LaunchQueue → LaunchQueue) : State :=
  s.updTenant t fun x => { x with lqs := x.lqs.upd q LaunchQueue.reset f }

def Progress.reset : Progress := ⟨[], 0, none, false, 0, [], 0, 0, none, false, false, none, none⟩
def LaunchQueue.at (l : LaunchQueue) (n : Nat) : Progress := Tab.at l.progress n Progress.reset
def State.progress (s : State) (t q n : Nat) : Progress := ((s.tenant t).lq q).at n
def State.updProgress (s : State) (t q n : Nat) (f : Progress → Progress) : State :=
  s.updLq t q fun l => { l with progress := l.progress.upd n Progress.reset f }

/-- The records of a queue that are presented and not taken, oldest first. -/
def LaunchQueue.waiting (l : LaunchQueue) : List Nat :=
  if !cfgEn l.cfg then [] else
  ((List.range ((l.tail + 2 ^ 32 - l.head) % 2 ^ 32)).map fun i => (l.head + i) % 2 ^ 32).filter fun n => !(l.at n).taken

/-- The records a queue offers to the schedulers: its 16 oldest presented and not taken (R197). -/
def LaunchQueue.considered (l : LaunchQueue) : List Nat := l.waiting.take 16

/-- The bytes of a launch record: those read when it was launched or failed, else those in its slot. -/
def State.launchBytes (s : State) (t q n : Nat) : Except AccFault (List Nat) :=
  match (s.progress t q n).bytes with
  | some b => .ok b
  | none => s.readVa (s.hwWho t) (cfgSlot ((s.tenant t).lq q).cfg 64 n) 64

def lrCtl (b : List Nat) : Nat := b.getD 60 0
def lrGang (b : List Nat) : Bool := (lrCtl b).testBit 6
def lrPrio (b : List Nat) : Nat := lrCtl b % 8

/-- The used readiness pairs (R181, R198). -/
def lrPairs (b : List Nat) : List (BitVec 32 × Nat) :=
  ((List.range (if lrGang b then 2 else 4)).map fun i =>
    (BitVec.ofNat 32 (fieldOf b (24 + 8 * i) 4), fieldOf b (28 + 8 * i) 4)).filter fun p => p.1 != 0

/-- R109. -/
def waitSatisfied (v thr : Nat) : Bool := (v % 2 ^ 32 + 2 ^ 32 - thr) % 2 ^ 32 < 2 ^ 31

/-- Level of the jobs of a launch queue (R209). -/
def State.launchLevel (s : State) (t q : Nat) : Nat :=
  if t == 0 then 2 else if (s.tenant t).sqmask.getLsbD q then 1 else 0

/-- What the readiness pairs of a record say: a bad handle, or whether all are satisfied. A pair on a die under warm reset is
held (R179). A pair on a poisoned counter counts as a bad handle (DESIGN CHOICE, log 28). -/
def State.pairsReady (s : State) (t level : Nat) : List (BitVec 32 × Nat) → Option Bool
  | [] => some true
  | (h, thr) :: r =>
    if s.present (hDie h) && !s.dieUp (hDie h) then (s.pairsReady t level r).map fun _ => false
    else match s.object t level h [0] with
      | .ok (.counter v) => (s.pairsReady t level r).map fun b => b && waitSatisfied v thr
      | _ => none

/-- The store tells the schedulers that records have become ready (R181, R200). -/
def State.noteReady (s : State) : State :=
  s.tenants.foldl (init := s) fun s (t, x) =>
    x.lqs.foldl (init := s) fun s (q, l) =>
      l.waiting.foldl (init := s) fun s n =>
        if (l.at n).since.isSome then s
        else match s.launchBytes t q n with
          | .error _ => s
          | .ok b => if s.pairsReady t (s.launchLevel t q) (lrPairs b) == some true then
              s.updProgress t q n fun p => { p with since := some s.beat.toNat } else s

/-! ### Counters (R180) -/

/-- Registered waits that the value satisfies end. -/
def State.wakeCounter (s : State) (h : BitVec 32) (v : Nat) : State :=
  s.parkedStreams.foldl (init := s) fun s (c, l, w) =>
    match w with
    | .counter d h' thr true _ _ =>
      if h' == h && thr.toNat ≤ v then s.wake c l h fun t => t.ws d (BitVec.ofNat 64 v) else s
    | _ => s

/-- A post performs at the store (R180); a refused post of a stream goes back to its core. -/
def State.performPost (s : State) (p : Post) : State :=
  let s := s.readCopies p.handle
  match s.object p.tenant.toNat p.level.toNat p.handle [0] with
  | .ok (.counter v) =>
    let v' := min (v + p.inc) (2 ^ 64 - 1)
    ((s.setObj p.handle (.counter v')).wakeCounter p.handle v').noteReady
  | .ok _ => s
  | .error c =>
    match p.core with
    | some k => s.updDie (dieOf k.toNat) fun d => { d with refusals := d.refusals ++ [{ p with cause := c }] }
    | none => s

/-- A post leaves for its store; the posting die keeps one for a die under warm reset (R179), and one that no way leads to until there
is a way (DESIGN CHOICE, log 79). -/
def State.sendPost (s : State) (from_ : Nat) (p : Post) : State :=
  let h := hDie p.handle
  if !s.present h then s.performPost p
  else if !s.reaches from_ h then s.updDie from_ fun d => { d with held := d.held ++ [p] }
  else s.updDie h fun d => { d with posts := d.posts ++ [p] }

/-- A post of the hardware performs in the act that makes it, unless it is held; the null handle posts nothing. -/
def State.hwPost (s : State) (from_ tenant level : Nat) (h : BitVec 32) (n : Nat) : State :=
  if h == 0 then s else
  let p : Post := ⟨none, 0, (0, 0, 0), BitVec.ofNat 6 tenant, BitVec.ofNat 2 level, h, n, 0⟩
  if s.present (hDie h) && !s.reaches from_ (hDie h) then s.sendPost from_ p else s.performPost p

/-- The stream's outstanding posts to a handle perform before its next operation on it (R376). -/
def State.flushPosts (s : State) (core : Nat) (l : Lane) (h : BitVec 32) : State :=
  let d := hDie h
  let mine (p : Post) : Bool := s.ofStream core l p && p.handle == h
  ((s.die d).posts.filter mine).foldl (init := s.updDie d fun x => { x with posts := x.posts.filter fun p => !mine p })
    State.performPost

/-! ### Locks (R190) -/

/-- The first waiter of the greatest effective priority among those whose edge stands, suspended ones with them. -/
def State.bestWaiter (s : State) (h : BitVec 32) (ws : List Nat) : Option Nat :=
  ((ws.filter fun w => s.edges.contains ⟨w, false, h.toNat, none⟩).foldl (init := (none : Option (Nat × Nat))) fun best w =>
    let p := s.prioOf w
    match best with
    | some (_, q) => if q < p then some (w, p) else best
    | none => some (w, p)).map Prod.fst

/-- A waiter has been granted a lock: a parked LOCK returns, and one that pre-emption has abandoned finds the grant when it is executed
again (R203). -/
def State.giveLock (s : State) (h : BitVec 32) (aband : Bool) (w : Nat) : State :=
  let note (t : StreamState) : StreamState := { t with granted := some (h, aband) }
  if 1024 ≤ w then
    s.updMod fun m => { m with saved := m.saved.map fun x =>
      if x.id == (w - 1024) / 4 then
        { x with ctx := match streamOfId w with
          | some (_, l) => x.ctx.setStr l (note (x.ctx.str l))
          | none => x.ctx } else x }
  else match streamOfId w with
    | none => s
    | some (c, l) =>
      match (s.str c l).wait with
      | .lock d _ .. => s.wake c l h fun t => t.ws d (resultWord false false aband false 0)
      | _ => s.updStr c l note

/-- Frees a lock, or grants it to the next waiter; `aband` says that the holder ended while holding it. -/
def State.passLock (s : State) (h : BitVec 32) (aband : Bool) (ws : List Nat) : State :=
  match s.bestWaiter h ws with
  | none => s.setObj h (.lock none aband ws)
  | some w =>
    ((s.setObj h (.lock (some w) false (ws.filter (· != w)))).giveLock h aband w).dropEdges fun e =>
      e == ⟨w, false, h.toNat, none⟩

/-! ### Barriers (R188, R189) -/

def popc256 (m : BitVec 256) : Nat := ((List.range 256).filter m.getLsbD).length
def bit256 (c : Nat) : BitVec 256 := BitVec.ofNat 256 (2 ^ c)

/-- E exceeds what has arrived and what can still arrive (R189). -/
def barrierBroken (expect : Nat) (mask arrived : BitVec 256) : Bool :=
  popc256 arrived + popc256 (mask &&& ~~~arrived) < expect

/-- A barrier wait ends with a predicate and a result word. A BARAW's arrival counts now (R299). -/
def State.wakeBarrier (s : State) (core : Nat) (l : Lane) (h : BitVec 32) (d : BitVec 5) (p : BitVec 3) (arr ok : Bool)
    (w : Word) : State :=
  s.wake core l h fun t =>
    let t := if arr then t.addPush chOther 1 else t
    (t.wp p ok).ws d w

/-- Registered waits on a barrier end, those of one phase when `phase` is given. -/
def State.wakeBarriers (s : State) (h : BitVec 32) (broken : Bool) (phase : Option Nat) : State :=
  s.parkedStreams.foldl (init := s) fun s (c, l, w) =>
    match w with
    | .barrier d p h' ph arr true _ _ =>
      if h' == h && phase.all (· == ph) then
        s.wakeBarrier c l h d p arr (!broken) (resultWord broken false false false (if broken then 0 else ph))
      else s
    | _ => s

/-- A phase increments from 0 to 0xFFFE and wraps (R188). -/
def nextPhase (p : Nat) : Nat := (p + 1) % 0xFFFF

/-- An arrival of a core: the new state and the result word (R188). A phase that completes may leave a barrier that no further phase can
(R189). -/
def State.arrive (s : State) (h : BitVec 32) (core : Nat) (o : Obj) : State × Word :=
  match o with
  | .barrier e m ph ar br last =>
    if br then (s, resultWord true false false false 0)
    else if !m.getLsbD core || ar.getLsbD core then (s, resultWord false false false false 0xFFFF)
    else
      let ar' := ar ||| bit256 core
      let last' := last.put core ph
      if popc256 ar' = e then
        ((s.setObj h (.barrier e m (nextPhase ph) 0 (barrierBroken e m 0) last')).wakeBarriers h false (some ph),
          resultWord false false false false ph)
      else (s.setObj h (.barrier e m ph ar' false last'), resultWord false false false false ph)
  | _ => (s, 0)

/-- What a barrier wait of a core finds: the predicate and result word, or none while it must wait, with the phase it
waits for. -/
def barrierState (o : Obj) (core : Nat) : Option (Bool × Nat × Bool) × Nat :=
  match o with
  | .barrier _ _ ph ar br last =>
    if br then (some (false, 0, true), 0)
    else match last.find core with
      | none => (some (false, 0xFFFF, false), 0)
      | some p =>
        let moved := 65536 ≤ p
        if ar.getLsbD core || (moved && p - 65536 == ph && ar != 0) then (none, ph) else (some (true, p % 65536, false), p % 65536)
  | _ => (none, 0)

/-- A core leaves every barrier's mask (R189). -/
def State.leaveBarriers (s : State) (core : Nat) : State :=
  s.dies.foldl (init := s) fun s (d, x) =>
    x.tahr.foldl (init := s) fun s (n, sl) =>
      match sl.obj with
      | some (.barrier e m ph ar br last) =>
        if m.getLsbD core then
          let h := mkHandle d n sl.gen
          let m' := m &&& ~~~(bit256 core)
          let br' := br || barrierBroken e m' ar
          let s := s.setObj h (.barrier e m' ph ar br' last)
          if br' && !br then s.wakeBarriers h true none else s
        else s
      | _ => s

/-- The locks a stream holds are abandoned, and passed on (R190). -/
def State.abandonLocks (s : State) (w : Nat) : State :=
  s.dies.foldl (init := s) fun s (d, x) =>
    x.tahr.foldl (init := s) fun s (n, sl) =>
      match sl.obj with
      | some (.lock (some v) _ ws) =>
        if v == w then s.passLock (mkHandle d n sl.gen) true (ws.filter (· != w)) else s
      | some (.lock none a ws) =>
        if ws.contains w then s.setObj (mkHandle d n sl.gen) (.lock none a (ws.filter (· != w))) else s
      | _ => s

/-- A stream is no longer a waiter or a declared holder of any object (R191, R192). -/
def State.forgetStream (s : State) (w : Nat) : State :=
  { s with dies := s.dies.map fun (i, d) =>
      (i, { d with
            edges := d.edges.filter fun e => e.waiter != w
            tahr := d.tahr.map fun (n, x) =>
              (n, { x with
                    holders := x.holders.filter (· != w)
                    obj := match x.obj with
                      | some (.lock h a ws) => some (.lock h a (ws.filter (· != w)))
                      | o => o }) }) }

/-- What the end of a job on a core does to the objects: locks are abandoned, barriers lose the core, edges and
declarations go, and the watch is disarmed (R187, R189-R192). -/
def State.endObjects (s : State) (core : Nat) : State :=
  let s := [Lane.c, .a, .x].foldl (fun s l => (s.abandonLocks (streamId core l)).forgetStream (streamId core l)) s
  let s := s.leaveBarriers core
  (s.updCore core fun k => { k with watch := none }).updDie (dieOf core) fun d =>
    { d with watches := d.watches.filter (·.toNat != core) }

/-- Objects and edges name one stream by another number: a job leaves its core or comes back to one (DESIGN CHOICE, log 19). -/
def State.renameStream (s : State) (a b : Nat) : State :=
  let f (w : Nat) : Nat := if w == a then b else w
  { s with dies := s.dies.map fun (i, d) =>
      (i, { d with
            edges := d.edges.map fun e => { e with waiter := f e.waiter }
            tahr := d.tahr.map fun (n, x) =>
              (n, { x with
                    holders := x.holders.map f
                    obj := match x.obj with
                      | some (.lock h a ws) => some (.lock (h.map f) a (ws.map f))
                      | o => o }) }) }

/-- The last arrivals that a job has made go with it when it leaves its core or comes to one: `a` and `b` are cores, or 256 and above for
saved jobs (R299, DESIGN CHOICE, log 19). -/
def State.moveArrivals (s : State) (a b : Nat) : State :=
  { s with dies := s.dies.map fun (i, d) =>
      (i, { d with tahr := d.tahr.map fun (n, x) =>
              (n, { x with obj := match x.obj with
                      | some (.barrier e m ph ar br last) =>
                        some (.barrier e m ph ar br (match last.find a with
                          | some p => (if 256 ≤ a then last.del a else last).put b (p % 65536 + 65536)
                          | none => last))
                      | o => o }) }) }

end Sys2Proof.Machine
end

