-- ==== Sys2Proof/Machine/Sync.lean ====
section
/-! DEFINITION. Counters, locks, barriers, wait objects, watches and fences (majors 0x38, 0x3A, 0x3B), IDLE, and the
events of the Tahr store (R168, R169, R178-R195, R299, R335, R346, R353, R376, R387, R404). -/

namespace Sys2Proof.Machine

/-! ### Counters (R180, R376) -/

/-- The post of the issuing stream. -/
def State.myPost (s : State) (h : BitVec 32) (n : Nat) : Post :=
  ⟨some s.focusCore, laneTag s.focusLane, (s.myCore.job.map Job.name).getD (0, 0, 0), BitVec.ofNat 6 (s.tenantOf s.fcore),
    BitVec.ofNat 2 (s.levelOf s.fcore), h, n, 0⟩

/-- SCPOST is a release: it leaves once the stream's earlier accesses have performed; it waits for no answer. Where no way leads to the
store it faults and posts nothing, so that a resumed stream posts (R17). -/
def execScpost (g : Guard) (a b : BitVec 5) (s : State) : Out :=
  .next (s.issue (.scpost g a b) 0 (some g) fun s =>
    if !s.performed s.fcore s.focusLane then s.stall .stall
    else if s.cutOffFrom (dieOf s.fcore) (s.handleIn a) then s.trap causeHomeOffline 0
    else (s.sendPost (dieOf s.fcore) (s.myPost (s.handleIn a) (s.me.rs b).toNat)).advance)

def execScread (g : Guard) (d a : BitVec 5) (s : State) : Out :=
  .next (s.issue (.scread g d a) 0 (some g) fun s =>
    let h := s.handleIn a
    let s := s.flushPosts s.fcore s.focusLane h
    s.withObject h [0] fun o s =>
      match o with
      | .counter v => s.writeS d (BitVec.ofNat 64 v)
      | _ => s)

/-- Bit 0 of `wstat` (R183). -/
def State.setWstat (s : State) (core : Nat) (l : Lane) (b : Bool) : State :=
  s.updStr core l fun t => { t with wstat := b }

/-- Parks an SCWAIT, with `wstat` saying whether it is unregistered (R183, R195). -/
def scwaitBody (d a b : BitVec 5) (s : State) : State :=
  let h := s.handleIn a
  let thr := s.me.rs b
  let s := s.flushPosts s.fcore s.focusLane h
  s.withObject h [0] fun o s =>
    match o with
    | .counter v =>
      if thr.toNat ≤ v then
        ((s.writeS d (BitVec.ofNat 64 v)).setWstat s.fcore s.focusLane false).dropEdges (· == myEdge s h)
      else
        let s' := s.park h (fun r gap due => .counter d h thr r gap due) id
        match s'.me.wait with
        | .counter _ _ _ r _ _ => s'.setWstat s.fcore s.focusLane (!r)
        | _ => s'
    | _ => s

def execScwait (g : Guard) (d a b : BitVec 5) (s : State) : Out :=
  .next (s.issue (.scwait g d a b) 0 (some g) (scwaitBody d a b))

/-! ### Locks (R190, R346, R387) -/

/-- LOCK; one that pre-emption has abandoned may find that it was granted the lock meanwhile (R203). -/
def lockBody (d a : BitVec 5) (s : State) : State :=
  let h := s.handleIn a
  s.withObject h [2] fun o s =>
    match s.me.granted with
    | some (h', ab) =>
      if h' == h then s.updMe fun t => ({ t with granted := none }.ws d (resultWord false false ab false 0)).done
      else s.updMe fun t => { t with granted := none }
    | none =>
    match o with
    | .lock none ab ws =>
      let s' := s.setObj h (.lock (some s.mySid) false (ws.filter (· != s.mySid)))
      (s'.writeS d (resultWord false false ab false 0)).dropEdges (· == myEdge s h)
    | .lock (some w) ab ws =>
      s.park h (fun r gap due => .lock d h r gap due) fun s' =>
        if ws.contains s.mySid then s' else s'.setObj h (.lock (some w) ab (ws ++ [s.mySid]))
    | _ => s

def execLock (g : Guard) (d a : BitVec 5) (s : State) : Out :=
  .next (s.issue (.lock g d a) 0 (some g) (lockBody d a))

def execUnlock (g : Guard) (d a : BitVec 5) (s : State) : Out :=
  .next (s.issue (.unlock g d a) 0 (some g) fun s =>
    let h := s.handleIn a
    s.withObject h [2] fun o s =>
      match o with
      | .lock w _ ws =>
        if w == some s.mySid then (s.passLock h false ws).writeS d 0
        else s.writeS d (resultWord false false false true 0)
      | _ => s)

/-! ### Barriers (R188, R299) -/

/-- The arrival of an instruction, or the one it made before (R299): state and result word, not counted yet. -/
def State.arriveOnce (s : State) (h : BitVec 32) (o : Obj) : State × Word :=
  match s.repeated with
  | some w => (s, w)
  | none =>
    let (s, w) := s.arrive h s.fcore o
    (s.updMyCore fun k => { k with log := k.log ++ [w] }, w)

def execBara (g : Guard) (d a : BitVec 5) (s : State) : Out :=
  .next (s.issue (.bara g d a) 0 (some g) fun s =>
    let h := s.handleIn a
    s.withObject h [1] fun o s =>
      let (s, w) := s.arriveOnce h o
      s.countOther.writeS d w)

/-- The wait of BARW and BARAW; `arr` says that an arrival is to be counted at the end. -/
def barwBody (d : BitVec 5) (h : BitVec 32) (p : BitVec 3) (arr : Bool) (s : State) : State :=
  s.withObject h [1] fun o s =>
    match barrierState o s.fcore with
    | (some (ok, ph, br), _) =>
      s.wakeBarrier s.fcore s.focusLane h d p arr ok (resultWord br false false false ph)
    | (none, ph) => s.park h (fun r gap due => .barrier d p h ph arr r gap due) id

def execBarw (g : Guard) (d a : BitVec 5) (p : BitVec 3) (s : State) : Out :=
  .next (s.issue (.barw g d a p) 0 (some g) fun s => barwBody d (s.handleIn a) p false s)

/-- The arrival of a core completes the phase of a barrier (R188). -/
def Obj.completedBy (o : Obj) (core : Nat) : Bool :=
  match o with
  | .barrier e m _ ar false _ => m.getLsbD core && !ar.getLsbD core && popc256 (ar ||| bit256 core) == e
  | _ => false

/-- A refused arrival returns at once with a false predicate (R299); one that completes the phase is a waiter of it, and wakes with it,
though the barrier may then be broken (R188, R189). -/
def execBaraw (g : Guard) (d a : BitVec 5) (p : BitVec 3) (s : State) : Out :=
  .next (s.issue (.baraw g d a p) 0 (some g) fun s =>
    let h := s.handleIn a
    s.withObject h [1] fun o s =>
      let last := s.repeated.isNone && o.completedBy s.fcore
      let (s, w) := s.arriveOnce h o
      if bitsOf w.toNat 0 16 == 0xFFFF then s.countOther.updMe fun t => ((t.wp p false).ws d w).done
      else if last then s.wakeBarrier s.fcore s.focusLane h d p true true w
      else barwBody d h p true s)

/-! ### Waits of a program's own (R404) -/

def execWreg (g : Guard) (a : BitVec 5) (s : State) : Out :=
  .next (s.issue (.wreg g a) 0 (some g) fun s =>
    let h := s.handleIn a
    s.withObject h [3] fun _ s =>
      match s.insertEdge (myEdge s h) with
      | .registered s => s.advance
      | .full s => s.advance
      | .cycle es => s.trapDeadlock es)

def execWdereg (g : Guard) (a : BitVec 5) (s : State) : Out :=
  .next (s.issue (.wdereg g a) 0 (some g) fun s =>
    let h := s.handleIn a
    s.withObject h [3] fun _ s => (s.dropEdges (· == myEdge s h)).advance)

/-- Declared holders, oldest first, at most 8 (R192). -/
def addHolder (l : List Nat) (w : Nat) : List Nat :=
  if l.contains w then l else if l.length < 8 then l ++ [w] else l.drop 1 ++ [w]

def execWhold (g : Guard) (a : BitVec 5) (s : State) : Out :=
  .next (s.issue (.whold g a) 0 (some g) fun s =>
    let h := s.handleIn a
    s.withObject h [0, 3] fun _ s => (s.updSlot h fun x => { x with holders := addHolder x.holders s.mySid }).advance)

def execWholdRel (g : Guard) (a : BitVec 5) (s : State) : Out :=
  .next (s.issue (.wholdRel g a) 0 (some g) fun s =>
    let h := s.handleIn a
    s.withObject h [0, 3] fun _ s =>
      (s.updSlot h fun x => { x with holders := x.holders.filter (· != s.mySid) }).advance)

/-! ### Watches (R186, R187, R353) -/

def watchLimit : Nat := 1024

/-- A stream in MWAIT keeps its watch entry. -/
def State.inMwait (s : State) (core : Nat) : Bool :=
  match (s.core core).c.wait with
  | .mwait .. => true
  | _ => false

/-- A stream's entry is taken over (R186). -/
def State.stealWatch (s : State) (core : Nat) : State :=
  (s.watchOccurs core 1).updCore core fun k =>
    { k with watch := k.watch.map fun w => { w with armed := false, stolen := true } }

/-- Arms the watch on a granule; 0 armed, 1 failed. -/
def State.arm (s : State) (granule : Nat) : State × Word :=
  let d := dieOf s.fcore
  let rest := (s.die d).watches.filter (· != s.focusCore)
  let put (s : State) (ws : List (BitVec 8)) : State × Word :=
    ((s.updDie d fun x => { x with watches := ws ++ [s.focusCore] }).updMyCore fun k =>
      { k with watch := some ⟨granule, true, none, false⟩ }, 0)
  if rest.length < watchLimit then put s rest
  else match rest.find? fun c => !s.inMwait c.toNat with
    | some c => put (s.stealWatch c.toNat) (rest.filter (· != c))
    | none => ((s.updDie d fun x => { x with watches := rest }).updMyCore fun k =>
        { k with watch := some ⟨granule, false, none, false⟩ }, 1)

/-- The location MON watches, or none while the bank waits for a BANKM. A page that maps system space holds nothing to watch, as the
accumulator window does: the window fault (DESIGN CHOICE, log 28). -/
def State.watchTarget (s : State) (t : Target) (va : Nat) : Except AccFault (Option Nat) :=
  match t with
  | .sram cl off =>
    let b := (s.cluster cl).bank (off / 32768)
    if b.pend.isSome then .ok none
    else if !bankTenantOk b (s.who s.fcore) then .error ⟨causeCrossTenant, 0, va⟩
    else if b.mode != 1 then .error ⟨causeBankMode, 0, va⟩
    else .ok (some t.key)
  | .acc .. | .sys _ => .error ⟨causeWindow, 0, va⟩
  | t => .ok (some t.key)

def execMon (g : Guard) (d a : BitVec 5) (s : State) : Out :=
  .next (s.issue (.mon g d a) 0 (some g) fun s =>
    let va := (s.me.ra a).toNat
    if s.walking (s.who s.fcore) .read va then (s.noteMiss s.fcore va).stall .stall
    else match s.translate (s.who s.fcore) .read va with
    | .error f => s.trapAccess f .read 0 1
    | .ok t =>
      match s.watchTarget t va with
      | .error f => s.trapAccess f .read 0 1
      | .ok none => s.stall .stall
      | .ok (some k) =>
        let (s, w) := s.arm (k / 64)
        s.writeS d w)

/-- MWAIT answers at once. -/
def mwaitNow (d : BitVec 5) (code : Nat) (s : State) : State :=
  (s.mwaitReturn s.fcore d code).setWstat s.fcore .c false

/-- MWAIT (R187). A wait after a MON that failed is unregistered, as one that finds the table full is. Without a watch it returns 6, its
timeout 0 or not (DESIGN CHOICE, log 80). -/
def mwaitBody (d a : BitVec 5) (s : State) : State :=
  let n := (s.me.rs a).toNat % 2 ^ 32
  let deadline := if n == 0xFFFFFFFF then none else some (s.beat.toNat + n)
  let unreg (s : State) : State :=
    s.updMe fun t => { t with wait := .mwait d deadline false (s.tick.toNat + firstGap), wstat := true }
  let again := s.me.abandoned
  let s := s.updMe fun t => { t with abandoned := false }
  match s.myCore.watch with
    | none => mwaitNow d 6 s
    | some w =>
      match w.latch with
      | some c => mwaitNow d c s
      | none =>
        if again then mwaitNow d 2 s
        else if w.stolen then mwaitNow d 6 s
        else if n == 0 then mwaitNow d 4 s
        else if !w.armed then unreg s
        else match s.insertEdge ⟨s.mySid, true, w.granule, none⟩ with
          | .registered s => s.updMe fun t => { t with wait := .mwait d deadline true 0, wstat := false }
          | .full s => unreg s
          | .cycle es => s.trapDeadlock es

def execMwait (g : Guard) (d a : BitVec 5) (s : State) : Out :=
  .next (s.issue (.mwait g d a) 0 (some g) (mwaitBody d a))

/-- IDLE parks for at most 65,536 cycles; the resume point follows it (R335). -/
def execIdle (g : Guard) (s : State) : Out :=
  .next (s.issue (.idle g) 0 (some g) fun s => s.updMe fun t => { t.done with wait := .idle (s.tick.toNat + 65536) })

/-- A retirement on a core ends its IDLE (R335). -/
def State.endIdle (s : State) (core : Nat) : State :=
  match (s.core core).c.wait with
  | .idle _ => s.updStr core .c fun t => { t with wait := .none }
  | _ => s

/-! ### Fences (R168, R169) -/

/-- Some class of the mask has `cway` = 1. -/
def cwayIn (attr : Word) (m : BitVec 16) : Bool :=
  (List.range 16).any fun c => m.getLsbD c && attr.getLsbD (4 * c)

/-- A fence over a `cway` class drops every line that the cluster's `CWAY` banks hold. -/
def State.fenceLines (s : State) (core : Nat) (m : BitVec 16) : State :=
  if cwayIn (s.core core).clsattr m then s.updCluster (clusterOf core) fun c => { c with cway := [] } else s

/-- Every other access performs as it issues; the address queue of A empties first. -/
def execFence (g : Guard) (m : BitVec 16) (s : State) : Out :=
  .next (s.issue (.fence g m) 0 (some g) fun s =>
    if m == 0 then s.advance
    else if !s.performed s.fcore s.focusLane then s.stall .stall
    else (s.fenceLines s.fcore m).advance)

/-- FENCESC notes what its first two steps wait for: only the address queue keeps accesses that have issued and not performed (R169). -/
def execFencesc (g : Guard) (s : State) : Out :=
  .next (s.issue (.fencesc g) 0 (some g) fun s =>
    let k := s.myCore
    s.updMe fun t => { t with wait := .fencesc k.aq.length [k.ringL.acc, k.ringK.acc, k.ringS.acc, k.ringG.acc] none })

/-- Steps 1-3 finish, or the FENCESC completes at a later beat (R169). -/
def execFencescCompletion (core : BitVec 8) (l : Lane) (s : State) : Out :=
  let c := core.toNat
  let k := s.core c
  match (k.str l).wait with
  | .fencesc n acc none =>
    if n == 0 && (acc.zip [k.ringL.ret, k.ringK.ret, k.ringS.ret, k.ringG.ret]).all (fun p => p.1 ≤ p.2) then
      .next ((s.fenceLines c 0xFFFF).updStr c l fun t => { t with wait := .fencesc n acc (some s.beat.toNat) })
    else .next s
  | .fencesc _ _ (some b) => .next (if b < s.beat.toNat then (s.updStr c l StreamState.done).goesOn c l else s)
  | _ => .next s

/-! ### Events of the store -/

/-- The oldest outstanding post to a store performs (R180). -/
def execCounterPostPerform (die : BitVec 2) (s : State) : Out :=
  match (s.die die.toNat).posts with
  | p :: r => .next (if s.dieUp die.toNat then (s.updDie die.toNat fun d => { d with posts := r }).performPost p else s)
  | [] => .next s

/-- The core of a posting job. -/
def State.postCore (s : State) (p : Post) : Option Nat := (s.cores.find? fun (_, k) => k.job.any p.ofJob).map Prod.fst

/-- A refusal returns: its job has ended, or its core is there to take the fault. One whose job is saved, or stopped already, waits
(DESIGN CHOICE, log 79). -/
def State.refusalReturns (s : State) (p : Post) : Bool :=
  !(s.mod.saved.any fun x => x.ctx.job.any p.ofJob) &&
    (s.postCore p).all fun c => (s.core c).stop.isNone && (s.core c).resetting.isNone

/-- A refused post returns to its core, which takes the fault (R180). -/
def execPostRefusalReturn (die : BitVec 2) (s : State) : Out :=
  match (s.die die.toNat).refusals.find? s.refusalReturns with
  | some p =>
    let s := s.updDie die.toNat fun d => { d with refusals := d.refusals.erase p }
    .next ((s.postCore p).elim s fun c => s.stopCore c { cause := p.cause, src := p.lane })
  | none => .next s

/-- The handle that an unregistered wait looks at. -/
def Wait.looksAt : Wait → Option (BitVec 32)
  | .counter _ h _ false .. | .lock _ h false .. | .barrier _ _ h _ _ false .. => some h
  | _ => Option.none

/-- The handle that a registered wait stands on. -/
def Wait.registeredOn : Wait → Option (BitVec 32)
  | .counter _ h _ true .. | .lock _ h true .. | .barrier _ _ h _ _ true .. => some h
  | _ => Option.none

/-- An interval of an unregistered wait ends (R195). It waits while the object's die is under warm reset (R179). -/
def State.recheck (s : State) (c : Nat) (l : Lane) : State :=
  let w := (s.who c)
  let at_ := (s.str c l).wait.looksAt
  if at_.any fun h => s.present (hDie h) && !s.dieUp (hDie h) then s
  else if at_.any (s.cutOffFrom (dieOf c)) then
    (s.updStr c l fun t => { t with wait := .none }).stopCore c { cause := causeHomeOffline, src := laneSrc l }
  else
  let s := at_.elim s s.readCopies
  let fault (n : Nat) : State :=
    (s.updStr c l fun t => { t with wait := .none }).stopCore c { cause := n, src := laneSrc l }
  let nextGap (g : Nat) : Nat := min (2 * g) 65536
  match (s.str c l).wait with
  | .counter d h thr false gap due =>
    if s.tick.toNat < due then s else
    match s.object w.tenant w.level h [0] with
    | .ok (.counter v) =>
      if thr.toNat ≤ v then s.wake c l h fun t => t.ws d (BitVec.ofNat 64 v)
      else s.updStr c l fun t => { t with wait := .counter d h thr false (nextGap gap) (due + nextGap gap) }
    | .ok _ => s
    | .error n => fault n
  | .lock d h false gap due =>
    if s.tick.toNat < due then s else
    match s.object w.tenant w.level h [2] with
    | .ok (.lock none ab ws) =>
      (s.setObj h (.lock (some (streamId c l)) false ws)).wake c l h fun t => t.ws d (resultWord false true ab false 0)
    | .ok _ => s.updStr c l fun t => { t with wait := .lock d h false (nextGap gap) (due + nextGap gap) }
    | .error n => fault n
  | .barrier d p h ph arr false gap due =>
    if s.tick.toNat < due then s else
    match s.object w.tenant w.level h [1] with
    | .ok o =>
      match (barrierState o c).1 with
      | some (ok, ph', br) => s.wakeBarrier c l h d p arr ok (resultWord br true false false ph')
      | none =>
        s.updStr c l fun t => { t with wait := .barrier d p h ph arr false (nextGap gap) (due + nextGap gap) }
    | .error n => fault n
  | .mwait d _ false due => if s.tick.toNat < due then s else s.mwaitReturn c d 5
  | _ => s

def execUnregisteredRecheck (core : BitVec 8) (l : Lane) (s : State) : Out := .next (s.recheck core.toNat l)

/-- After re-admission, what waited for a die's store goes to it: posts, and the operations that held their streams
(R179). -/
def execTahrForward (die : BitVec 2) (s : State) : Out :=
  if !s.dieUp die.toNat then .next s else
  let mine (p : Post) : Bool := hDie p.handle == die.toNat
  let ps := s.dies.flatMap fun d => if s.reaches d.1 die.toNat then d.2.held.filter mine else []
  let s : State := { s with dies := s.dies.map fun (i, d) =>
    (i, if s.reaches i die.toNat then { d with held := d.held.filter fun p => !mine p } else d) }
  let s := s.updDie die.toNat fun d => { d with posts := d.posts ++ ps }
  .next (s.parkedStreams.foldl (init := s) fun s (c, l, w) =>
    if w == .tahrHeld die.toNat then (s.updStr c l fun t => { t with wait := .none }).goesOn c l else s)

def execMwaitTimeout (core : BitVec 8) (s : State) : Out :=
  match (s.core core.toNat).c.wait with
  | .mwait d (some b) _ _ => .next (if b ≤ s.beat.toNat then s.mwaitReturn core.toNat d 4 else s)
  | _ => .next s

def execIdleTimeout (core : BitVec 8) (s : State) : Out :=
  match (s.core core.toNat).c.wait with
  | .idle n => .next (if n ≤ s.tick.toNat then s.endIdle core.toNat else s)
  | _ => .next s

def execPauseExpire (core : BitVec 8) (l : Lane) (s : State) : Out :=
  match (s.str core.toNat l).wait with
  | .pause n => .next (if n ≤ s.tick.toNat then (s.updStr core.toNat l fun t => { t with wait := .none }).goesOn core.toNat l else s)
  | _ => .next s

/-! ### Object requests (R178, R189) -/

/-- Fields of an `objctl` request. -/
def reqOp (v : Word) : Nat := bitsOf v.toNat 0 2
def reqFar (v : Word) : Bool := v.getLsbD 2
def reqType (v : Word) : Nat := bitsOf v.toNat 8 4
def reqTenant (v : Word) : Nat := bitsOf v.toNat 16 6
def reqDie (v : Word) : Nat := bitsOf v.toNat 24 2
def reqSlot (v : Word) : Nat := bitsOf v.toNat 26 22
def reqExpect (v : Word) : Nat := bitsOf v.toNat 48 16

/-- A field or code that the register reserves: status 9. -/
def objReserved (v : Word) : Bool :=
  bitsOf v.toNat 3 5 != 0 || bitsOf v.toNat 12 4 != 0 || bitsOf v.toNat 22 2 != 0 || 4 ≤ reqType v || reqOp v == 0 ||
    (if reqType v == 1 then reqOp v != 2 && reqExpect v == 0 else reqExpect v != 0)

/-- The checks common to the three requests, in the order 9, 8, 4 (DESIGN CHOICE, log 16). -/
def State.objCheck (s : State) (r : Request) : Option Nat :=
  if objReserved r.value then some 9
  else if r.level != 2 && reqTenant r.value != r.tenant.toNat then some 8
  else if !s.present (reqDie r.value) then some 4
  else none

/-- The outcome of a request in `objst`. -/
def State.objDone (s : State) (die : Nat) (h : BitVec 32) (status : Nat) : State :=
  s.updDie die fun d => { d with objReq := none, objst := BitVec.ofNat 64 (h.toNat * 2 ^ 32 + status) }

/-- The first free slot among `n` from `base`, looking from the `i`-th on. -/
def freeSlot (t : Tab Slot) (base n : Nat) (skip0 : Bool) : Nat → Nat → Option Nat
  | 0, _ => none
  | f + 1, i =>
    let k := base + i % n
    if (t.at k Slot.reset).obj.isNone && !(skip0 && k == 0) then some k else freeSlot t base n skip0 f (i + 1)

/-- The request on a die, when it is of the op and its store's die is not under warm reset (R179); while no way leads there it waits too
(R17; DESIGN CHOICE, log 79). -/
def State.objRequest (s : State) (die op : Nat) : Option Request :=
  match (s.die die).objReq with
  | some r => if reqOp r.value == op && (s.reaches die (reqDie r.value) || !s.present (reqDie r.value)) then some r else none
  | none => none

/-- Alloc: which free slot is taken is a free value. The memory-backed area holds every slot from 65,536 on; R178 leaves its size to the
firmware (DESIGN CHOICE, log 16). -/
def execObjAlloc (die : BitVec 2) (s : State) : Out :=
  match s.objRequest die.toNat 1 with
  | none => .next s
  | some r =>
    match s.objCheck r with
    | some c => .next (s.objDone die.toNat 0 c)
    | none =>
      let v := r.value
      let mask : BitVec 256 := BitVec.ofNat 256 (r.args.headD 0)
      if reqType v == 1 && popc256 mask < reqExpect v then .next (s.objDone die.toNat 0 6)
      else
        let base := if reqFar v then 65536 else 0
        let n := if reqFar v then 4128768 else 65536
        let (k, s) := s.draw
        match freeSlot (s.die (reqDie v)).tahr base n (reqDie v == 0) n (k % n) with
        | none => .next (s.objDone die.toNat 0 2)
        | some slot =>
          let g := (s.slot (mkHandle (reqDie v) slot 0)).gen + 1
          let g := if g == 0 then 1 else g
          let o : Obj := match reqType v with
            | 0 => .counter 0
            | 1 => .barrier (reqExpect v) mask 0 0 false []
            | 2 => .lock none false []
            | _ => .wait
          let h := mkHandle (reqDie v) slot g
          .next ((s.updSlot h fun _ => ⟨g, BitVec.ofNat 6 (reqTenant v), some o, false, [], 0, false⟩).objDone die.toNat h 0)

/-- The slot a free or rearm names: its handle and object, where it is of the request's tenant and type. -/
def State.objNamed (s : State) (v : Word) : Option (BitVec 32 × Obj) :=
  let x := s.slot (mkHandle (reqDie v) (reqSlot v) 0)
  match x.obj with
  | some o => if x.tenant.toNat == reqTenant v && o.type == reqType v then
      some (mkHandle (reqDie v) (reqSlot v) x.gen, o) else none
  | none => none

/-- A slot whose object has been freed: the generation stays, and the poison goes (R178, R179). -/
def Slot.freed (x : Slot) : Slot := { x with obj := none, poisoned := false, holders := [], bad := 0, differ := false }

/-- Some wait is registered on a handle. -/
def State.hasWaiters (s : State) (h : BitVec 32) : Bool := s.edges.any fun e => !e.granule && e.obj == h.toNat

def execObjFree (die : BitVec 2) (s : State) : Out :=
  match s.objRequest die.toNat 2 with
  | none => .next s
  | some r =>
    match s.objCheck r with
    | some c => .next (s.objDone die.toNat 0 c)
    | none =>
      match s.objNamed r.value with
      | none => .next (s.objDone die.toNat 0 3)
      | some (h, o) =>
        let held := match o with
          | .lock (some _) .. => true
          | _ => false
        if held || s.hasWaiters h then .next (s.objDone die.toNat 0 5)
        else .next ((s.updSlot h Slot.freed).objDone die.toNat h 0)

def execObjRearm (die : BitVec 2) (s : State) : Out :=
  match s.objRequest die.toNat 3 with
  | none => .next s
  | some r =>
    match s.objCheck r with
    | some c => .next (s.objDone die.toNat 0 c)
    | none =>
      match s.objNamed r.value with
      | some (h, .barrier ..) =>
        let mask : BitVec 256 := BitVec.ofNat 256 (r.args.headD 0)
        if popc256 mask < reqExpect r.value then .next (s.objDone die.toNat 0 6)
        else if s.hasWaiters h then .next (s.objDone die.toNat 0 5)
        else .next ((s.setObj h (.barrier (reqExpect r.value) mask 0 0 false [])).objDone die.toNat h 0)
      | _ => .next (s.objDone die.toNat 0 3)

end Sys2Proof.Machine
end

