-- ==== Sys2Proof/Machine/Jobs.lean ====
section
/-! DEFINITION. The end of a job: completion (R36), killing (R216), what is freed (R117, R132, R141), rollback to marks
(R45, R229), the context that pre-emption and resume keep (R204, R219), and the failure of a launch record (R199). -/

namespace Sys2Proof.Machine

/-! ### Launch queues and failure (R196-R199) -/

/-- `lqhead` advances over taken records (R197). -/
def LaunchQueue.advance (l : LaunchQueue) : Nat → LaunchQueue
  | 0 => l
  | f + 1 => if l.head != l.tail && (l.at l.head).taken then { l with head := (l.head + 1) % 2 ^ 32 }.advance f else l

/-- A record is taken (R197). -/
def State.takeRecord (s : State) (t q n : Nat) : State :=
  (s.updProgress t q n fun p => { p with taken := true }).updLq t q (·.advance 4096)

def State.addHostEntry (s : State) (t : Nat) (e : HostEntry) : State :=
  s.updTenant t fun x => { x with entries := x.entries ++ [e] }

/-- The queue number of a job that no launch record started: the firmware (R256). -/
def noQueue : Nat := 8

/-- Writes a byte of a launch record where its slot is writable (R199). -/
def State.writeLaunchByte (s : State) (t q n at_ : Nat) (f : Nat → Nat) : State :=
  if q == noQueue then s else
  let va := cfgSlot ((s.tenant t).lq q).cfg 64 n + at_
  match s.readVa (s.hwWho t) va 1 with
  | .error _ => s
  | .ok bs => match s.writeVa (s.hwWho t) va [f (bs.headD 0) % 256] with
    | .error _ => s
    | .ok s => s

/-- A relaunch that resumes fails before it is taken: the state kept under its `done` by another record goes (R204). -/
def State.dropKept (s : State) (t q n : Nat) : State :=
  let p := s.progress t q n
  if p.taken || !(p.bytes.any fun b => (b.getD 63 0).testBit 0) then s
  else s.updMod fun m => { m with keptStates := m.keptStates.filter fun k =>
    !(k.tenant.toNat == t && k.done == p.done && !(k.queue == q && k.record == n)) }

/-- A launch fails: `fail` and `attempt` are written, the record is taken, and the host is told where the record asks
for it. A record fails once, with code 11 where its gang has been cancelled (R208). -/
def State.failRecord (s : State) (t q n code : Nat) : State :=
  let p := s.progress t q n
  if p.fail != 0 then s else
  let code := if p.cancelled then 11 else code
  let s := s.writeLaunchByte t q n 61 fun _ => code
  let s := s.writeLaunchByte t q n 62 fun a => min (a + 1) 255
  let s := (s.dropKept t q n).updProgress t q n fun p => { p with fail := code }
  let s := s.takeRecord t q n
  if p.ctl.testBit 5 then s.addHostEntry t ⟨2, code, q, n, p.done, 0, none⟩ else s

/-! ### Rollback (R45) -/

/-- A stream takes back its mark: registers that are not live, `v16`-`v31` and the command registers read zero. -/
def StreamState.toMark (t : StreamState) : StreamState :=
  match t.mark with
  | none => t
  | some m =>
    { t with s := m.s, a := m.a, v := m.v, p := m.p, m := m.m, k := Vector.replicate 8 0, pc := m.pc, loops := m.loops,
             fpctl := m.fpctl, fpflags := m.fpflags, seed := m.seed, pops := m.pops, pushes := m.pushes, fpUses := m.fpUses,
             ended := false, wait := .none, abandoned := false, granted := none, ibuf := [], worked := 0, moved := false }

def StreamBlock.again (b : StreamBlock) : StreamBlock := { b with flags := b.flags &&& 3 }

/-- Resume of a rolled-back stream continues at its mark. -/
def Frame.fromMark (f : Frame) : Lane → Frame
  | .c => { f with strc := f.strc.again }
  | .a => { f with stra := f.stra.again }
  | .x => { f with strx := f.strx.again }

/-- A stream is rolled back: held entries and tokens are read again, and A's address queue is discarded. -/
def CoreState.rollback (k : CoreState) (l : Lane) : CoreState :=
  let k := (consumedQueues l).foldl (fun k q => k.setQueue q (k.queue q).rewind) k
  let k := (consumedBranches l).foldl (fun k q => k.setBranch q (k.branch q).rewind) k
  let k := (consumedTokens l).foldl (fun k f => k.setTokens f { k.tokens f with rd := (k.tokens f).base }) k
  let k := if l == .a then k.aqDrop else k
  let k := { k with stop := k.stop.map fun (f : Frame) => f.fromMark l }
  k.setStr l (k.str l).toMark

/-- X's FIFO banks are read again from the entries it holds (R89). -/
def ClusterState.rewindFifos (c : ClusterState) (core : Nat) : ClusterState :=
  { c with banks := c.banks.map fun (b, x) => (b, if x.consumer == some core then { x with rd := x.head } else x) }

/-- A stream of a core resumes from its last mark. -/
def State.rollbackStream (s : State) (core : Nat) (l : Lane) : State :=
  let s := ((s.updCore core fun k => k.rollback l).updStr core l fun t => { t with since := s.tick.toNat }).dropEdges fun e =>
    e.waiter == streamId core l && e.cmd.isNone &&
      ((s.slot (BitVec.ofNat 32 e.obj)).obj != some .wait || e.granule)
  if l == .x then s.updCluster (clusterOf core) (·.rewindFifos core) else s

/-- A stream is inside a level whose entry is `nonrestart` (R46). -/
def CoreState.nonrestart (k : CoreState) (l : Lane) : Bool :=
  (k.str l).loops.any fun e => (k.loopRow e.id.toNat).nonrestart

/-! ### The context of a core (R219 step 5) -/

def homeBanks (core : Nat) : List Nat := (List.range 16).map (16 * coreIn core + ·)

/-- Accumulator banks that a core owns. -/
def State.ownedAcc (s : State) (core : Nat) : List Nat :=
  let c := s.cluster (clusterOf core)
  (List.range 64).filter fun b => (c.accb b).alloc && (c.accb b).owner.toNat == coreIn core

def ClusterState.ring (c : ClusterState) (i : Nat) : Bring := c.brings.at i Bring.reset

/-- Buffer rings that the job of a core owns. -/
def State.ownedRings (s : State) (core : Nat) : List Nat :=
  let c := s.cluster (clusterOf core)
  (List.range 16).filter fun i => (c.ring i).valid && (c.ring i).owner.toNat == coreIn core

/-- Bytes of memory moved from one location range to another. -/
def cellsMoved (m : List Host.Cell) (from_ n to_ : Nat) : List Host.Cell :=
  (m.filter fun c => from_ ≤ c.1 && c.1 < from_ + n).map fun c => (c.1 - from_ + to_, c.2)

/-- The saved locations are offsets in cluster SRAM, and in accumulator memory above 2 MiB. -/
def savedAccKey (b : Nat) : Nat := 2 ^ 21 + b * 32768

/-- The state word of an accumulator bank that is allocated afresh (R232). -/
def AccBank.fresh (a : AccBank) : AccBank := { a with ovf := 0, busy := false }

/-- The whole context of a job as it stands; `keep` says whether its memories go with it, else its accumulator banks are allocated
afresh and its home group is `OFF` (R232). -/
def State.capture (s : State) (core id : Nat) (keep : Bool) : Saved :=
  let cl := clusterOf core
  let c := s.cluster cl
  let acc := s.ownedAcc core
  { id := id, core := BitVec.ofNat 8 core, ctx := s.core core,
    banks := (homeBanks core).map fun b =>
      (b, if keep then { c.bank b with pend := none, line := [] }
          else { c.bank b with mode := 0, pend := none, consumer := none, line := [] }),
    acc := acc.map fun b => (b, if keep then c.accb b else (c.accb b).fresh),
    brings := (s.ownedRings core).map fun i => (i, c.ring i),
    mem := if !keep then [] else
      ((homeBanks core).flatMap fun b => cellsMoved s.mem (sramKey cl (b * 32768)) 32768 (b * 32768)) ++
        (acc.flatMap fun b => cellsMoved s.mem (accKey cl (b * 32768)) 32768 (savedAccKey b)),
    due := c.lease.lost.at (coreIn core) 0 != 0, halted := (s.core core).halt.isSome, since := s.beat.toNat }

/-! ### Freeing a core -/

/-- A ring whose records are gone: its counts stay readable (R105, R422). -/
def Ring.emptied (r : Ring) : Ring := { r with slots := [] }

/-- A stream of a free core: its system registers stay readable until the next job starts (R34). -/
def StreamState.left (t : StreamState) : StreamState :=
  { StreamState.reset with fpctl := t.fpctl, fpflags := t.fpflags, seed := t.seed, wstat := t.wstat }

/-- A free core keeps what outlives jobs, and the registers that the next job's start resets (R34, R105); of the writes to X's
registers, those that X never took (R65, R66). -/
def CoreState.cleared (k : CoreState) : CoreState :=
  { CoreState.reset with
    c := k.c.left, a := k.a.left, x := k.x.left, ringL := k.ringL.emptied, ringK := k.ringK.emptied, ringS := k.ringS.emptied
    ringG := k.ringG.emptied, gen := k.gen, clsattr := k.clsattr, leaseRun := k.leaseRun, offline := k.offline, resets := k.resets
    xfp := k.xfp.filter fun e => (k.queue 6).rd ≤ e.place, lastChange := k.lastChange, halt := k.halt, tlb := k.tlb }

/-- The tile of a core that is in the cells is discarded: its banks keep what they held (R134). -/
def ClusterState.dropTile (c : ClusterState) (core : Nat) : ClusterState :=
  if c.cells.any fun t => t.core.toNat == core then
    { c with cells := none, acc := c.acc.map fun (b, x) => (b, { x with busy := false }) } else c

/-- Records in states 1 to 6 return to state 1 unstarted. -/
def Ring.unstart (r : Ring) (beat : BitVec 32) : Ring :=
  { r with slots := r.slots.map fun (i, x) =>
      (i, if x.st.state < 7 then { x with st := { x.st with state := 1, beat := beat }, asked := none, recheck := none } else x) }

/-- A started record stands at its mark in state 1; what it had done of the next boundary is done again (R212). -/
def Rec.backToMark (r : Rec) (beat : BitVec 32) : Rec :=
  { r with st := { r.st with state := 1, cause := 0, beat := beat }, performed := false,
           fifo := { r.fifo with again := true }, coll := r.coll.map fun c => { c with out := false } }

/-- A record whose claim has been released tries the claim afresh (R160). -/
def Rec.claimless (r : Rec) : Rec := { r with mxr := r.mxr.filter fun m => m.path == 0 }

/-- A record as a kept state holds it (R204): as pre-emption saves it, a stopped one at its mark, its claim released and no audit of it
made. -/
def Rec.kept (r : Rec) (beat : BitVec 32) (banks : Bool) : Rec :=
  let r := { r.claimless with audited := false, fifo := if banks then r.fifo else { r.fifo with next := [], put := [], again := false } }
  if (r.st.state == 7 && !r.posted) || r.st.state == 10 then r.backToMark beat else r

def Ring.kept (r : Ring) (beat : BitVec 32) (banks : Bool) : Ring :=
  let r := r.unstart beat
  { r with slots := r.slots.map fun (i, x) => (i, x.kept beat banks) }

/-- A record that leaves its core before it retires is not replayed: its audit goes (R267). -/
def State.dropAudits (s : State) (core : Nat) : State :=
  let drop (r : Ring) : Ring := { r with slots := r.slots.map fun (i, x) => (i, { x with audited := false }) }
  (s.updCore core fun k => { k with ringL := drop k.ringL, ringK := drop k.ringK, ringS := drop k.ringS }).updDie (dieOf core) fun d =>
    { d with audits := d.audits.filter fun a => a.core.toNat != core || a.original.isSome }

/-- Frees the accumulator banks a core owns, and a tile of its that is in the cells (R132, R216). -/
def ClusterState.freeAcc (c : ClusterState) (core : Nat) : ClusterState :=
  let mine := c.cells.any fun t => t.core.toNat == core
  { c with cells := if mine then none else c.cells
           acc := c.acc.map fun (b, x) =>
             (b, if x.alloc && x.owner.toNat == coreIn core then { x with alloc := false, busy := false }
                 else if mine then { x with busy := false } else x) }

/-- Buffer rings are cleared (R117); popped FIFO entries are released (R89). -/
def ClusterState.freeRings (c : ClusterState) (core : Nat) : ClusterState :=
  { c with brings := c.brings.map fun (i, r) =>
             (i, if r.valid && r.owner.toNat == coreIn core then { r with valid := false, acqs := 0, rels := 0 } else r)
           banks := c.banks.map fun (b, x) =>
             (b, if x.consumer == some core then { x with head := x.rd, consumer := none } else x) }

/-- The lease run of a core ends, and its request and count are gone. -/
def Lease.leave (l : Lease) (core : Nat) : Lease :=
  let l := if l.holder == some (BitVec.ofNat 2 (coreIn core)) then l.endRun else l
  { l with lost := l.lost.del (coreIn core) }

/-- Claims that a job's K records hold: the slot and the stamp of each. -/
def CoreState.claims (k : CoreState) : List (Nat × Nat) :=
  k.ringK.slots.filterMap fun (_, r) => r.mxr.bind fun m => if m.path == 0 then none else some (m.slot, m.stamp)

/-- Claims are released, the entry staying as it stood before the MXR (R141, R160). -/
def DirSlot.unclaim (d : DirSlot) (i : Nat) (cs : List (Nat × Nat)) : DirSlot :=
  if cs.any fun c => c.1 == i && d.claim == some c.2 then { d with claim := none, updates := (d.updates + 1) % 2 ^ 32 } else d

def State.releaseClaims (s : State) (k : CoreState) : State :=
  match k.job with
  | none => s
  | some j => s.updTenant j.tenant.toNat fun x => { x with dir := x.dir.map fun (i, d) => (i, d.unclaim i k.claims) }

def State.returnPermits (s : State) (core : Nat) : State :=
  s.updDie (dieOf core) fun d => { d with permits := d.permits.filter (·.1.toNat != core) }

/-- A core changes a bank no more: a change of its own that is pending goes. -/
def Bank.leave (x : Bank) (i : Nat) : Bank :=
  if x.pend.isSome && x.line.head? == some i then { x with pend := none, line := x.line.tail } else { x with line := x.line.erase i }

/-- A core leaves the banks that it waits to change; its BANKM is executed again. -/
def State.dropBankm (s : State) (c : Nat) : State :=
  (s.updCluster (clusterOf c) fun k => { k with banks := k.banks.map fun (b, x) => (b, x.leave (coreIn c)) }).updStr c .c fun t =>
    match t.wait with
    | .bank _ => { t with wait := .none }
    | _ => t

/-- What a job holds goes back when it ends (R36, R216). -/
def State.freeResources (s : State) (core : Nat) : State :=
  let s := (s.endObjects core).dropBankm core
  let s := s.updCluster (clusterOf core) fun c =>
    let c := (c.freeAcc core).freeRings core
    { c with lease := c.lease.leave core }
  ((s.releaseClaims (s.core core)).returnPermits core).updDie (dieOf core) fun d =>
    { d with audits := d.audits.filter (fun a => a.core.toNat != core || a.original.isSome)
             kept := d.kept.map fun m => if m.origin.any fun o => o.1.toNat == core then { m with origin := none } else m }

/-- The core time of a run is noted for its tenant (R200). -/
def State.noteRun (s : State) (j : Job) : State :=
  s.updTenant j.tenant.toNat fun x =>
    { x with runs := (x.runs.filter fun r => s.beat.toNat < r.2 + 4000000) ++ [(j.start, s.beat.toNat)] }

/-! ### Completion and killing -/

/-- Entries accepted and never popped (R36). -/
def CoreState.discarded (k : CoreState) : Nat :=
  (k.q.map fun (_, x) => x.accepted - x.rd).foldl (· + ·) 0 + (k.bq.map fun (_, x) => x.accepted - x.rd).foldl (· + ·) 0

/-- An instance has completed: it is counted, in the kept state of its launch too (R204). -/
def State.noteCompleted (s : State) (j : Job) : State :=
  (s.updProgress j.tenant.toNat j.queue j.record fun p =>
    { p with completed := p.completed ++ [j.inst], running := p.running - 1 }).updMod fun m =>
      { m with keptStates := m.keptStates.map fun k =>
          if k.tenant == j.tenant && k.queue == j.queue && k.record == j.record then
            { k with completed := k.completed ++ [j.inst] } else k }

/-- The three acts of the combiner, then the core is free. The last instance of a cancelled gang's slice completes before its
pre-emption: the record fails all the same (R208). -/
def State.completeJob (s : State) (core : Nat) (j : Job) : State :=
  let n := (s.core core).discarded
  let t := j.tenant.toNat
  let s := s.hwPost (dieOf core) t j.level.toNat j.done 1
  let s := if j.hostEntry then s.addHostEntry t ⟨1, 0, j.queue, j.record, j.done, n, some (BitVec.ofNat 8 core)⟩ else s
  let s := ((s.freeResources core).noteCompleted j).noteRun j
  let s := s.updCore core fun k => { k.cleared with awaitingHost := j.hostEntry, halt := none }
  if (s.progress t j.queue j.record).cancelled then s.failRecord t j.queue j.record 11 else s

/-- Slots of a tenant's resume area that hold a state (R205). -/
def State.keptOf (s : State) (t : Nat) : List Kept := s.mod.keptStates.filter fun k => k.tenant.toNat == t

def rsmSlots (c : Word) : Nat := bitsOf c.toNat 52 12
def rsmSize (c : Word) : Nat := bitsOf c.toNat 8 8

/-- Keeps the restart state of a job, taken from its marks, where the resume area has room (R204, R205). `keep` says
whether the core's banks go with it. It joins what other instances of the launch have left, and takes the place of what another launch
has left under the same `done`, which is the key (DESIGN CHOICE, log 19). -/
def State.keepResume (s : State) (core : Nat) (j : Job) (keep : Bool) : State :=
  let s0 := [Lane.c, .a, .x].foldl (fun s l => s.rollbackStream core l) s
  let ctx := (s0.capture core 0 keep)
  let b := s.beat.setWidth 32
  let ctx := { ctx with ctx := { ctx.ctx with
    stop := none, preempting := false, resetting := none, heldResolution := none
    ringL := ctx.ctx.ringL.kept b keep, ringK := ctx.ctx.ringK.kept b keep
    ringS := ctx.ctx.ringS.kept b keep, ringG := ctx.ctx.ringG.kept b keep } }
  let t := j.tenant.toNat
  let mine (k : Kept) : Bool := k.tenant == j.tenant && k.done == j.done
  let old := s.mod.keptStates.find? fun k => mine k && k.queue == j.queue && k.record == j.record
  let ctxs := Tab.put ((old.map (·.ctxs)).getD []) j.inst ctx
  let units := Config.keptUnits ctxs.length
  let cfg := (s.tenant t).rsmcfg
  if rsmSize cfg < units || rsmSlots cfg ≤ ((s.keptOf t).filter fun k => !mine k).length then s
  else
    let k : Kept := ⟨j.tenant, j.done, j.queue, j.record, units, ctxs, (s.progress t j.queue j.record).completed⟩
    (s.updMod fun m => { m with keptStates := m.keptStates.filter (fun x => !mine x) ++ [k] }).writeLaunchByte
      t j.queue j.record 63 fun b => b ||| 2

/-- THE JOB IS KILLED (R216): its record fails with `code`. `keep` says that the restart
state is kept (R204), and whether the banks go with it. -/
def State.killJob (s : State) (core code : Nat) (keep : Option Bool) : State :=
  match (s.core core).job with
  | none => s
  | some j =>
    let s := match keep with
      | some banks => (s.dropKept j.tenant.toNat j.queue j.record).keepResume core j banks
      | none => s
    let s := (s.freeResources core).noteRun j
    let s := s.updProgress j.tenant.toNat j.queue j.record fun p => { p with running := p.running - 1 }
    (s.updCore core fun k => { k.cleared with halt := none }).failRecord j.tenant.toNat j.queue j.record code

/-! ### Resolution of a frame (R216) -/

/-- The core whose pending frame of a tenant has a number; a saved job's frame is named by its saved id. -/
def State.frameCore (s : State) (t n : Nat) : Option Nat :=
  (s.cores.find? fun (_, k) => k.stop.any fun f => f.tenant == t && f.fseq == n).map (·.1)

def State.frameSaved (s : State) (t n : Nat) : Option Nat :=
  (s.mod.saved.find? fun x => x.ctx.stop.any fun f => f.tenant == t && f.fseq == n).map (·.id)

/-- Reserved bits of a resolution request (R322). -/
def resolveReserved (v : Word) : Bool := bitsOf v.toNat 14 50 != 0 || bitsOf v.toNat 2 6 != 0

/-- Applies an action to a stopped core: 1 resume, where the cause permits it, 2 end. -/
def State.resolveCore (s : State) (core act : Nat) : State :=
  match (s.core core).stop with
  | none => s
  | some f =>
    if act == 1 then (if causeResumes f.cause then s.resume core else s)
    else if act == 2 then s.killJob core 12 (some true)
    else s

/-- A resolution by a caller of a level and tenant: `n` the frame's number, `v` the request. A frame of a job
that is being saved, or has been, takes it at restore (R221). -/
def State.resolve (s : State) (level tenant n : Nat) (v : Word) : State :=
  let act := bitsOf v.toNat 0 2
  let t := if level == 2 then bitsOf v.toNat 8 6 else tenant
  if resolveReserved v || act == 0 || act == 3 then s
  else match s.frameCore t n with
    | some c =>
      if (s.core c).preempting then s.updCore c fun k =>
        if act == 2 || k.stop.any fun f => causeResumes f.cause then { k with heldResolution := some act } else k
      else s.resolveCore c act
    | none =>
      match s.frameSaved t n with
      | some id => s.updMod fun m =>
          { m with saved := m.saved.map fun x =>
              if x.id == id && (act == 2 || x.ctx.stop.any fun f => causeResumes f.cause) then
                { x with ctx := { x.ctx with heldResolution := some act } } else x }
      | none => s

/-! ### TRAP, BKPT, ERET, and completion -/

/-- TRAP waits for the stream's earlier accesses, which have performed as they issued (R386). -/
def execTrap (g : Guard) (a : BitVec 5) (s : State) : Out :=
  .next (s.issue (.trap g a) 0 (some g) fun s =>
    s.stopCore s.fcore { cause := 0x05, src := laneSrc .c, aux0 := (s.me.rs a).toNat % 2 ^ 32, after := true })

def execBkpt (g : Guard) (s : State) : Out :=
  .next (s.issue (.bkpt g) 0 (some g) fun s =>
    s.stopCore s.fcore { cause := 0x06, src := laneSrc .c, after := true })

/-- ERET (R322). -/
def execEret (g : Guard) (a b : BitVec 5) (s : State) : Out :=
  .next (s.issue (.eret g a b) 1 (some g) fun s =>
    s.advance.resolve (s.levelOf s.fcore) (s.tenantOf s.fcore) (s.me.rs a).toNat (s.me.rs b))

/-- A queue has retired its final NOTE (R35, R36); records that a chain has put behind it do not count (log 78). -/
def Ring.finished (r : Ring) : Bool := r.slots.any fun (_, x) => x.final && x.st.seq ≤ r.ret

/-- The combiner completes a job (R36). -/
def execJobComplete (core : BitVec 8) (s : State) : Out :=
  let k := s.core core.toNat
  match k.job with
  | none => .next s
  | some j =>
    if k.c.ended && k.a.ended && k.x.ended && k.stop.isNone && k.ringL.finished && k.ringK.finished && k.ringS.finished &&
        k.ringG.finished then .next (s.completeJob core.toNat j)
    else .next s

/-! ### The queue-deadlock trap (R42) and stalled records (R212) -/

/-- A stream is stalled on a queue, branch queue or token FIFO. -/
def Wait.onQueue : Wait → Bool
  | .queue _ | .branchQueue _ | .token .. => true
  | _ => false

/-- The trap of R42, whose words take in three streams that have all executed REND (DEDUCED, log 69). -/
def execQueueDeadlockTrap (core : BitVec 8) (s : State) : Out :=
  let c := core.toNat
  let k := s.core c
  let ts := [k.c, k.a, k.x]
  let n := (ts.filter fun t => !t.ended && t.wait.onQueue).length
  if k.job.isSome && k.stop.isNone && ts.all (fun t => t.ended || t.wait.onQueue) &&
      k.lastChange + 65536 ≤ s.tick.toNat then
    .next (s.stopCore c { cause := 0x07, aux0 := n })
  else .next s

/-- A record in state 7 of a stopped or leaving core whose mark has not advanced for 65,536 cycles goes back to state
1 at its mark (R212). -/
def Ring.stallStop (r : Ring) (tick : Nat) (beat : BitVec 32) : Ring :=
  { r with slots := r.slots.map fun (i, x) => (i, if x.st.state == 7 && x.tick + 65536 ≤ tick then x.backToMark beat else x) }

/-- The tile of a stalled product leaves the cells with it. -/
def State.stallStop (s : State) (c : Nat) (q : RingId) : State :=
  let stalled (r : Ring) : Bool := r.slots.any fun (_, x) => x.st.state == 7 && x.tick + 65536 ≤ s.tick.toNat
  let s' := s.updCore c fun k => k.setRing q ((k.ring q).stallStop s.tick.toNat (s.beat.setWidth 32))
  if q == .k && stalled (s.core c).ringK then s'.updCluster (clusterOf c) (·.dropTile c) else s'

def execRecordStallStop (core : BitVec 8) (r : RingId) (s : State) : Out :=
  let c := core.toNat
  let k := s.core c
  if k.stop.isSome || k.preempting then
    .next ((s.stallStop c r).leaseAfterStop c)
  else .next s

end Sys2Proof.Machine
end

