-- ==== Sys2Proof/Machine/Sysreg.lean ====
section
/-! DEFINITION. System registers: numbers, levels, reads and writes (R381-R384, R8, R9, R209, R210), the maps of R64,
R65, R93, R98, R126, R165, R178, R185, R196, R205, R208, R215, R222, R230, R238, R243, R251, R259, R264, R266, and SYSRD and
SYSWR. -/

namespace Sys2Proof.Machine

/-- A register: its space, the core, cluster, die or tenant it belongs to, and its index (R382). -/
structure RegName where
  space : Nat
  unit : Nat
  index : Nat
  deriving DecidableEq, Repr

/-- A number as SYSRD and SYSWR name it: the executing core, and its cluster. -/
def regOfNumber (core n : Nat) : Option RegName :=
  let i := regIndex n
  match regSpace n with
  | 0 => if bitsOf n 20 8 == 0 then some ⟨0, core, i⟩ else none
  | 1 => if bitsOf n 20 8 == 0 then some ⟨1, clusterOf core, i⟩ else none
  | 2 => if bitsOf n 22 6 == 0 then some ⟨2, regDie n, i⟩ else none
  | 3 => if bitsOf n 20 2 == 0 then some ⟨3, regTenant n, i⟩ else none
  | 4 => if bitsOf n 20 8 == 0 then some ⟨4, 0, i⟩ else none
  | _ => none

/-- A number as an address of system space holds it (R383). -/
def regOfSpace (n : Nat) : Option RegName :=
  let i := regIndex n
  match n / 2 ^ 28 with
  | 0 => some ⟨0, bitsOf n 20 8, i⟩
  | 1 => if bitsOf n 26 2 == 0 then some ⟨1, bitsOf n 20 6, i⟩ else none
  | _ => if n < 2 ^ 32 then regOfNumber 0 n else none

/-- The least levels that may read and write a register (R384), with 0 where no level is asked; nothing for an index
that names no register. `ckctl` states a status for a tenant that is not permitted, which every level below M takes (R210, R262;
DEDUCED, log 83). -/
def RegName.levels (r : RegName) : Option (Nat × Nat) :=
  let i := r.index
  match r.space with
  | 0 => if i ≤ 0x20 && i != 3 && i != 7 then some (0, 0) else none
  | 1 => if i < 0x90 || (0x400 ≤ i && i < 0x800) then some (0, 0) else none
  | 2 =>
    if i ≤ 3 || i == 0x10 || i == 0x11 then some (1, 1)
    else if 0x12 ≤ i && i ≤ 0x15 then some (0, 1)
    else if i == 0x20 then some (1, 0)
    else if i == 0x31 then some (1, 1)
    else if i == 0x30 || i == 0x32 then some (1, 2)
    else if 0x40 ≤ i && i ≤ 0x48 then some (1, 2)
    else if 0x49 ≤ i && i ≤ 0x4C then some (1, 0)
    else if i == 0x4D || i == 0x4E then some (2, 2)
    else if i == 0x4F then some (1, 2)
    else if 0x80 ≤ i && i < 0xC0 then some (2, 2)
    else if 0xC0 ≤ i && i ≤ 0xC2 then some (1, 2)
    else if 0xC8 ≤ i && i ≤ 0xCA then some (2, 2)
    else if 0xD0 ≤ i && i ≤ 0xD2 then some (2, 2)
    else if i == 0xE0 then some (0, 1)
    else if 0x10000 ≤ i && i < 0x30000 then some (2, 2)
    else none
  | 3 =>
    if i < 0x10 then some (1, 1)
    else if i < 0x18 then some (1, 0)
    else if i ≤ 0x1B then some (1, 1)
    else if i ≤ 0x1D then some (0, 1)
    else if i == 0x20 then some (1, 1)
    else if 0x21 ≤ i && i ≤ 0x23 then some (1, 2)
    else if 0x28 ≤ i && i ≤ 0x34 then some (1, 1)
    else none
  | 4 =>
    if i == 0 || i == 2 then some (0, 0)
    else if i == 1 then some (0, 2)
    else if 4 ≤ i && i ≤ 7 then some (2, 2)
    else if 0x10 ≤ i && i ≤ 0x14 then some (0, 2)
    else if 0x18 ≤ i && i ≤ 0x1B then some (0, 0)
    else if i == 0x23 then some (2, 0)
    else if 0x20 ≤ i && i ≤ 0x24 then some (2, 2)
    else if 0x40 ≤ i && i < 0x80 then some (2, 2)
    else if 0x80 ≤ i && i < 0x100 then some (1, 2)
    else if 0x400 ≤ i && i < 0x800 then some (0, 0)
    else none
  | _ => none

/-- Who makes a register access: level, tenant, and the core of a stream. -/
structure Caller where
  level : Nat
  tenant : Nat
  core : Option Nat
  deriving DecidableEq, Repr

/-- Checks 1 and 2 of R381: illegal-instruction (subcode 4), then privilege. -/
def regCheck (c : Caller) (r : RegName) (write : Bool) : Option (Nat × Nat) :=
  match r.levels with
  | none => some (causeIllegal, 4)
  | some (rd, wr) =>
    if c.level < (if write then wr else rd) || (r.space == 3 && c.level == 0) ||
        (r.space == 3 && c.level == 1 && r.unit != c.tenant) then
      some (causePrivilege, 0)
    else none

/-! ### Packing of the registers that are kept by field -/

/-- `bankst` (R84). -/
def Bank.word (b : Bank) : Word :=
  BitVec.ofNat 64 (b.mode.toNat + b.fmt.toNat * 2 ^ 2 + boolBit b.pend.isSome 7 + b.head % 512 * 2 ^ 8 +
    b.tail % 512 * 2 ^ 17 + b.tenant.toNat * 2 ^ 26)

/-- `accst` (R129). -/
def AccBank.word (a : AccBank) : Word :=
  BitVec.ofNat 64 (a.allocr.toNat + a.owner.toNat * 2 ^ 2 + boolBit a.alloc 4 + boolBit a.busy 5 +
    a.tenant.toNat * 2 ^ 10 + a.ovf * 2 ^ 16)

/-- `bring` (R117). -/
def Bring.word (r : Bring) : Word :=
  BitVec.ofNat 64 (r.base * 2 + r.stride * 2 ^ 14 + r.count * 2 ^ 28 + r.rel * 2 ^ 33 + r.acq * 2 ^ 37 + r.busy * 2 ^ 41 +
    r.owner.toNat * 2 ^ 46 + boolBit r.valid 48 + r.rels.toNat * 2 ^ 49 + r.acqs.toNat * 2 ^ 51)

/-- `coreid` (R15). -/
def State.coreId (s : State) (core : Nat) : Word := BitVec.ofNat 64 (core + s.mod.podModule.toNat * 2 ^ 16)

/-- Byte `i` of the boot record (R257). -/
def ModuleState.bootByte (m : ModuleState) (i : Nat) : Nat :=
  if i < 9 then (m.boot.at i 0).toNat else if 16 ≤ i && i < 20 then bitsOf m.bootCount.toNat (8 * (i - 16)) 8 else 0

/-- Word `i` of the staging latency table (R95): slices of an excluded die read 255. -/
def State.latencyWord (s : State) (i : Nat) : Word :=
  BitVec.ofNat 64 (ofBytes ((List.range 8).map fun b =>
    let g := i % 16 * 8 + b
    if s.present (g / 32) then (Config.stagingLatency (i / 16) g).toNat else 255))

/-- X's register as C reads it: the latest value that waits to be applied (R66). -/
def CoreState.xReg (k : CoreState) (i : Nat) (now : Word) : Word :=
  (((k.xfp.filter fun e => e.reg == i && (k.queue 6).rd ≤ e.place).getLast?).map (·.value)).getD now

/-! ### Reading -/

def State.readCoreReg (s : State) (c i : Nat) : Word :=
  let k := s.core c
  let j := k.job
  match i with
  | 0x00 => k.c.fpctl.setWidth 64
  | 0x01 => k.c.fpflags.setWidth 64
  | 0x02 => k.c.seed
  | 0x04 => k.xReg 0 (k.x.fpctl.setWidth 64)
  | 0x05 => k.xReg 1 (k.x.fpflags.setWidth 64)
  | 0x06 => k.xReg 2 k.x.seed
  | 0x08 => k.gen.setWidth 64
  | 0x09 => k.clsattr
  | 0x0A => s.tick
  | 0x0B => s.beat
  | 0x0C => (j.map fun x => x.idx[0]).getD 0
  | 0x0D => (j.map fun x => x.idx[1]).getD 0
  | 0x0E => (j.map fun x => x.idx[2]).getD 0
  | 0x0F => (j.map fun x => x.idx[3]).getD 0
  | 0x10 => BitVec.ofNat 64 (s.tenantOf c)
  | 0x11 => s.coreId c
  | 0x12 => k.leaseRun.setWidth 64
  | 0x13 => (j.map (·.args)).getD 0
  | 0x14 => if k.c.wstat then 1 else 0
  | 0x15 => if k.a.wstat then 1 else 0
  | 0x16 => if k.x.wstat then 1 else 0
  | 0x17 => BitVec.ofNat 64 (s.levelOf c)
  | 0x18 => BitVec.ofNat 64 k.ringL.acc
  | 0x19 => BitVec.ofNat 64 k.ringK.acc
  | 0x1A => BitVec.ofNat 64 k.ringS.acc
  | 0x1B => BitVec.ofNat 64 k.ringG.acc
  | 0x1C => BitVec.ofNat 64 k.ringL.ret
  | 0x1D => BitVec.ofNat 64 k.ringK.ret
  | 0x1E => BitVec.ofNat 64 k.ringS.ret
  | 0x1F => BitVec.ofNat 64 k.ringG.ret
  | 0x20 => (j.map (·.image)).getD 0
  | _ => 0

/-- The words of the snapshot (R272) are zero before the first one. -/
def State.readClusterReg (s : State) (cl i : Nat) : Word :=
  let c := s.cluster cl
  if i < 0x40 then (c.bank i).word
  else if i < 0x80 then (c.accb (i - 0x40)).word
  else if i < 0x90 then (c.ring (i - 0x80)).word
  else match c.cmSnap with
    | some x => BitVec.ofNat 64 (x.words.word (i - 0x400))
    | none => 0

/-- Beats of a full pass: face-bonded DRAM, LPDDR-6, and the three memories in SRAM (R263). -/
def passDeadline : Nat → Nat
  | 0 => 14400000000
  | 1 => 115200000000
  | _ => 2400000000

/-- Bytes of a memory that a pass covers. -/
def passBytes : Nat → Nat
  | 0 => 2 ^ 36
  | 1 => 2 ^ 39
  | _ => 16 * 2 ^ 22 + 32 * 3 * 2 ^ 20

/-- Bytes that the pass has covered, and beats that it has lasted. -/
def DieState.scrubbed (d : DieState) (m : Nat) : Nat := ((d.covered.at m []).map fun r => r.2 - r.1).foldl (· + ·) 0
def DieState.scrubTime (d : DieState) (m beat : Nat) : Nat := beat - d.passStart.at m 0

/-- The scrubber is behind: it was, and has not caught up, or the fraction covered is less than the fraction of the deadline that has
elapsed, minus 1/16 (R264). -/
def DieState.isBehind (d : DieState) (m beat : Nat) : Bool :=
  let c := d.scrubbed m * passDeadline m
  let e := d.scrubTime m beat * passBytes m
  (d.behind.getLsbD m && decide (c < e)) || decide (16 * c + passBytes m * passDeadline m < 16 * e)

/-- A scrubber's status (R264). -/
def DieState.scrubst (d : DieState) (i beat : Nat) : Word :=
  BitVec.ofNat 64 (d.passes.at i 0 * 2 ^ 32 + d.ue.at i 0 * 2 ^ 16 + boolBit (d.late.getLsbD i) 1 +
    boolBit (d.isBehind i beat) 0)

/-- The `pruned` bits of a routing word: set on every choice whose port is down (R244). -/
def pruneWord (up : BitVec 32) (w : Word) : Word :=
  (List.range 8).foldl (init := w) fun w c =>
    if up.getLsbD (bitsOf w.toNat (8 * c) 5) then w else w ||| BitVec.ofNat 64 (2 ^ (8 * c + 6))

/-- A word of a copy of the routing table (R239): entry `e`, half `h` has key 2e + h; `pruned` follows the ports. -/
def State.routeWord (s : State) (t : Tab Word) (k : Nat) : Word :=
  if k % 2 == 0 then pruneWord s.mod.portsUp (t.at k 0) else t.at k 0

def State.readDieReg (s : State) (n i : Nat) : Word :=
  let d := s.die n
  if !s.present n then 0
  else if i == 0x03 then BitVec.ofNat 64 d.mapst
  else if i == 0x11 then d.objst
  else if i == 0x20 then BitVec.ofNat 64 d.wfovf
  else if i == 0x30 then BitVec.ofNat 64 (d.scrubPeriod * 2 ^ 32 + d.wdog)
  else if i == 0x32 then BitVec.ofNat 64 d.mkst
  else if i == 0x40 then d.fabid.setWidth 64
  else if 0x41 ≤ i && i ≤ 0x48 then d.fcrate.at (i - 0x41) fcrateReset
  else if i == 0x49 then BitVec.ofNat 64 d.fcrcerr
  else if i == 0x4A then BitVec.ofNat 64 d.fkeydrop
  else if i == 0x4B then BitVec.ofNat 64 d.fctxfull
  else if i == 0x4C then BitVec.ofNat 64 d.flate
  else if i == 0x4E then BitVec.ofNat 64 d.rtst
  else if i == 0x4F then BitVec.ofNat 64 d.colltmo
  else if 0x80 ≤ i && i < 0xC0 then (d.fpk.at (i - 0x80) 0).setWidth 64
  else if 0xC0 ≤ i && i ≤ 0xC2 then d.scrubst (i - 0xC0) s.beat.toNat
  else if i == 0xC9 then BitVec.ofNat 64 (d.mmcount.at d.mmidx 0)
  else if i == 0xD0 then BitVec.ofNat 64 (boolBit d.auden 0 + d.audn * 2 ^ 3)
  else if i == 0xD1 then d.audarea
  else if i == 0xD2 then BitVec.ofNat 64 d.audskip
  else if 0x10000 ≤ i then s.routeWord d.routeShadow (i - 0x10000)
  else 0

def State.readTenantReg (s : State) (t i : Nat) : Word :=
  let x := s.tenant t
  if i < 8 then (x.lq i).cfg
  else if i < 0x10 then BitVec.ofNat 64 (x.lq (i - 8)).tail
  else if i < 0x18 then BitVec.ofNat 64 (x.lq (i - 0x10)).head
  else match i with
    | 0x18 => x.fqcfg
    | 0x19 => BitVec.ofNat 64 x.fqtail
    | 0x1A => BitVec.ofNat 64 x.fqhead
    | 0x1B => x.fqsig.setWidth 64
    | 0x20 => x.amoflags.setWidth 64
    | 0x21 => x.sqmask.setWidth 64
    | 0x22 => BitVec.ofNat 64 x.tshare
    | 0x23 => x.rsmcfg
    | 0x28 => x.hsqcfg
    | 0x29 => x.hcqcfg
    | 0x2A => BitVec.ofNat 64 x.hsqtail
    | 0x2B => BitVec.ofNat 64 x.hsacc
    | 0x2C => BitVec.ofNat 64 x.hsdone
    | 0x2D => BitVec.ofNat 64 x.hcqtail
    | 0x2E => BitVec.ofNat 64 x.hcqhead
    | 0x2F => x.hserr
    | 0x30 => x.trcfg
    | 0x31 => BitVec.ofNat 64 x.trtail
    | 0x32 => BitVec.ofNat 64 x.trhead
    | 0x33 => x.trmask.setWidth 64
    | 0x34 => BitVec.ofNat 64 x.trdrop
    | _ => 0

def State.readModuleReg (s : State) (i : Nat) : Word :=
  let m := s.mod
  if 0x10 ≤ i && i ≤ 0x13 then
    BitVec.ofNat 64 (ofBytes ((List.range 8).map fun b => m.bootByte (8 * (i - 0x10) + b)))
  else if 0x18 ≤ i && i ≤ 0x1B then BitVec.ofNat 64 (ofBytes ((identityPublic.drop (8 * (i - 0x18))).take 8))
  else if 0x40 ≤ i && i < 0x80 then m.ckreg.at (i - 0x40) 0
  else if 0x80 ≤ i && i < 0x100 then (m.stgcfg.at (i - 0x80) 0).setWidth 64
  else if 0x400 ≤ i then s.latencyWord (i - 0x400)
  else match i with
    | 0x00 => m.present.setWidth 64
    | 0x01 => m.gangGrace.setWidth 64
    | 0x02 => m.portsUp.setWidth 64
    | 0x04 => m.fnqcfg
    | 0x05 => BitVec.ofNat 64 m.fnqtail
    | 0x06 => BitVec.ofNat 64 m.fnqhead
    | 0x07 => m.fnqsig.setWidth 64
    | 0x20 => m.ckarea
    | 0x21 => BitVec.ofNat 64 (boolBit m.cklocal 0 + m.ckcls.toNat * 2 ^ 8 + m.ckslot * 2 ^ 24 + m.ckbuddy.toNat * 2 ^ 48)
    | 0x22 => m.ckstep.setWidth 64
    | 0x24 => BitVec.ofNat 64 (boolBit m.ckclean 0 + m.ckst * 2 ^ 8)
    | _ => 0

/-- A register's value; WO registers read zero (R8). -/
def State.readReg (s : State) (r : RegName) : Word :=
  match r.space with
  | 0 => s.readCoreReg r.unit r.index
  | 1 => s.readClusterReg r.unit r.index
  | 2 => s.readDieReg r.unit r.index
  | 3 => s.readTenantReg r.unit r.index
  | _ => s.readModuleReg r.index

/-- What a read does: a read of 2 clears `rtst` (R243). -/
def State.afterRead (s : State) (r : RegName) : State :=
  if r.space == 2 && r.index == 0x4E && (s.die r.unit).rtst == 2 then s.updDie r.unit fun d => { d with rtst := 0 } else s

/-! ### Writing -/

/-- Bits `[lo + n - 1 : lo]` of a word replaced by those of another. -/
def copyBits (old new : Word) (lo n : Nat) : Word :=
  let m := BitVec.ofNat 64 ((2 ^ n - 1) * 2 ^ lo)
  (old &&& ~~~m) ||| (new &&& m)

/-- A write to a ring configuration (R196): `base` and `size` do not change while `en` is 1. -/
def cfgWrite (old v : Word) : Word :=
  let w := if cfgEn old then old else copyBits old v 12 45
  let w := if cfgEn old || cfgSize v < 4 || 12 < cfgSize v then w else copyBits w v 4 4
  copyBits w v 0 1

/-- A write to `clsattr`: one that sets a reserved bit is refused; class 15 does not change (R165). -/
def clsattrWrite (v : Word) : Option Word :=
  if (List.range 15).any fun c => v.getLsbD (4 * c + 3) then none
  else some (copyBits clsattrReset v 0 60)

/-- Whether `n` bytes from `pa` lie in the home memory of present dies (R20). -/
def State.inHome (s : State) (pa n : Nat) : Bool :=
  let part (a b : Nat) : Nat := min (pa + n) b - max pa a
  ([0, 1, 2, 3].map fun d => if s.present d then
    part (d * 2 ^ 40) (d * 2 ^ 40 + 2 ^ 36) + part (d * 2 ^ 40 + 2 ^ 39) ((d + 1) * 2 ^ 40) else 0).foldl (· + ·) 0 == n

/-- A write to `rsmcfg` (R205). -/
def State.rsmWrite (s : State) (t : Nat) (v : Word) : State :=
  let old := (s.tenant t).rsmcfg
  let w := copyBits (copyBits old v 52 12) v 16 36
  let w := if rsmSize v == 0 then w else copyBits w v 8 8
  let area := rsmSlots w * rsmSize w * 65536
  if !(s.keptOf t).isEmpty || (area != 0 && !s.inHome (bitsOf w.toNat 16 36 * 65536) area) then s
  else s.updTenant t fun x => { x with rsmcfg := w }

/-- A write to `fcrate` (R238). -/
def fcrateWrite (old v : Word) : Word :=
  let w := if bitsOf v.toNat 48 16 == 0 then old else copyBits old v 48 16
  let w := if 8 < bitsOf v.toNat 8 4 then w else copyBits w v 8 4
  if bitsOf v.toNat 0 6 == 0 || 32 < bitsOf v.toNat 0 6 then w else copyBits w v 0 6

/-- A write to a shadow routing word (R239): `pruned` is hardware's, bits that are zero stay so. -/
def routeWrite (old v : Word) (half : Nat) : Word :=
  if half == 0 then
    (List.range 8).foldl (fun w c => copyBits (copyBits w v (8 * c) 5) v (8 * c + 7) 1) old
  else copyBits old v 0 50

/-- Bytes that a staging slice gives to direct use (R93). -/
def stgDirect (cfg : BitVec 14) : Nat := 3 * 2 ^ 20 - cfg.toNat % 16 * 2 ^ 18

/-- A write to `stgcfg` (R93, R94): units handed to direct use read zero. -/
def State.stgWrite (s : State) (g : Nat) (v : Word) : State :=
  let old := s.mod.stgcfg.at g 0
  let cache := if 12 < v.toNat % 16 then old.toNat % 16 else v.toNat % 16
  let new : BitVec 14 := BitVec.ofNat 14 (bitsOf v.toNat 8 6 * 2 ^ 8 + cache)
  let base := 0xE000000000000 + g * 2 ^ 22
  let s := s.zeroLoc (base + stgDirect old) (stgDirect new - stgDirect old)
  s.updMod fun m => { m with stgcfg := m.stgcfg.put g new }

/-- The direct portion of a die's staging slices holds an area (R266). -/
def State.inDirect (s : State) (die base n : Nat) : Bool :=
  if base < 0xE000000000000 then false else
  let g := (base - 0xE000000000000) / 2 ^ 22
  let off := (base - 0xE000000000000) % 2 ^ 22
  g / 32 == die && off + n ≤ stgDirect (s.mod.stgcfg.at g 0)

/-- A write to `audarea` (R266). -/
def State.audWrite (s : State) (die : Nat) (v : Word) : State :=
  let w := copyBits 0 v 16 48
  let n := bitsOf w.toNat 52 12 * 65536
  if n != 0 && !s.inDirect die (bitsOf w.toNat 16 36 * 65536) n then s
  else s.updDie die fun d => { d with audarea := w }

/-- The request of a caller with the argument registers it uses. -/
def Caller.request (c : Caller) (v : Word) (args : List Nat) : Request :=
  ⟨v, BitVec.ofNat 2 c.level, BitVec.ofNat 6 c.tenant, c.core.map (BitVec.ofNat 8), args⟩

/-- A write to `mapctl` (R98); op 0 reports status 9 at once. -/
def State.mapWrite (s : State) (c : Caller) (die : Nat) (v : Word) : State :=
  s.updDie die fun d =>
    if d.mapst == 1 then d
    else if bitsOf v.toNat 0 2 == 0 then { d with mapst := 9 }
    else { d with mapst := 1, mapReq := some (c.request v [d.mapva.toNat, d.mappa.toNat]) }

/-- A write to `objctl` (R178); op 0 reports status 9 at once. -/
def State.objWrite (s : State) (c : Caller) (die : Nat) (v : Word) : State :=
  s.updDie die fun d =>
    if d.objReq.isSome then d
    else if bitsOf v.toNat 0 2 == 0 then { d with objst := 9 }
    else { d with objst := 1, objReq := some (c.request v [d.objmask.toNat]) }

/-- The status that an `mkctl` request reports at once, if any (R230). Where several apply the rule does not say which is reported: 9 comes
before 8, and 8 before 2 (DESIGN CHOICE, log 16). -/
def State.mkCheck (s : State) (c : Caller) (v : Word) : Option Nat :=
  let op := bitsOf v.toNat 0 4
  let f (lo n : Nat) : Nat := bitsOf v.toNat lo n
  if f 32 32 != 0 || f 20 4 != 0 || f 14 2 != 0 || f 6 2 != 0 || op == 0 || 5 < op ||
      (op == 1 && (f 16 4 == 0 || 4 < f 16 4)) || (op == 4 && f 8 6 == 0) then some 9
  else if c.level < 2 && (op != 4 || f 8 6 != c.tenant) then some 8
  else if op == 3 && (!s.present (f 4 2) || c.core.any fun k => dieOf k == f 4 2) then some 2
  else if op ≤ 2 && !s.present (dieOf (f 24 8)) then some 2
  else none

/-- A write to `mkctl` (R230). -/
def State.mkWrite (s : State) (c : Caller) (die : Nat) (v : Word) : State :=
  if (s.die die).mkst == 1 then s else
  match s.mkCheck c v with
  | some n => s.updDie die fun d => { d with mkst := n }
  | none => s.updDie die fun d => { d with mkst := 1, mkReq := some (c.request v []) }

/-- The status a `ckctl` request reports at once, if any (R262). -/
def ckReserved (v : Word) : Bool :=
  bitsOf v.toNat 29 3 != 0 || bitsOf v.toNat 5 11 != 0 || bitsOf v.toNat 0 4 == 0 || 3 < bitsOf v.toNat 0 4

/-- A write to `ckctl`: not permitted below level M (R210, R262), and refused with status 1 during a snapshot (R260). -/
def State.ckWrite (s : State) (c : Caller) (v : Word) : State :=
  s.updMod fun m =>
    if ckReserved v then { m with ckst := 9 }
    else if c.level < 2 then { m with ckst := 8 }
    else if m.snap.isSome then { m with ckst := 1 }
    else if m.ckReq.isSome then m
    else { m with ckReq := some v, ckst := 1 }

/-! ### Debugger halts (R271) -/

/-- The streams of a core stop at their instruction boundary; a precise halt lets a stream inside the level go on to
its next ENDL of it. -/
def CoreState.haltStreams (k : CoreState) (op level : Nat) : CoreState :=
  let stop (t : StreamState) : StreamState :=
    if op == 3 && t.loops.any (fun e => e.id.toNat == level) then t else { t with halted := true }
  { k with c := stop k.c, a := stop k.a, x := stop k.x }

/-- A COLL in state 7 goes back to state 1 at its last mark. -/
def Ring.stopColl (r : Ring) (beat : BitVec 32) : Ring :=
  { r with slots := r.slots.map fun (i, x) =>
      (i, if x.st.state == 7 && vecBits x.bytes 0 8 == 0x30 then
            { x with st := { x.st with state := 1, beat := beat }, performed := false, coll := x.coll.map fun c => { c with out := false } } else x) }

/-- A context whose streams a halt lets go on, and one that a halt stops. -/
def CoreState.unhalt (k : CoreState) : CoreState :=
  { k with halt := none, c := { k.c with halted := false }, a := { k.a with halted := false }, x := { k.x with halted := false } }

/-- The halt of a context takes effect (R271). -/
def CoreState.applyHalt (k : CoreState) (beat : BitVec 32) : CoreState :=
  match k.halt with
  | none => k
  | some h => { k.haltStreams h.op h.level with ringG := if h.op == 2 then k.ringG.stopColl beat else k.ringG }

/-- The saved job that left a core which runs none: a halt written now applies to it at restore (R271). -/
def State.savedOn (s : State) (core : Nat) : Option Saved :=
  if (s.core core).job.isSome then none else s.mod.saved.find? (·.core.toNat == core)

def State.updSaved (s : State) (id : Nat) (f : CoreState → CoreState) : State :=
  s.updMod fun m => { m with saved := m.saved.map fun x => if x.id == id then { x with ctx := f x.ctx } else x }

/-- A core halts now, with its trace event. -/
def State.haltNow (s : State) (core : Nat) : State :=
  (s.updCore core fun k => k.applyHalt (s.beat.setWidth 32)).trace core .c 8 6 0 0 0

/-- Ops 1-3: soft, hard and precise halt. A halt of a core that is being pre-empted, or of a saved job, applies at restore. -/
def State.haltCore (s : State) (core op level : Nat) : State :=
  let bad (k : CoreState) : Bool := op == 3 && (k.loopRow level).kind != 1
  match s.savedOn core with
  | some x => if bad x.ctx then s else s.updSaved x.id fun k => { k with halt := some ⟨op, level⟩ }
  | none =>
    if bad (s.core core) then s
    else
      let s := s.updCore core fun k => { k with halt := some ⟨op, level⟩ }
      if (s.core core).preempting then s else s.haltNow core

/-- Op 4. -/
def State.unhaltCore (s : State) (core : Nat) : State :=
  match s.savedOn core with
  | some x => s.updSaved x.id (·.unhalt)
  | none => s.updCore core fun k =>
      let k := k.unhalt
      let on (t : StreamState) : StreamState := { t with since := s.tick.toNat }
      { k with c := on k.c, a := on k.a, x := on k.x, xTick := s.fine }

/-- A write to `dbgctl`: level S reaches only its own tenant's cores (R271). Other ops are ignored. -/
def State.dbgWrite (s : State) (c : Caller) (v : Word) : Except (Nat × Nat) State :=
  let core := bitsOf v.toNat 0 8
  let op := bitsOf v.toNat 8 4
  let job := match s.savedOn core with
    | some x => x.ctx.job
    | none => (s.core core).job
  if c.level < 2 && !(job.any fun j => j.tenant.toNat == c.tenant) then .error (causePrivilege, 0)
  else if op == 4 then .ok (s.unhaltCore core)
  else if 1 ≤ op && op ≤ 3 then .ok (s.haltCore core op (bitsOf v.toNat 12 4))
  else .ok s

/-! ### Writes by space -/

def causeIllegal4 : Nat × Nat := (causeIllegal, 4)

/-- A write to X's registers waits for X to pop the `q6` entry that C pushes next (R66); repeated after a rollback of C, it is the one
that waits already. R66 speaks of C's SYSWR only: a write through system space (R383) waits in the same way (DESIGN CHOICE, log 38). -/
def State.xfpWrite (s : State) (core i : Nat) (v : Word) : State :=
  let k := s.core core
  let place := k.c.pushed (chQueue 6)
  let old := k.xfp.find? fun e => e.reg == i && e.place == place && e.value == v
  let (key, s) := match old with
    | some e => (e.key, s)
    | none => s.draw
  let e := old.getD ⟨i, place, v, k.x.fpTop, key⟩
  s.updCore core fun k => { k with xfp := k.xfp.filter (· != e) ++ [e] }

def State.writeCoreReg (s : State) (core i : Nat) (v : Word) : Except (Nat × Nat) State :=
  let badMode := 5 ≤ v.toNat % 8
  match i with
  | 0x00 => if badMode then .error causeIllegal4
            else .ok (s.updStr core .c fun t => { t with fpctl := v.setWidth 3 })
  | 0x01 => .ok (s.updStr core .c fun t => { t with fpflags := v.setWidth 5 })
  | 0x02 => .ok (s.updStr core .c fun t => { t with seed := v })
  | 0x04 => if badMode then .error causeIllegal4 else .ok (s.xfpWrite core 0 (v &&& 7))
  | 0x05 => .ok (s.xfpWrite core 1 (v &&& 31))
  | 0x06 => .ok (s.xfpWrite core 2 v)
  | 0x09 => match clsattrWrite v with
    | none => .error causeIllegal4
    | some w => .ok (s.updCore core fun k => { k with clsattr := w })
  | 0x12 =>
    let n := v.toNat % 128
    .ok (if n == 0 || 64 < n then s else s.updCore core fun k => { k with leaseRun := BitVec.ofNat 7 n })
  | _ => .ok s

/-- A write of ones to `late` (R264). -/
def DieState.scrubWrite (d : DieState) (i : Nat) (v : Word) : DieState :=
  if v.getLsbD 1 then { d with late := d.late &&& ~~~(BitVec.ofNat 3 (2 ^ i)) } else d

def State.writeDieReg (s : State) (c : Caller) (n i : Nat) (v : Word) : Except (Nat × Nat) State :=
  let upd (f : DieState → DieState) : Except (Nat × Nat) State := .ok (s.updDie n f)
  if !s.present n then .ok s
  else if 0x12 ≤ i && i ≤ 0x15 then upd fun d =>
    { d with objmask := (d.objmask &&& ~~~(BitVec.ofNat 256 ((2 ^ 64 - 1) * 2 ^ (64 * (i - 0x12))))) |||
        BitVec.ofNat 256 (v.toNat * 2 ^ (64 * (i - 0x12))) }
  else if 0x41 ≤ i && i ≤ 0x48 then upd fun d =>
    { d with fcrate := d.fcrate.upd (i - 0x41) fcrateReset fun w => fcrateWrite w v }
  else if 0x80 ≤ i && i < 0xC0 then upd fun d => { d with fpkShadow := d.fpkShadow.put (i - 0x80) (v.setWidth 16) }
  else if 0xC0 ≤ i && i ≤ 0xC2 then upd fun d => d.scrubWrite (i - 0xC0) v
  else if 0x10000 ≤ i then upd fun d =>
    { d with routeShadow := d.routeShadow.upd (i - 0x10000) 0 fun w =>
        routeWrite w v (i % 2) }
  else match i with
    | 0x00 => .ok (s.mapWrite c n v)
    | 0x01 => upd fun d => { d with mapva := v &&& 0x01FFFFFFFFFFFFFF#64 }
    | 0x02 => upd fun d => { d with mappa := v &&& 0x000FFFFFFFFFFFFF#64 }
    | 0x10 => .ok (s.objWrite c n v)
    | 0x30 => upd fun d =>
      { d with scrubPeriod := if bitsOf v.toNat 32 8 == 0 then d.scrubPeriod else bitsOf v.toNat 32 8,
               wdog := if bitsOf v.toNat 0 16 < 16 then d.wdog else bitsOf v.toNat 0 16 }
    | 0x31 => .ok (s.mkWrite c n v)
    | 0x40 => upd fun d => { d with fabid := v.setWidth 16 }
    | 0x4D => upd fun d => { d with rtswap := v, rtst := 1 }
    | 0x4F => upd fun d => { d with colltmo := v.toNat }
    | 0xC8 => upd fun d => { d with mmidx := v.toNat }
    | 0xCA => upd fun d => { d with mmcount := d.mmcount.del d.mmidx }
    | 0xD0 => upd fun d =>
      { d with auden := v.getLsbD 0, audn := if 16 < bitsOf v.toNat 3 5 then d.audn else bitsOf v.toNat 3 5 }
    | 0xD1 => .ok (s.audWrite n v)
    | 0xE0 => s.dbgWrite c v
    | _ => .ok s

/-- `lqtail` (R196): a value below `lqhead` or more than the ring above it is ignored. What an earlier record of the same number, 2^32
records ago, has left behind goes (R197). -/
def LaunchQueue.tailWrite (l : LaunchQueue) (v : Nat) : LaunchQueue :=
  let above (n : Nat) : Nat := (n + 2 ^ 32 - l.head) % 2 ^ 32
  let v := v % 2 ^ 32
  if 2 ^ cfgSize l.cfg < above v then l
  else { l with tail := v, progress := l.progress.filter fun e => above e.1 < above l.tail || above v ≤ above e.1 }

/-- `hsqtail` (R253): a value below `hsacc` is ignored; a write lets submissions be taken again. -/
def TenantState.hsqtailWrite (x : TenantState) (v : Nat) : TenantState :=
  if v < x.hsacc then x else { x with hsqtail := v, hsStopped := false }

def State.writeTenantReg (s : State) (c : Caller) (t i : Nat) (v : Word) : Except (Nat × Nat) State :=
  let upd (f : TenantState → TenantState) : Except (Nat × Nat) State := .ok (s.updTenant t f)
  let n32 := v.toNat % 2 ^ 32
  if i < 8 then .ok (s.updLq t i fun l => { l with cfg := cfgWrite l.cfg v }).noteReady
  else if i < 0x10 then .ok (s.updLq t (i - 8) (·.tailWrite v.toNat)).noteReady
  else match i with
    | 0x18 => upd fun x => { x with fqcfg := cfgWrite x.fqcfg v }
    | 0x1A => upd fun x => { x with fqhead := n32 }
    | 0x1B => upd fun x => { x with fqsig := v.setWidth 32 }
    | 0x1C => upd fun x => { x with fqresn := v }
    | 0x1D => .ok (s.resolve c.level t (s.tenant t).fqresn.toNat (if c.level == 2 then copyBits v (BitVec.ofNat 64 (t * 256)) 8 6 else v))
    | 0x20 => upd fun x => { x with amoflags := x.amoflags &&& ~~~(v.setWidth 5) }
    | 0x21 => upd fun x => { x with sqmask := v.setWidth 8 }
    | 0x22 => upd fun x => { x with tshare := v.toNat % 256 }
    | 0x23 => .ok (s.rsmWrite t v)
    | 0x28 => upd fun x => { x with hsqcfg := cfgWrite x.hsqcfg v }
    | 0x29 => upd fun x => { x with hcqcfg := cfgWrite x.hcqcfg v }
    | 0x2A => upd (·.hsqtailWrite v.toNat)
    | 0x2E => upd fun x => { x with hcqhead := v.toNat }
    | 0x30 => upd fun x => { x with trcfg := cfgWrite x.trcfg v }
    | 0x32 => upd fun x => { x with trhead := n32 }
    | 0x33 => upd fun x => { x with trmask := v.setWidth 16 }
    | _ => .ok s

def State.writeModuleReg (s : State) (c : Caller) (i : Nat) (v : Word) : State :=
  if 0x40 ≤ i && i < 0x80 then s.updMod fun m => { m with ckreg := m.ckreg.put (i - 0x40) (copyBits 0 v 16 48) }
  else if 0x80 ≤ i && i < 0x100 then s.stgWrite (i - 0x80) v
  else match i with
    | 0x01 => s.updMod fun m => { m with gangGrace := v.setWidth 32 }
    | 0x04 => s.updMod fun m => { m with fnqcfg := cfgWrite m.fnqcfg v }
    | 0x06 => s.updMod fun m => { m with fnqhead := v.toNat % 2 ^ 32 }
    | 0x07 => s.updMod fun m => { m with fnqsig := v.setWidth 32 }
    | 0x14 => s.updMod fun m => { m with bootClear := m.bootClear || v.getLsbD 0 }
    | 0x20 => s.updMod fun m => { m with ckarea := v }
    | 0x21 => s.updMod fun m =>
      { m with ckbuddy := BitVec.ofNat 16 (bitsOf v.toNat 48 16), ckslot := bitsOf v.toNat 24 24,
               ckcls := BitVec.ofNat 3 (bitsOf v.toNat 8 3), cklocal := v.getLsbD 0 }
    | 0x22 => s.updMod fun m => { m with ckstep := v.setWidth 32 }
    | 0x23 => s.ckWrite c v
    | _ => s

/-- A write to a register; RO registers ignore it (R8). A refusal that the register's map states is an error. -/
def State.writeReg (s : State) (c : Caller) (r : RegName) (v : Word) : Except (Nat × Nat) State :=
  match r.space with
  | 0 => s.writeCoreReg r.unit r.index v
  | 1 => .ok s
  | 2 => s.writeDieReg c r.unit r.index v
  | 3 => s.writeTenantReg c r.unit r.index v
  | _ => .ok (s.writeModuleReg c r.index v)

/-- A checked read and a checked write (R381). -/
def State.regRd (s : State) (c : Caller) (r : RegName) : Except (Nat × Nat) (Word × State) :=
  match regCheck c r false with
  | some e => .error e
  | none => .ok (s.readReg r, s.afterRead r)

def State.regWr (s : State) (c : Caller) (r : RegName) (v : Word) : Except (Nat × Nat) State :=
  match regCheck c r true with
  | some e => .error e
  | none => s.writeReg c r v

/-- The job of a core as a caller. -/
def State.caller (s : State) (core : Nat) : Caller := ⟨s.levelOf core, s.tenantOf core, some core⟩

/-! ### SYSRD and SYSWR -/

def execSysrd (g : Guard) (d a : BitVec 5) (s : State) : Out :=
  .next (s.issue (.sysrd g d a) 0 (some g) fun s =>
    match regOfNumber s.fcore ((s.me.rs a).toNat % 2 ^ 32) with
    | none => s.trap causeIllegal 4
    | some r =>
      match s.regRd (s.caller s.fcore) r with
      | .error e => s.trap e.1 e.2
      | .ok (v, s) => s.writeS d v)

/-- A write to `clsattr` waits for the earlier accesses of the core's streams (R165). -/
def syswrBody (a b : BitVec 5) (s : State) : State :=
  match regOfNumber s.fcore ((s.me.rs a).toNat % 2 ^ 32) with
  | none => s.trap causeIllegal 4
  | some r =>
    if r.space == 0 && r.index == 0x09 && !s.performed s.fcore .a then s.stall .stall
    else match s.advance.regWr (s.caller s.fcore) r (s.me.rs b) with
      | .error e => s.trap e.1 e.2
      | .ok s => s

def execSyswr (g : Guard) (a b : BitVec 5) (s : State) : Out :=
  .next (s.issue (.syswr g a b) 0 (some g) (syswrBody a b))

/-! ### Writes and accesses from the host (R250, R383) -/

/-- The host's context of a tenant: level S, or M for tenant 0 (R250). -/
def hostCaller (who : BitVec 6) : Caller := ⟨if who == 0 then 2 else 1, who.toNat, none⟩

/-- The Edzan Link port that carries a host access: the one named, or while that one is down the other (R19, R233). -/
def State.hostPort (s : State) (port : Nat) : Option Nat :=
  if s.edzanUp port then some port else if s.edzanUp (1 - port) then some (1 - port) else none

/-- An access of the host to a register, over either Edzan Link port: performed, or answered with an error reply (R19, R250, R383). -/
def State.hostReg (s : State) (r : Option RegName) (body : RegName → Except (Nat × Nat) State) : State :=
  if (s.hostPort 0).isNone then { s with hostReply := .error causeHostUnreachable }
  else match r with
    | none => { s with hostReply := .error causeBadPhys }
    | some r =>
      match body r with
      | .error e => { s with hostReply := .error e.1 }
      | .ok s => s

/-- The host's write to a register. -/
def State.hostWrite (s : State) (who : BitVec 6) (r : Option RegName) (v : Word) : State :=
  s.hostReg r fun r => (s.regWr (hostCaller who) r v).map fun s => { s with hostReply := .done }

/-- The host's read of a register. -/
def State.hostRead (s : State) (who : BitVec 6) (r : Option RegName) : State :=
  s.hostReg r fun r => (s.regRd (hostCaller who) r).map fun (w, s) =>
    { s with hostReply := .data ((bytesOf 8 w.toNat).map (BitVec.ofNat 8)) }

def execStgcfgCacheWrite (who : BitVec 6) (slice : BitVec 7) (v : Word) (s : State) : Out :=
  .next (s.hostWrite who (some ⟨4, 0, 0x80 + slice.toNat⟩) v)
def execLqtailWrite (who tenant : BitVec 6) (q : BitVec 3) (v : Word) (s : State) : Out :=
  .next (s.hostWrite who (some ⟨3, tenant.toNat, 8 + q.toNat⟩) v)
def execFqresWrite (who tenant : BitVec 6) (v : Word) (s : State) : Out :=
  .next (s.hostWrite who (some ⟨3, tenant.toNat, 0x1D⟩) v)
def execRtswapWrite (who : BitVec 6) (die : BitVec 2) (v : Word) (s : State) : Out :=
  .next (s.hostWrite who (some ⟨2, die.toNat, 0x4D⟩) v)
def execBootclrWrite (who : BitVec 6) (v : Word) (s : State) : Out :=
  .next (s.hostWrite who (some ⟨4, 0, 0x14⟩) v)
def execMmclrWrite (who : BitVec 6) (die : BitVec 2) (v : Word) (s : State) : Out :=
  .next (s.hostWrite who (some ⟨2, die.toNat, 0xCA⟩) v)
def execSysregWrite (who : BitVec 6) (n : BitVec 32) (v : Word) (s : State) : Out :=
  .next (s.hostWrite who (regOfSpace n.toNat) v)
def execHsqtailWrite (who tenant : BitVec 6) (v : Word) (s : State) : Out :=
  .next (s.hostWrite who (some ⟨3, tenant.toNat, 0x2A⟩) v)

/-- The register at a physical address of system space: an aligned 8-byte unit of R383. -/
def sysSpaceReg (pa : Nat) : Option RegName :=
  if 0xF000000000000 ≤ pa && pa % 8 == 0 then (regOfSpace ((pa - 0xF000000000000) / 8)).filter (·.levels.isSome) else none

/-- One 8-byte access of the host to system space. -/
def execSystemSpaceAccess (who : BitVec 6) (addr : Word) (write : Bool) (v : Word) (s : State) : Out :=
  .next (if write then s.hostWrite who (sysSpaceReg addr.toNat) v else s.hostRead who (sysSpaceReg addr.toNat))

/-- Where a host access lands: in the host's own memory, or in home memory or the direct portion of staging, reached from the port's die
(R250); else the cause of its error reply. -/
def State.hostTarget (s : State) (port : Nat) (pa n : Nat) : Except Nat Nat :=
  if 2 ^ 51 ≤ pa && pa + n ≤ 3 * 2 ^ 50 then .ok pa
  else match s.hostPort port with
    | none => .error causeHostUnreachable
    | some p =>
      match s.physTarget ⟨0, 2, 64 * p⟩ .read pa pa with
      | .error f => .error f.cause
      | .ok (.home k) => if s.inHome pa n then .ok k else .error causeBadPhys
      | .ok (.staging k) => if s.inDirect ((pa - 0xE000000000000) / 2 ^ 27) pa n then .ok k else .error causeBadPhys
      | .ok _ => .error causeBadPhys

/-- A chunk that bytes lie in and that a snapshot has still to copy. -/
def State.heldChunk (s : State) (k n : Nat) : Option Nat :=
  ((List.range ((k % 65536 + n + 65535) / 65536)).map fun i => (k / 65536 + i) * 65536).find? s.pendingChunk

/-- A host access to memory; a failed access is an error reply. A reserved address is recorded for the tenant of the host's context
(R22). A write into a chunk that a snapshot has still to copy waits: the chunk is copied next (R260). -/
def execHostMemoryAccess (port : HostSide) (addr : Word) (write : Bool) (data : List Byte) (s : State) : Out :=
  let n := data.length
  match s.hostTarget (if port.port then 1 else 0) addr.toNat n with
  | .error c =>
    let s : State := { s with hostReply := .error c }
    if c != causeBadPhys || 0xF000000000000 ≤ addr.toNat then .next s
    else
      let t := port.who.toNat
      .next (s.event t { s.eventFrame causeBadPhys 0 0 t with
        addrValid := true, addr := addr, access := if write then 1 else 0, level := (hostCaller port.who).level })
  | .ok k =>
    match (if write then s.heldChunk k n else none) with
    | some c => .next { s.hurryChunk c with hostReply := .none }
    | none =>
      if write then .next { s.writeLoc k (data.map (·.toNat)) with hostReply := .done }
      else if (s.ecc .read k n k).isSome then .next { s with hostReply := .error causeUncorrectable }
      else .next { s with hostReply := .data ((s.readLoc k n).map (BitVec.ofNat 8)) }

end Sys2Proof.Machine
end

