-- ==== Sys2Proof/Machine/Access.lean ====
section
/-! DEFINITION. The accesses of the streams to memory: where they land and what stops them (R84-R101, R131, R163-R167),
the lines of `CWAY` banks, stream A's address queue (R217), and the instructions LD, LDS, ST, LDQ, STQ, GATH, SCAT, AMO,
KLD, KST, PREF and CFLUSH (R295, R307, R330, R338, R340-R342, R368, R375, R379, R380). -/

namespace Sys2Proof.Machine

/-! ### Where an access lands -/

/-- What an access meets: a place, a place it must wait for, a page whose walk it must wait for, or a fault. -/
inductive Spot where
  | at (t : Target)
  | wait
  | miss (va : Nat)
  | fault (f : AccFault)
  deriving DecidableEq, Repr

/-- An access to a cluster SRAM bank by a stream (R86-R88). -/
def State.sramSpot (s : State) (w : Who) (cl off va : Nat) : Spot :=
  let b := (s.cluster cl).bank (off / 32768)
  if b.pend.isSome then .wait
  else if !bankTenantOk b w then .fault ⟨causeCrossTenant, 0, va⟩
  else if b.mode != 1 then .fault ⟨causeBankMode, 0, va⟩
  else .at (.sram cl off)

/-- An access to accumulator memory (R131, R133); `width` says that R92 permits its width. -/
def State.accSpot (s : State) (w : Who) (width : Bool) (cl off va : Nat) : Spot :=
  let b := (s.cluster cl).accb (off / 32768)
  if !width then .fault ⟨causeAccWidth, 0, va⟩
  else match accCheck b w with
    | some c => .fault ⟨c, 0, va⟩
    | none => if b.busy then .wait else .at (.acc cl off)

/-- A place is read without an uncorrectable error. -/
def State.sound (s : State) (kind : AccKind) (n va : Nat) : Spot → Spot
  | .at t => match s.ecc kind t.key n va with
    | some f => .fault f
    | none => .at t
  | x => x

/-- An aligned access of a stream to `n` bytes; system space takes 8-byte accesses to registers only (R383). -/
def State.spot (s : State) (w : Who) (kind : AccKind) (accOk : Bool) (va n : Nat) : Spot :=
  if s.walking w kind va then .miss va
  else match s.translate w kind va with
  | .error f => .fault f
  | .ok (.sram cl off) => s.sound kind n va (s.sramSpot w cl off va)
  | .ok (.acc cl off) => s.sound kind n va (s.accSpot w accOk cl off va)
  | .ok (.sys pa) =>
    if n == 8 && (sysSpaceReg pa).isSome then .at (.sys pa) else .fault ⟨causeBadPhys, 0, pa⟩
  | .ok t => s.sound kind n va (.at t)

/-! ### Lines of `CWAY` banks (R165-R167, DESIGN CHOICE, log 9) -/

def ClusterState.cwayBanks (c : ClusterState) : List Nat := (List.range 64).filter fun b => (c.bank b).mode == 2

/-- Fills a line into a way: one is free, or holds 256 lines, of which one is replaced. Which way and which line are free
choices. -/
def State.fillLine (s : State) (cl line : Nat) : State :=
  let c := s.cluster cl
  let bs := c.cwayBanks
  let (v, s) := s.draw
  let rest := c.cway.filter fun l => l.pa != line
  match bs[v % bs.length]? with
  | none => s
  | some b =>
    let held := rest.filter (·.bank == b)
    let rest := if held.length < 256 then rest else
      match held[v % 256]? with
      | some l => rest.filter (· != l)
      | none => rest
    s.updCluster cl fun c => { c with cway := rest ++ [⟨b, line, BitVec.ofNat 1024 (ofBytes (s.readLoc line 128))⟩] }

/-- Class `c` lets reads be served from `CWAY` banks: its `cway` is set and its `dev` is not. -/
def classCway (attr : Word) (c : Nat) : Bool := attr.getLsbD (4 * c) && !attr.getLsbD (4 * c + 1)

/-- A read of memory in a `cway` class: from a held line, or from a line filled now, or from the point of order. -/
def State.cwayRead (s : State) (cl pa n : Nat) : List Nat × State :=
  let line := pa / 128 * 128
  let (v, s) := s.draw
  match (s.cluster cl).cway.find? (·.pa == line) with
  | some l =>
    if v % 2 == 0 then ((bytesOf 128 l.data.toNat).drop (pa - line) |>.take n, s)
    else (s.readLoc pa n, s.fillLine cl line)
  | none => (s.readLoc pa n, if v % 2 == 0 then s.fillLine cl line else s)

/-! ### TLBs (R100, DEDUCED, log 10) -/

/-- A TLB of `n` entries takes one, of a page that is mapped or of one that is not; which entry gives way is not stated, and nothing can
tell (DEDUCED, log 10). -/
def tlbFill (n : Nat) (l : List (Nat × Nat)) (k : Nat × Nat) : List (Nat × Nat) := (l.filter (· != k) ++ [k]).drop (l.length + 1 - n)

/-- One of the 64 walks under way, those of the oldest misses, finishes; which one is a free choice. The TLBs of the die, and of the
cores that waited and of their clusters, take the entry. -/
def execTlbWalkComplete (die : BitVec 2) (s : State) : Out :=
  let d := die.toNat
  let l := (s.die d).missTable
  let (v, s) := s.draw
  match l[v % min 64 l.length]? with
  | none => .next s
  | some m =>
    let k := (m.1, m.2.1)
    let s := s.updDie d fun x => { x with missTable := x.missTable.filter (· != m), tlb := tlbFill 32768 x.tlb k }
    .next (m.2.2.foldl (init := s) fun s c =>
      (s.updCluster (clusterOf c) fun x => { x with tlb := tlbFill 1024 x.tlb k }).updCore c fun x =>
        { x with tlb := tlbFill 64 x.tlb k })

/-! ### Reads and writes -/

/-- How an access ends. -/
inductive Access (α : Type) where
  | ok (x : α)
  | wait
  | miss (va : Nat)
  | fault (f : AccFault)
  deriving DecidableEq, Repr

/-- A read of `n` aligned bytes in a class by a stream of a core. -/
def State.readAs (s : State) (core : Nat) (accOk : Bool) (cls va n : Nat) : Access (List Nat × State) :=
  match s.spot (s.who core) .read accOk va n with
  | .fault f => .fault f
  | .wait => .wait
  | .miss va => .miss va
  | .at (.sys pa) =>
    match sysSpaceReg pa with
    | none => .fault ⟨causeBadPhys, 0, pa⟩
    | some r =>
      match s.regRd (s.caller core) r with
      | .error e => .fault ⟨e.1, e.2, va⟩
      | .ok (v, s) => .ok (bytesOf 8 v.toNat, s)
  | .at t =>
    if classCway (s.core core).clsattr cls && va < 2 ^ 56 then .ok (s.cwayRead (clusterOf core) t.key n)
    else .ok (s.readLoc t.key n, s)

/-- Bytes are written at a place; a line that the cluster holds is updated. -/
def State.storeAt (s : State) (cl : Nat) (t : Target) (bs : List Nat) : State :=
  let s := s.writeLoc t.key bs
  if t.isMemory then s.cwayWritten cl t.key bs else s

/-- A write of aligned bytes by a stream of a core. -/
def State.writeAs (s : State) (core : Nat) (accOk : Bool) (va : Nat) (bs : List Nat) : Access State :=
  match s.spot (s.who core) .write accOk va bs.length with
  | .fault f => .fault f
  | .wait => .wait
  | .miss va => .miss va
  | .at (.sys pa) =>
    match sysSpaceReg pa with
    | none => .fault ⟨causeBadPhys, 0, pa⟩
    | some r =>
      match s.regWr (s.caller core) r (BitVec.ofNat 64 (ofBytes bs)) with
      | .error e => .fault ⟨e.1, e.2, va⟩
      | .ok s => .ok s
  | .at t => .ok (s.storeAt (clusterOf core) t bs)

/-- Stream C reaches accumulator words of 4 and 8 bytes (R92). -/
def wordAccess (l : Lane) (n : Nat) : Bool := l == .c && (n == 4 || n == 8)

/-- The issuing stream's access ends: it performs, waits, waits for a walk, or faults. -/
def State.settle (s : State) (kind : AccKind) (cls n : Nat) : Access State → State
  | .fault f => s.trapAccess f kind cls n
  | .wait => s.stall .stall
  | .miss va => (s.noteMiss s.fcore va).stall .stall
  | .ok s => s

/-- A precise access of the issuing stream: it is aligned, follows the address queue, and performs, waits or faults. A misaligned address
takes the alignment fault of the instruction's entry wherever it lies, before any access is made that R131 could check (DEDUCED, log 68). -/
def State.precise (s : State) (kind : AccKind) (va : Word) (cls n : Nat) (body : Access State) : State :=
  if va.toNat % n != 0 then s.trapAlign va kind cls n
  else if !s.performed s.fcore s.focusLane then s.stall .stall
  else s.settle kind cls n body

def Access.bind {α β : Type} (x : Access α) (f : α → Access β) : Access β :=
  match x with
  | .ok a => f a
  | .wait => .wait
  | .miss va => .miss va
  | .fault e => .fault e

def Access.map {α β : Type} (x : Access α) (f : α → β) : Access β :=
  match x with
  | .ok a => .ok (f a)
  | .wait => .wait
  | .miss va => .miss va
  | .fault e => .fault e

/-! ### LD, LDS, ST -/

def loadBody (d a : BitVec 5) (c : BitVec 4) (z : BitVec 2) (o : BitVec 6) (ext : Nat → Nat → Word) (s : State) : State :=
  let n := sizeOf z
  let va := memAddr (s.me.ra a) n o
  s.precise .read va c.toNat n
    ((s.readAs s.fcore (wordAccess s.focusLane n) c.toNat va.toNat n).map fun (bs, s) => s.writeS d (ext n (ofBytes bs)))

def zeroExt (_ x : Nat) : Word := BitVec.ofNat 64 x
def signExt (n x : Nat) : Word := BitVec.ofInt 64 (toSigned (8 * n) x)

def execLd (g : Guard) (d a : BitVec 5) (c : BitVec 4) (z : BitVec 2) (o : BitVec 6) (s : State) : Out :=
  .next (s.issue (.ld g d a c z o) 0 (some g) (loadBody d a c z o zeroExt))

def execLds (g : Guard) (d a : BitVec 5) (c : BitVec 4) (z : BitVec 2) (o : BitVec 6) (s : State) : Out :=
  .next (s.issue (.lds g d a c z o) 0 (some g) (loadBody d a c z o signExt))

/-- The low bytes of a scalar. -/
def lowBytes (n : Nat) (x : Word) : List Nat := bytesOf n x.toNat

/-- A write to `clsattr` through system space waits as SYSWR does (R165). -/
def storeBody (d a : BitVec 5) (c : BitVec 4) (z : BitVec 2) (o : BitVec 6) (s : State) : State :=
  let n := sizeOf z
  let va := memAddr (s.me.ra a) n o
  s.precise .write va c.toNat n
    (s.advance.writeAs s.fcore (wordAccess s.focusLane n) va.toNat (lowBytes n (s.me.rs d)))

def execSt (g : Guard) (d a : BitVec 5) (c : BitVec 4) (z : BitVec 2) (o : BitVec 6) (s : State) : Out :=
  .next (s.issue (.st g d a c z o) 0 (some g) (storeBody d a c z o))

/-! ### KLD, KST -/

def execKld (g : Guard) (k : BitVec 3) (r : BitVec 5) (c : BitVec 4) (s : State) : Out :=
  .next (s.issue (.kld g k r c) 0 (some g) fun s =>
    let va := s.me.ra r
    s.precise .read va c.toNat 128 ((s.readAs s.fcore false c.toNat va.toNat 128).map fun (bs, s) =>
      s.updMe fun t => (t.wk k (BitVec.ofNat 1024 (ofBytes bs))).done))

def execKst (g : Guard) (k : BitVec 3) (r : BitVec 5) (c : BitVec 4) (s : State) : Out :=
  .next (s.issue (.kst g k r c) 0 (some g) fun s =>
    let va := s.me.ra r
    s.precise .write va c.toNat 128 (s.advance.writeAs s.fcore false va.toNat (bytesOf 128 (s.me.rk k).toNat)))

/-! ### AMO (R176, R184, R185, R295) -/

/-- The new value: none where a cas fails. `n` is the width in bytes. -/
def amoNew (op n old x y : Nat) : Option Nat × Flags :=
  let w := 8 * n
  let f := if n == 4 then fF32 else fF64
  match op with
  | 0 => (some ((old + x) % 2 ^ w), 0)
  | 1 => (some (old &&& x), 0)
  | 2 => (some (old ||| x), 0)
  | 3 => (some (old ^^^ x), 0)
  | 4 => (some (if toSigned w old ≤ toSigned w x then old else x), 0)
  | 5 => (some (if toSigned w old ≤ toSigned w x then x else old), 0)
  | 6 => (some (min old x), 0)
  | 7 => (some (max old x), 0)
  | 8 => (some x, 0)
  | 9 => (if old == x then some y else none, 0)
  | _ => let (r, fl) := f.add 0 0 (f.decode old) (f.decode x); (some r, fl)

/-- A location an AMO may reach: memory that is not private to a cluster (R176). -/
def State.amoSpot (s : State) (va n : Nat) : Access Target :=
  if s.walking (s.who s.fcore) .rmw va then .miss va
  else match s.translate (s.who s.fcore) .rmw va with
  | .error f => .fault f
  | .ok t =>
    if !t.isMemory then .fault ⟨causeWindow, 0, va⟩
    else match s.ecc .rmw t.key n va with
      | some f => .fault f
      | none => .ok t

def State.amoFlags (s : State) (f : Flags) : State :=
  let s := s.updTenant (s.tenantOf s.fcore) fun x => { x with amoflags := x.amoflags ||| f }
  if s.focusLane == .c then s.orFlags f else s

def amoBody (d a : BitVec 5) (c : BitVec 4) (wide : Bool) (o : BitVec 4) (s : State) : State :=
  let n := if wide then 8 else 4
  let va := s.me.ra a
  let low (x : Word) : Nat := x.toNat % 2 ^ (8 * n)
  s.precise .rmw va c.toNat n ((s.amoSpot va.toNat n).map fun t =>
      let old := ofBytes (s.readLoc t.key n)
      let (new, fl) := amoNew o.toNat n old (low (s.me.rs d)) (low (s.me.rs (d + 1)))
      let s := match new with
        | some v => s.storeAt (clusterOf s.fcore) t (bytesOf n v)
        | none => s
      (s.amoFlags fl).writeS d (BitVec.ofNat 64 old))

def execAmo (g : Guard) (d a : BitVec 5) (c : BitVec 4) (w r q : Bool) (o : BitVec 4) (s : State) : Out :=
  .next (s.issue (.amo g d a c w r q o) 0 (some g) (amoBody d a c w o))

/-! ### The address queue (R217, R331) -/

def aqLimit : Nat := 32

/-- How the attempt of an entry ends. -/
inductive AqEnd where
  | done
  | wait
  | fault (f : AccFault) (kind : AccKind) (cls n : Nat)
  deriving DecidableEq, Repr

/-- Every page that some accesses miss is to be walked (R100). -/
def State.noteMisses (s : State) (core : Nat) (kind : AccKind) (l : List (Nat × Nat)) : State :=
  l.foldl (init := s) fun s x =>
    match s.spot (s.who core) kind false x.1 x.2 with
    | .miss va => s.noteMiss core va
    | _ => s

/-- Some of a list of accesses must wait, and none before it faults: none of them is performed then, so that each is performed
once (R166). -/
def State.mustWait (s : State) (core : Nat) (kind : AccKind) : List (Nat × Nat) → Option (State × AqEnd)
  | [] => none
  | (va, n) :: r =>
    match s.spot (s.who core) kind false va n with
    | .wait | .miss _ => some (s.noteMisses core kind ((va, n) :: r), .wait)
    | .fault _ => none
    | .at _ => s.mustWait core kind r

/-- Reads accesses of one width in class 0, in the order given. -/
def State.readEach (s : State) (core n : Nat) : List Nat → State × Except AqEnd (List Nat)
  | [] => (s, .ok [])
  | va :: r =>
    match s.readAs core false 0 va n with
    | .fault f => (s, .error (.fault f .read 0 n))
    | .wait | .miss _ => (s, .error .wait)
    | .ok (bs, s) =>
      match s.readEach core n r with
      | (s, .ok l) => (s, .ok (bs ++ l))
      | (s, .error e) => (s, .error e)

/-- Addresses of the `n` entries of an index list. -/
def indexAddrs (index : Word) (n : Nat) : List Nat := (List.range n).map fun i => (index.toNat + 4 * i) % 2 ^ 64

/-- The address of an element: base + w * s64(index), modulo 2^64. -/
def elementAddr (base : Word) (w i : Nat) : Word := base + BitVec.ofNat 64 w * BitVec.ofInt 64 (toSigned 32 i)

/-- The elements' addresses of an entry whose list has been read, or the reads of the list (R330, R375); the head of the queue keeps
what it has read. -/
def State.withIndices (s : State) (core : Nat) (base index : Word) (w : Nat) (ix : Option (List Nat))
    (body : State → List Nat → State × AqEnd) : State × AqEnd :=
  match ix with
  | some ix => body s ix
  | none =>
    let vas := indexAddrs index (128 / w)
    match s.mustWait core .read (vas.map (·, 4)) with
    | some x => x
    | none =>
      match s.readEach core 4 vas with
      | (s, .error e) => (s, e)
      | (s, .ok bs) => body s ((wordsOf bs).map fun i => (elementAddr base w i).toNat)

/-- The entry at the head waits with the addresses that it has read, or, where it faults, reads its list again when it is replayed
(R331). -/
def State.keepHead (s : State) (core : Nat) (e : AqEntry) : State :=
  s.updCore core fun k => { k with aq := e :: k.aq.drop 1 }

/-- Reads the elements of a gather: every address is checked before any element is read (R330). -/
def State.gatherElems (s : State) (core w : Nat) (vas : List Nat) : State × Except AqEnd (List Nat) :=
  match vas.find? fun va => va % w != 0 with
  | some va => (s, .error (.fault ⟨causeAlignment, 0, va⟩ .read 0 w))
  | none =>
    match s.mustWait core .read (vas.map (·, w)) with
    | some (s, e) => (s, .error e)
    | none => s.readEach core w vas

/-- Writes the elements of a scatter, lower element numbers first (R375). -/
def State.scatterEach (s : State) (core w : Nat) : List Nat → List Nat → State × AqEnd
  | [], _ => (s, .done)
  | va :: r, data =>
    if va % w != 0 then (s, .fault ⟨causeAlignment, 0, va⟩ .write 0 w)
    else match s.writeAs core false va (data.take w) with
      | .fault f => (s, .fault f .write 0 w)
      | .wait | .miss _ => (s, .wait)
      | .ok s => s.scatterEach core w r (data.drop w)

/-- A scatter writes once none of its elements, up to one that faults, must wait. -/
def State.scatterElems (s : State) (core w : Nat) (vas data : List Nat) : State × AqEnd :=
  match s.mustWait core .write ((vas.takeWhile fun va => va % w == 0).map (·, w)) with
  | some x => x
  | none => s.scatterEach core w vas data

/-- An entry of 128 bytes enters a data queue. -/
def State.aqPush (s : State) (core q : Nat) (bs : List Nat) : State :=
  (s.updCore core fun k => k.setQueue q ((k.queue q).append (ofBytes bs))).queueChanged core

/-- The entry at the head is attempted. -/
def State.attempt (s : State) (core : Nat) : AqEntry → State × AqEnd
  | .read q va cls =>
    match s.readAs core false cls.toNat va.toNat 128 with
    | .fault f => (s, .fault f .read cls.toNat 128)
    | .wait => (s, .wait)
    | .miss va => (s.noteMiss core va, .wait)
    | .ok (bs, s) => (s.aqPush core q bs, .done)
  | .write va n data cls =>
    match s.writeAs core false va.toNat (bytesOf n data) with
    | .fault f => (s, .fault f .write cls.toNat n)
    | .wait => (s, .wait)
    | .miss va => (s.noteMiss core va, .wait)
    | .ok s => (s, .done)
  | .gather q base index w ix =>
    s.withIndices core base index w ix fun s vas =>
      match s.gatherElems core w vas with
      | (s, .error e) => (s.keepHead core (.gather q base index w (if e == .wait then some vas else none)), e)
      | (s, .ok bs) => (s.aqPush core q bs, .done)
  | .scatter base index w data ix =>
    s.withIndices core base index w ix fun s vas =>
      match s.scatterElems core w vas (bytesOf 128 data) with
      | (s, .done) => (s, .done)
      | (s, e) => (s.keepHead core (.scatter base index w data (if e == .wait then some vas else none)), e)

/-- Entries perform in order until one must wait or faults: the entry that stays at the head and why. -/
def State.drain (s : State) (core : Nat) : Nat → State × AqEnd
  | 0 => (s, .wait)
  | f + 1 =>
    match (s.core core).aq with
    | [] => (s, .done)
    | e :: r =>
      match s.attempt core e with
      | (s, .done) => (s.updCore core (·.aqPop r)).drain core f
      | x => x

/-- Causes that leave the entry at the head to be replayed (R217). -/
def causeReplays (c : Nat) : Bool := [causeNotMapped, causePermission, causeHomeOffline, causeHostUnreachable].contains c

/-- The issuing stream A puts an entry into the queue and goes on; what can perform does so now (DESIGN CHOICE, log 3). An entry that
can never perform faults at its instruction while no entry stands before it. -/
def State.enqueue (s : State) (e : AqEntry) (issued : State → State) : State :=
  if aqLimit ≤ s.myCore.aq.length then s.stall .stall
  else
    let empty := s.myCore.aq.isEmpty
    match ((issued s).updMyCore fun k => { k with aq := k.aq ++ [e] }).drain s.fcore (aqLimit + 1) with
    | (s', .fault f kind cls n) => if empty && !causeReplays f.cause then s.trapAccess f kind cls n else s'.advance
    | (s', _) => s'.advance

/-- Entries of the address queue that will enter data queue `q`. -/
def CoreState.reserved (k : CoreState) (q : Nat) : Nat :=
  (k.aq.filter fun e => match e with
    | .read r .. => r == q
    | .gather r .. => r == q
    | _ => false).length

/-- An entry that will be pushed into data queue `q`: one that the queue has already is not read again (R45); the stream
waits while every place is taken. -/
def State.enqueueRead (s : State) (q : Nat) (e : AqEntry) : State :=
  let qr := s.myCore.queue q
  let counted (s : State) : State := s.updMe (·.addPush (chQueue q) 1)
  if s.me.pushed (chQueue q) < qr.accepted then (counted s).advance
  else if queueDepth q ≤ qr.entries.length + s.myCore.reserved q then s.stall (.queue q)
  else s.enqueue e counted

def execLdq (g : Guard) (q : BitVec 2) (a : BitVec 5) (c : BitVec 4) (o : BitVec 6) (s : State) : Out :=
  .next (s.issue (.ldq g q a c o) 0 (some g) fun s =>
    let va := memAddr (s.me.ra a) 128 o
    if va.toNat % 128 != 0 then s.trapAlign va .read c.toNat 128
    else s.enqueueRead q.toNat (.read q.toNat va c))

/-- GATH (R330). -/
def execGath (g : Guard) (q : BitVec 2) (a b : BitVec 5) (w : BitVec 2) (s : State) : Out :=
  .next (s.issue (.gath g q a b w) 0 (some g) fun s =>
    if (s.me.ra b).toNat % 4 != 0 then s.trapAlign (s.me.ra b) .read 0 4
    else s.enqueueRead q.toNat (.gather q.toNat (s.me.ra a) (s.me.ra b) (sizeOf w) none))

/-- Takes `n` entries of `q4`, held until A's next mark (R41, R375, R380). -/
def State.takeData (s : State) (n : Nat) (s' : State) : State :=
  let rd := (s.myCore.queue 4).rd + n
  ((s'.updMyCore fun k => k.setQueue 4 { (k.queue 4) with rd := rd }).queueChanged s.fcore).updMe fun t =>
    t.setPop (chQueue 4) rd

/-- The next `n` entries of `q4`, when there are that many. -/
def State.dataAhead (s : State) (n : Nat) : Option (List Nat) :=
  let q := s.myCore.queue 4
  let l := (q.entries.drop (q.rd - q.base)).take n
  if l.length = n then some l else none

def execStq (g : Guard) (a : BitVec 5) (c : BitVec 4) (z : BitVec 2) (o : BitVec 6) (s : State) : Out :=
  .next (s.issue (.stq g a c z o) 0 (some g) fun s =>
    let n := sizeOf z
    let va := memAddr (s.me.ra a) n o
    if va.toNat % n != 0 then s.trapAlign va .write c.toNat n
    else match s.dataAhead 1 with
      | none => s.stall (.queue 4)
      | some l => s.enqueue (.write va n (l.headD 0) c) (s.takeData 1))

/-- SCAT takes its data before it looks at the address of the index list (R375). -/
def execScat (g : Guard) (a b : BitVec 5) (w : BitVec 2) (s : State) : Out :=
  .next (s.issue (.scat g a b w) 0 (some g) fun s =>
    match s.dataAhead 16 with
    | none => s.stall (.queue 4)
    | some l =>
      if (s.me.ra b).toNat % 4 != 0 then s.trapAlign (s.me.ra b) .read 0 4
      else s.enqueue (.scatter (s.me.ra a) (s.me.ra b) (sizeOf w) (ofBytes (l.flatMap (bytesOf 8))) none) (s.takeData 16))

/-- The queue goes on at its head; a head that faults stops the core, with A past the instruction (R217). -/
def execAddressQueueFault (core : BitVec 8) (s : State) : Out :=
  let c := core.toNat
  let k := s.core c
  if k.aq.isEmpty || k.stop.isSome || k.resetting.isSome || k.job.isNone || !s.dieUp (dieOf c) then .next s
  else match s.drain c (aqLimit + 1) with
    | (s, .fault f kind cls n) =>
      .next (s.stopCore c
        { cause := f.cause, sub := f.sub, src := laneSrc .a, addr := some f.addr, access := kind.code, cls := cls,
          width := widthLog n, aux0 := (s.core c).aq.length })
    | (s, _) => .next s

/-! ### PREF, CFLUSH -/

/-- PREF fills a line where a bank is a way, once its page has been walked; an address that it cannot read has no effect. The memory-side
cache holds nothing a read could tell (R94, R100, R368). -/
def execPref (g : Guard) (a : BitVec 5) (s : State) : Out :=
  .next (s.issue (.pref g a) 0 (some g) fun s =>
    let va := (s.me.ra a).toNat
    if s.walking (s.who s.fcore) .read va then (s.noteMiss s.fcore va).stall .stall
    else match s.translate (s.who s.fcore) .read va with
      | .ok t => if va < 2 ^ 56 && t.isMemory then (s.fillLine (clusterOf s.fcore) (t.key / 128 * 128)).advance else s.advance
      | .error _ => s.advance)

/-- The physical line that the page of a user address maps it to, whoever may access the page (R307). -/
def State.mappedLine (s : State) (va : Nat) : Option Nat :=
  if va < 2 ^ 56 then (s.mapping (s.tenantOf s.fcore) va).map fun m => (m.pa + (va - m.va)) / 128 * 128 else none

/-- CFLUSH drops the line in every bank of the cluster, once its page has been walked (R100, R307). -/
def execCflush (g : Guard) (a : BitVec 5) (s : State) : Out :=
  .next (s.issue (.cflush g a) 0 (some g) fun s =>
    let va := (s.me.ra a).toNat
    if s.walking (s.who s.fcore) .read va then (s.noteMiss s.fcore va).stall .stall
    else match s.mappedLine va with
      | some l => (s.updCluster (clusterOf s.fcore) fun c => { c with cway := c.cway.filter fun x => x.pa != l }).advance
      | none => s.advance)

end Sys2Proof.Machine
end

