-- ==== Sys2Proof/Machine/Banks.lean ====
section
/-! DEFINITION. Bank modes and formats (R84-R89, R297, R298), the ownership of accumulator banks (R129-R131, R288-R290),
buffer rings (R117, R296, R302) and multicast slots (R118, R378). -/

namespace Sys2Proof.Machine

/-! ### BANKM, BANKF -/

/-- The bank an instruction names in `sA`, checked; `bad` says that its other operand is no code. -/
def State.namedBank (s : State) (a : BitVec 5) (bad : Bool) (body : Nat → State) : State :=
  let b := (s.me.rs a).toNat
  if 63 < b || bad then s.trap causeIllegal 4
  else if !bankTenantOk ((s.cluster (clusterOf s.fcore)).bank b) (s.who s.fcore) then s.trap causeCrossTenant 0
  else body b

/-- A change of a bank is pending, or a core that came before this one waits to change it (R298). A core that neither issues nor starts a job is
passed over. -/
def State.bankTaken (s : State) (core b : Nat) : Bool :=
  let cl := clusterOf core
  let x := (s.cluster cl).bank b
  x.pend.isSome || (x.line.takeWhile (· != coreIn core)).any fun i =>
    s.mayIssue (4 * cl + i) .c || (s.core (4 * cl + i)).job.any fun j => !j.banksDue.isEmpty

/-- A core waits to change a bank, behind those that came before it. -/
def State.joinLine (s : State) (core b : Nat) : State :=
  if ((s.cluster (clusterOf core)).bank b).line.contains (coreIn core) then s
  else s.updBank (clusterOf core) b fun x => { x with line := x.line ++ [coreIn core] }

/-- A core that has changed a bank, or need not, leaves its line. -/
def State.leaveLine (s : State) (core b : Nat) : State :=
  if ((s.cluster (clusterOf core)).bank b).line.contains (coreIn core) then
    s.updBank (clusterOf core) b fun x => { x with line := x.line.erase (coreIn core) }
  else s

/-- The change that a core asks for becomes the pending one. -/
def Bank.pends (x : Bank) (i : Nat) (m : BitVec 2) : Bank := { x with pend := some m, line := i :: x.line.erase i }

/-- BANKM waits while another change of the bank is pending, then for its own (R88, R298). -/
def execBankm (g : Guard) (a b : BitVec 5) (s : State) : Out :=
  .next (s.issue (.bankm g a b) 0 (some g) fun s =>
    let m := (s.me.rs b).toNat
    s.namedBank a (3 < m) fun n =>
      let bank := (s.cluster (clusterOf s.fcore)).bank n
      if s.bankTaken s.fcore n then (s.joinLine s.fcore n).stall .stall
      else if bank.mode.toNat == m then (s.leaveLine s.fcore n).advance
      else (s.updBank (clusterOf s.fcore) n (·.pends (coreIn s.fcore) (BitVec.ofNat 2 m))).updMe (·.stalls (.bank n)))

def execBankf (g : Guard) (a b : BitVec 5) (s : State) : Out :=
  .next (s.issue (.bankf g a b) 0 (some g) fun s =>
    let f := (s.me.rs b).toNat
    s.namedBank a (!bankFmtOk f) fun n =>
      (s.updBank (clusterOf s.fcore) n fun x => { x with fmt := BitVec.ofNat 4 f }).advance)

/-- The bytes of a range take new values; those that are 0 are not listed. -/
def memFill (m : List Host.Cell) (k n : Nat) (f : Nat → Byte) : List Host.Cell :=
  (m.filter fun c => c.1 < k) ++ (((List.range n).map fun i => (k + i, f i)).filter fun c => c.2 != 0) ++
    (m.filter fun c => k + n ≤ c.1)

/-- What a bank holds after a change of mode (R88): zero in `SCR` from `CWAY` or `OFF`, no content that can be told in
`FIFO` (free bytes). -/
def State.carryBank (s : State) (cl b : Nat) (old new : BitVec 2) : State :=
  let k := sramKey cl (b * 32768)
  if new == 1 && old != 3 then s.zeroLoc k 32768
  else if new == 3 then
    { s with mem := memFill s.mem k 32768 (fun i => BitVec.ofNat 8 (Config.freeNat (s.fresh + i))),
             fresh := s.fresh + 32768 }
  else s

/-- The mode changes, and the BANKM that waited for it is done; a launch's entry for the bank is too. -/
def State.setMode (s : State) (cl b : Nat) (old new : BitVec 2) : State :=
  let s := (s.carryBank cl b old new).updCluster cl fun c =>
    { c with banks := c.banks.upd b Bank.reset fun x =>
               { x with mode := new, pend := none, head := 0, tail := 0, rd := 0, consumer := none }
             cway := if old == 2 then c.cway.filter (·.bank != b) else c.cway }
  [0, 1, 2, 3].foldl (init := s) fun s i =>
    if (s.core (4 * cl + i)).c.wait == .bank b then s.updStr (4 * cl + i) .c StreamState.done else s

/-- The BANKM that waits for a bank is executed again. -/
def State.againBankm (s : State) (cl b : Nat) : State :=
  [0, 1, 2, 3].foldl (init := s) fun s i =>
    if (s.core (4 * cl + i)).c.wait == .bank b then s.updStr (4 * cl + i) .c fun t => { t with wait := .none } else s

/-- A bank is zeroed and goes `OFF`; lines and entries that it held are gone, its format stays (R86, R234). A BANKM that waits for the
bank is executed again, and then meets the bank's new tag. -/
def State.wipeBank (s : State) (cl b : Nat) : State :=
  let s := (s.zeroLoc (sramKey cl (b * 32768)) 32768).updCluster cl fun c =>
    { c with banks := c.banks.upd b Bank.reset fun x =>
               { x with mode := 0, pend := none, head := 0, tail := 0, rd := 0, consumer := none }
             cway := c.cway.filter (·.bank != b) }
  s.againBankm cl b

/-- A bank can change its mode now: a `FIFO` is empty, and its consumer holds nothing (R88). -/
def Bank.idle (x : Bank) : Bool := !(x.mode == 3 && !(x.head == x.tail && x.rd == x.head))

/-- The first mode that a launch on a core has still to write is written, or waits with `pend` set; a change of the bank that another
has pending comes first (R58, R88). An entry whose bank is another tenant's by then is skipped (R58). -/
def State.settleBank (s : State) (core : Nat) : State :=
  match (s.core core).job with
  | none => s
  | some j =>
    match j.banksDue with
    | [] => s
    | (b, m) :: r =>
      let cl := clusterOf core
      let x := (s.cluster cl).bank b
      let gone (s : State) : State :=
        (s.leaveLine core b).updCore core fun k => { k with xTick := s.fine, job := k.job.map fun j => { j with banksDue := r } }
      if x.tenant != j.tenant then gone s
      else if s.bankTaken core b then s.joinLine core b
      else if x.mode.toNat == m then gone s
      else if x.idle then gone (s.setMode cl b x.mode (BitVec.ofNat 2 m))
      else s.updBank cl b (·.pends (coreIn core) (BitVec.ofNat 2 m))

/-- As many of them as can be, in the table's order. -/
def State.settleBanks (s : State) (core : Nat) : State := (List.range 64).foldl (fun s _ => s.settleBank core) s

/-- The launches of a cluster's cores go on with their bank tables. -/
def State.settleCluster (s : State) (cl : Nat) : State := [0, 1, 2, 3].foldl (fun s i => s.settleBanks (4 * cl + i)) s

/-- No access is in progress between steps; a `FIFO` empties first (R88). Where no change is pending, a launch that waited makes its own. -/
def execBankmApply (cluster bank : BitVec 6) (s : State) : Out :=
  let cl := cluster.toNat
  let b := bank.toNat
  let x := (s.cluster cl).bank b
  match x.pend with
  | none => .next (s.settleCluster cl)
  | some m =>
    if !x.idle then .next s
    else .next (((s.setMode cl b x.mode m).updBank cl b fun x => { x with line := x.line.tail }).settleCluster cl)

/-! ### ACCAL, ACCFR, ACCGIVE -/

/-- The least base of a run of `n` free banks (R288). -/
def ClusterState.freeRun (c : ClusterState) (n : Nat) : Option Nat :=
  (List.range 64).find? fun b => b + n ≤ 64 && (List.range n).all fun j => !(c.accb (b + j)).alloc

def State.allocRun (s : State) (core b n : Nat) : State :=
  let cl := clusterOf core
  let me := BitVec.ofNat 2 (coreIn core)
  let s := (List.range n).foldl (init := s) fun s j =>
    s.updAcc cl (b + j) fun _ => ⟨0, BitVec.ofNat 6 (s.tenantOf core), false, true, me, me⟩
  s.zeroLoc (accKey cl (b * 32768)) (n * 32768)

/-- A push of C: found performed, or performed now with its result. -/
def State.pushOnce (s : State) (perform : State → State × Word) : State × Word :=
  match s.repeated with
  | some w => (s.countOther, w)
  | none => let (s, w) := perform s; (s.logPush w, w)

def execAccal (g : Guard) (d a : BitVec 5) (s : State) : Out :=
  .next (s.issue (.accal g d a) 0 (some g) fun s =>
    let n := (s.me.rs a).toNat
    let (s, w) := s.pushOnce fun s =>
      if n < 1 || 64 < n then (s, BitVec.allOnes 64)
      else match (s.cluster (clusterOf s.fcore)).freeRun n with
        | none => (s, BitVec.allOnes 64)
        | some b => (s.allocRun s.fcore b n, BitVec.ofNat 64 b)
    s.writeS d w)

/-- Every K record that the issuing stream pushed before has retired; records that it pushed later, before a rollback, are not waited
for (R130, R150). -/
def State.kRetired (s : State) : Bool := s.me.pushed (chRing .k) ≤ s.myCore.ringK.ret

/-- The accumulator-window address of row 0 of a bank. -/
def accRowAddr (b : Nat) : Nat := 0x1F1000000000000 + b * 32768

/-- An ownership instruction's fault at a bank. -/
def State.trapAcc (s : State) (cause b : Nat) : State :=
  s.stopCore s.fcore { cause := cause, src := laneSrc .c, addr := some (accRowAddr b) }

/-- The first failing check over banks: allocated, then owned by the caller. -/
def State.ownCheck (s : State) (bs : List Nat) : Option (Nat × Nat) :=
  let c := s.cluster (clusterOf s.fcore)
  match bs.find? fun b => !(c.accb b).alloc with
  | some b => some (causeAccFree, b)
  | none => (bs.find? fun b => (c.accb b).owner.toNat != coreIn s.fcore).map fun b => (causeAccOwner, b)

def execAccfr (g : Guard) (a b : BitVec 5) (s : State) : Out :=
  .next (s.issue (.accfr g a b) 0 (some g) fun s =>
    let base := (s.me.rs a).toNat
    let n := (s.me.rs b).toNat
    if 63 < base || n < 1 || 64 < n || 64 < base + n then s.trap causeIllegal 4
    else if !s.kRetired then s.stall .stall
    else if s.repeated.isSome then s.countOther.advance
    else
      let bs := (List.range n).map (base + ·)
      match s.ownCheck bs with
      | some (c, x) => s.trapAcc c x
      | none =>
        ((bs.foldl (init := s) fun s x => s.updAcc (clusterOf s.fcore) x fun q => { q with alloc := false }).logPush 0).advance)

def causeAccGive := 0x26

/-- A core runs a placed job of a tenant. -/
def State.runsJobOf (s : State) (core t : Nat) : Bool := (s.core core).job.any (·.tenant.toNat == t)

def execAccgive (g : Guard) (a b : BitVec 5) (s : State) : Out :=
  .next (s.issue (.accgive g a b) 0 (some g) fun s =>
    let bank := (s.me.rs a).toNat
    let t := (s.me.rs b).toNat
    if 63 < bank || 3 < t then s.trap causeIllegal 4
    else if !s.kRetired then s.stall .stall
    else if s.repeated.isSome then s.countOther.advance
    else match s.ownCheck [bank] with
      | some (c, x) => s.trapAcc c x
      | none =>
        if t == coreIn s.fcore then (s.logPush 0).advance
        else if !s.runsJobOf (4 * clusterOf s.fcore + t) (s.tenantOf s.fcore) then s.trapAcc causeAccGive bank
        else ((s.updAcc (clusterOf s.fcore) bank fun q => { q with owner := BitVec.ofNat 2 t }).logPush 0).advance)

/-! ### Buffer rings -/

def causeBufferRing := 0x27

/-- Ring `i` may be used by the issuing stream, bound to `tag`, if it is bound at all. -/
def State.ringUsable (s : State) (i : Nat) (tag : Bring → BitVec 2) : Bool :=
  let r := (s.cluster (clusterOf s.fcore)).ring i
  i < 16 && r.valid && r.owner.toNat == coreIn s.fcore && (tag r == 0 || (tag r).toNat == laneTag s.focusLane)

def State.updRing (s : State) (i : Nat) (f : Bring → Bring) : State :=
  s.updCluster (clusterOf s.fcore) fun c => { c with brings := c.brings.upd i Bring.reset f }

/-- The window address of buffer `n` of a ring. -/
def bufferAddr (r : Bring) (n : Nat) : Word := BitVec.ofNat 64 (0x1F0000000000000 + (r.base + n % r.count * r.stride) * 256)

def execBacq (g : Guard) (d a : BitVec 5) (s : State) : Out :=
  .next (s.issue (.bacq g d a) 0 (some g) fun s =>
    let i := (s.me.rs a).toNat
    let r := (s.cluster (clusterOf s.fcore)).ring i
    let n := s.me.pushed (chBring i)
    let give (s : State) : State := (s.updMe (·.addPush (chBring i) 1)).writeA d (bufferAddr r n)
    if !s.ringUsable i Bring.acqs then s.trap causeBufferRing 0
    else if n < r.acqTotal then give s
    else if r.busy == r.count then s.stall .stall
    else give (s.updRing i fun r => { r with acqs := BitVec.ofNat 2 (laneTag s.focusLane), acq := (r.acq + 1) % r.count,
                                             busy := r.busy + 1, acqTotal := r.acqTotal + 1 }))

def execBrel (g : Guard) (a : BitVec 5) (s : State) : Out :=
  .next (s.issue (.brel g a) 0 (some g) fun s =>
    let i := (s.me.rs a).toNat
    let r := (s.cluster (clusterOf s.fcore)).ring i
    let counted (s : State) : State := (s.updMe (·.addPush (chBring i + 1) 1)).advance
    if !s.ringUsable i Bring.rels then s.trap causeBufferRing 0
    else if s.me.pushed (chBring i + 1) < r.relTotal then counted s
    else if r.busy == 0 then s.trap causeBufferRing 0
    else counted (s.updRing i fun r => { r with rels := BitVec.ofNat 2 (laneTag s.focusLane), rel := (r.rel + 1) % r.count,
                                                busy := r.busy - 1, relTotal := r.relTotal + 1 }))

/-! ### Multicast slots -/

def causeSlot := 0x28

/-- The key of a receiver's counter on a channel: the receiver's number within its die. -/
def slotKey (ch receiver : Nat) : Nat := 64 * ch + receiver % 64

/-- Free slots of a sender for a receiver (R118). -/
def CoreState.slotsFree (k : CoreState) (ch receiver : Nat) : Nat := k.slots.at (slotKey ch receiver) 8
def CoreState.setSlots (k : CoreState) (ch receiver n : Nat) : CoreState :=
  { k with slots := k.slots.put (slotKey ch receiver) n }

/-- The saved job that left a core and still counts slots of a receiver as taken (DESIGN CHOICE, log 19). -/
def State.savedSender (s : State) (core ch receiver : Nat) : Option Nat :=
  (s.mod.saved.find? fun x => x.core.toNat == core && x.ctx.slotsFree ch receiver < 8).map (·.id)

def State.returnSlot (s : State) (sender ch : Nat) : Option State :=
  match s.savedSender sender ch s.fcore with
  | some id => some (s.updMod fun m => { m with saved := m.saved.map fun x =>
      if x.id == id then { x with ctx := x.ctx.setSlots ch s.fcore (x.ctx.slotsFree ch s.fcore + 1) } else x })
  | none =>
    let n := (s.core sender).slotsFree ch s.fcore
    if 8 ≤ n then none else some (s.updCore sender fun k => k.setSlots ch s.fcore (n + 1))

def execSlotrel (g : Guard) (a b : BitVec 5) (s : State) : Out :=
  .next (s.issue (.slotrel g a b) 0 (some g) fun s =>
    let sender := (s.me.rs a).toNat
    let ch := (s.me.rs b).toNat
    if 255 < sender || 3 < ch || dieOf sender != dieOf s.fcore then s.trap causeIllegal 4
    else if s.repeated.isSome then s.countOther.advance
    else match s.returnSlot sender ch with
      | none => s.trap causeSlot 0
      | some s => (s.logPush 0).advance)

end Sys2Proof.Machine
end

