-- ==== Sys2Proof/Machine/Reuse.lean ====
section
/-! DEFINITION. The reuse directory (R141-R150, R155-R158): the arm descriptor, the watch of a weight range, RUARM, RUINV
and RUSTAT. -/

namespace Sys2Proof.Machine

/-! ### The arm descriptor (R143, R144) -/

def descField (d : BitVec 512) (b n : Nat) : Nat := bitsOf d.toNat (8 * b) (8 * n)
def DirSlot.fmt (e : DirSlot) : Nat := descField e.desc 4 1
def DirSlot.interval (e : DirSlot) : Nat := descField e.desc 5 1
def DirSlot.density (e : DirSlot) : Nat := descField e.desc 6 1
def DirSlot.spread (e : DirSlot) : Nat := descField e.desc 7 1
def DirSlot.m (e : DirSlot) : Nat := descField e.desc 8 2
def DirSlot.n (e : DirSlot) : Nat := descField e.desc 10 2
def DirSlot.k (e : DirSlot) : Nat := descField e.desc 12 2
def DirSlot.theta (e : DirSlot) : Nat := descField e.desc 16 4
def DirSlot.xprev (e : DirSlot) : Nat := descField e.desc 24 8
def DirSlot.yprev (e : DirSlot) : Nat := descField e.desc 32 8
def DirSlot.wbase (e : DirSlot) : Nat := descField e.desc 40 8
def DirSlot.wext (e : DirSlot) : Nat := descField e.desc 48 8

/-- Bytes rounded up to a multiple of 128. -/
def up128 (n : Nat) : Nat := (n + 127) / 128 * 128

/-- Row strides and half sizes of the two regions. -/
def DirSlot.xRow (e : DirSlot) : Nat := up128 (elemBytes e.fmt e.k)
def DirSlot.yRow (e : DirSlot) : Nat := up128 (4 * e.n)
def DirSlot.xSide (e : DirSlot) (side : Bool) : Nat := e.xprev + (if side then e.m * e.xRow else 0)
def DirSlot.ySide (e : DirSlot) (side : Bool) : Nat := e.yprev + (if side then e.m * e.yRow else 0)

/-- The limits of R143. -/
def descOk (d : BitVec 512) : Bool :=
  let e : DirSlot := { DirSlot.reset with desc := d }
  [2, 3, 4, 5, 6, 10, 11, 12, 13].contains e.fmt && 1 ≤ e.interval && e.density ≤ 32 &&
    e.spread < 8 && (e.spread == 0 || e.fmt == 10 || e.fmt == 11) &&
    1 ≤ e.m && e.m ≤ 4096 && 1 ≤ e.n && e.n ≤ 4096 && 1 ≤ e.k && e.k ≤ 4096 && (e.fmt < 10 || e.k % 32 == 0) &&
    descField d 14 2 == 0 && (e.theta < 0x7F800000 || e.theta == 0x80000000) && descField d 20 4 == 0 &&
    e.xprev % 128 == 0 && e.yprev % 128 == 0 && 1 ≤ e.wext && e.wext ≤ 2 ^ 40 && descField d 56 8 == 0

/-- The regions and the weight range lie in user global space, and no two overlap (R144). -/
def regionsOk (d : BitVec 512) : Bool :=
  let e : DirSlot := { DirSlot.reset with desc := d }
  let x := (e.xprev, 2 * e.m * e.xRow)
  let y := (e.yprev, 2 * e.m * e.yRow)
  let w := (e.wbase, e.wext)
  [x, y, w].all (fun r => r.1 + r.2 ≤ 2 ^ 56) && !overlaps x.1 x.2 y.1 y.2 && !overlaps x.1 x.2 w.1 w.2 &&
    !overlaps y.1 y.2 w.1 w.2

/-! ### The watch (R156) -/

/-- The parts of a virtual range that mappings of a tenant cover: physical base and length. -/
def State.coveredParts (s : State) (t base n : Nat) : List (Nat × Nat) :=
  (s.tenant t).maps.filterMap fun m =>
    let lo := max base m.va
    let hi := min (base + n) (m.va + m.size)
    if lo < hi then some (m.pa + (lo - m.va), hi - lo) else none

/-- Every page of a range is mapped. -/
def State.wholeMapped (s : State) (t base n : Nat) : Bool :=
  ((s.coveredParts t base n).map Prod.snd).foldl (· + ·) 0 == n

/-- A run cut at the bounds of 16 MiB home regions. -/
def cutRegions : Nat → Nat → Nat → List (Nat × Nat)
  | 0, _, _ => []
  | f + 1, pa, n =>
    if n == 0 then [] else
    let m := min n (2 ^ 24 - pa % 2 ^ 24)
    (pa, m) :: cutRegions f (pa + m) (n - m)

/-- Joins a run to the one before it where both lie together in one region. -/
def joinRuns (l : List (Nat × Nat)) : List (Nat × Nat) :=
  (l.foldl (init := []) fun acc (b, m) =>
    match acc with
    | (a, n) :: r => if a + n == b && a / 2 ^ 24 == b / 2 ^ 24 then (a, n + m) :: r else (b, m) :: (a, n) :: r
    | [] => [(b, m)]).reverse

/-- Comparators of a die in use, those of one slot left out. -/
def State.comparatorsUsed (s : State) (die t slot : Nat) : Nat :=
  (s.tenants.flatMap fun (u, x) => x.dir.flatMap fun (i, d) =>
    if u == t && i == slot then [] else d.watch.filter fun w => w.2.2 && w.1 / 2 ^ 40 == die).length

/-- Watches runs in order: by a comparator while the run's die has one, else by the run's home region. -/
def State.watchRuns (s : State) (t slot : Nat) (runs : List (Nat × Nat)) : List (Nat × Nat × Bool) :=
  runs.foldl (init := []) fun l (pa, n) =>
    let used := s.comparatorsUsed (pa / 2 ^ 40) t slot + (l.filter fun w => w.2.2 && w.1 / 2 ^ 40 == pa / 2 ^ 40).length
    l ++ [if used < 256 then (pa, n, true) else (pa / 2 ^ 24 * 2 ^ 24, 2 ^ 24, false)]

/-- The watch of a weight range as the mappings stand. What a page outside home memory holds is watched in the same way (DEDUCED,
log 52). -/
def State.watchOf (s : State) (t slot base n : Nat) : List (Nat × Nat × Bool) :=
  s.watchRuns t slot (joinRuns ((s.coveredParts t base n).flatMap fun p => cutRegions (p.2 / 2 ^ 24 + 2) p.1 p.2))

/-! ### Slots (R146) -/

def TenantState.slotOf (x : TenantState) (layer : Nat) : Option Nat :=
  (List.range 1024).find? fun i => (x.dir.at i DirSlot.reset).armed && (x.dir.at i DirSlot.reset).layer == layer

/-- The slot a layer has, or the one a new layer takes: one never armed, else the first empty one. Of several never armed ones R146 names
none; the lowest-numbered is taken (DESIGN CHOICE, log 73). -/
def TenantState.slotFor (x : TenantState) (layer : Nat) : Option Nat :=
  (x.slotOf layer).or (((List.range 1024).find? fun i => !(x.dir.at i DirSlot.reset).armed).or
    ((List.range 1024).find? fun i => (x.dir.at i DirSlot.reset).state == 0))

def State.dirSlot (s : State) (t i : Nat) : DirSlot := (s.tenant t).dir.at i DirSlot.reset
def State.setDir (s : State) (t i : Nat) (d : DirSlot) : State :=
  s.updTenant t fun x => { x with dir := x.dir.put i d }

def nextVersion (v : Nat) : Nat := v % 65535 + 1

/-- An MXR holds the claim of the entry of a layer. -/
def State.layerClaimed (s : State) (t layer : Nat) : Bool :=
  ((s.tenant t).slotOf layer).any fun i => (s.dirSlot t i).claim.isSome

/-! ### RUARM, RUINV, RUSTAT (R147-R150) -/

def ruFail (c : Nat) : Word := BitVec.ofNat 64 (2 ^ 63 + c)

/-- RUARM of a descriptor (R145, R148). Of several causes that apply, the lowest is reported (DESIGN CHOICE, log 74). -/
def State.armEntry (s : State) (t : Nat) (d : BitVec 512) : State × Word :=
  let layer := descField d 0 4
  let e : DirSlot := { DirSlot.reset with desc := d }
  if !descOk d then (s, ruFail 1)
  else match (s.tenant t).slotFor layer with
    | none => (s, ruFail 2)
    | some i =>
      if !regionsOk d then (s, ruFail 3)
      else if !s.wholeMapped t e.wbase e.wext then (s, ruFail 4)
      else
        let old := s.dirSlot t i
        let w := s.watchOf t i e.wbase e.wext
        let v := nextVersion old.version
        (s.setDir t i { layer := layer, desc := d, state := 1, version := v, steps := 0, side := false, invals := 0,
                        coarse := w.any (!·.2.2), claim := none, race := false,
                        updates := (old.updates + 1) % 2 ^ 32, armed := true, watch := w }, BitVec.ofNat 64 v)

/-- RUARM waits for the core's K records and for the claim of the entry, then reads and arms. -/
def ruarmBody (d a : BitVec 5) (s : State) : State :=
  let va := s.me.ra a
  if !s.kRetired then s.stall .stall
  else match s.repeated with
    | some w => s.countOther.writeS d w
    | none =>
      if va.toNat % 64 != 0 then (s.logPush (ruFail 1)).writeS d (ruFail 1)
      else if 2 ^ 56 ≤ va.toNat && va.toNat < 2 ^ 57 then s.trapAccess ⟨causeWindow, 0, va.toNat⟩ .read 0 64
      else match s.readAs s.fcore false 0 va.toNat 64 with
        | .fault f => s.trapAccess f .read 0 64
        | .wait => s.stall .stall
        | .miss va => (s.noteMiss s.fcore va).stall .stall
        | .ok (bs, s') =>
          let desc := BitVec.ofNat 512 (ofBytes bs)
          let t := s.tenantOf s.fcore
          if s.layerClaimed t (descField desc 0 4) then s.stall .stall
          else
            let (s', w) := s'.armEntry t desc
            (s'.logPush w).writeS d w

def execRuarm (g : Guard) (d a : BitVec 5) (s : State) : Out :=
  .next (s.issue (.ruarm g d a) 0 (some g) (ruarmBody d a))

/-- RUINV of a layer (R145). An empty entry keeps its `steps`, `side` and invalidation count for RUSTAT (DESIGN CHOICE, log 75). -/
def State.disarmEntry (s : State) (t layer : Nat) : State × Word :=
  match (s.tenant t).slotOf layer with
  | none => (s, 0)
  | some i =>
    let e := s.dirSlot t i
    if e.state == 0 then (s, BitVec.ofNat 64 e.version)
    else
      let v := nextVersion e.version
      (s.setDir t i { e with state := 0, version := v, coarse := false, watch := [],
                             updates := (e.updates + 1) % 2 ^ 32 }, BitVec.ofNat 64 v)

def execRuinv (g : Guard) (d a : BitVec 5) (s : State) : Out :=
  .next (s.issue (.ruinv g d a) 0 (some g) fun s =>
    let t := s.tenantOf s.fcore
    let layer := (s.me.rs a).toNat % 2 ^ 32
    if !s.kRetired then s.stall .stall
    else match s.repeated with
      | some w => s.countOther.writeS d w
      | none =>
        if s.layerClaimed t layer then s.stall .stall
        else
          let (s, w) := s.disarmEntry t layer
          (s.logPush w).writeS d w)

/-- The value of RUSTAT (R149). -/
def DirSlot.word (e : DirSlot) : Word :=
  BitVec.ofNat 64 (e.invals % 2 ^ 32 + boolBit e.claim.isSome 35 + boolBit e.coarse 36 + boolBit e.side 37 +
    e.state % 4 * 2 ^ 38 + e.steps % 256 * 2 ^ 40 + e.version % 65536 * 2 ^ 48)

def execRustat (g : Guard) (d a : BitVec 5) (s : State) : Out :=
  .next (s.issue (.rustat g d a) 0 (some g) fun s =>
    let t := s.tenantOf s.fcore
    match (s.tenant t).slotOf ((s.me.rs a).toNat % 2 ^ 32) with
    | none => s.writeS d 0
    | some i => s.writeS d (s.dirSlot t i).word)

end Sys2Proof.Machine
end

