-- ==== Sys2Proof/Machine/Maps.lean ====
section
/-! DEFINITION. Requests to the mapping registers (R98, R99). -/

namespace Sys2Proof.Machine

/-- Page sizes of `mapctl`. -/
def pageSize (code : Nat) : Nat :=
  match code with
  | 0 => 2 ^ 12
  | 1 => 2 ^ 16
  | 2 => 2 ^ 21
  | 3 => 2 ^ 24
  | _ => 2 ^ 30

def mapTenant (v : Word) : Nat := bitsOf v.toNat 16 6
def mapOp (v : Word) : Nat := bitsOf v.toNat 0 2
def mapSize (v : Word) : Nat := pageSize (bitsOf v.toNat 6 3)

/-- Reserved fields and codes: status 9. -/
def mapReserved (v : Word) : Bool :=
  bitsOf v.toNat 22 42 != 0 || bitsOf v.toNat 12 4 != 0 || bitsOf v.toNat 2 4 != 0 || 4 < bitsOf v.toNat 6 3 || mapOp v == 0

def inHostWindow (pa n : Nat) : Bool := 2 ^ 51 ≤ pa && pa + n ≤ 3 * 2 ^ 50

/-- No byte of a physical range is reserved or of an excluded die (R20, R22, R23). -/
def State.physOk (s : State) (pa n : Nat) : Bool :=
  s.inHome pa n || inHostWindow pa n ||
    (0xE000000000000 ≤ pa && pa + n ≤ 0xE000020000000 && pa % 2 ^ 22 + n ≤ 3 * 2 ^ 20 &&
      s.present ((pa - 0xE000000000000) / 2 ^ 27)) ||
    (0xF000000000000 ≤ pa && pa + n ≤ 2 ^ 52)

/-- The mapping that stands at an address with a size. -/
def State.mappedAt (s : State) (t va n : Nat) : Bool := (s.tenant t).maps.any fun m => m.va == va && m.size == n

/-- The status a request fails with, the first that applies in the order of R98. -/
def State.mapCheck (s : State) (r : Request) : Option Nat :=
  let va := r.args.headD 0
  let pa := (r.args.drop 1).headD 0
  let n := mapSize r.value
  let t := mapTenant r.value
  let isMap := mapOp r.value == 1
  if mapReserved r.value then some 9
  else if r.level != 2 && t != r.tenant.toNat then some 8
  else if va % n != 0 || (isMap && pa % n != 0) then some 2
  else if 2 ^ 56 < va + n then some 6
  else if isMap && n == 2 ^ 30 && !inHostWindow pa n then some 3
  else if isMap && !s.physOk pa n then some 4
  else if isMap then
    if (s.tenant t).maps.any fun m => overlaps m.va m.size va n then some 5
    else if !Config.tableRoom t (s.tenant t).maps.length then some 7 else none
  else if !s.mappedAt t va n then some 5 else none

/-- The pending request of a die, of an op, and whether it has begun. -/
def State.mapRequest (s : State) (die op : Nat) (begun : Bool) : Option Request :=
  match (s.die die).mapReq with
  | some r => if mapOp r.value == op && (r.args.length == 3) == begun then some r else none
  | none => none

def State.mapDone (s : State) (die status : Nat) : State :=
  s.updDie die fun d => { d with mapReq := none, mapst := status }

/-- Mappings are kept in the order of their addresses. -/
def insertMapping (m : Mapping) : List Mapping → List Mapping
  | [] => [m]
  | x :: r => if m.va < x.va then m :: x :: r else x :: insertMapping m r

/-- Every TLB drops a range. -/
def State.dropTlb (s : State) (t va n : Nat) : State :=
  let keep (k : Nat × Nat) : Bool := !(k.1 == t && overlaps (k.2 * 4096) 4096 va n)
  { s with
    cores := s.cores.map fun (i, c) => (i, { c with tlb := c.tlb.filter keep })
    clusters := s.clusters.map fun (i, c) => (i, { c with tlb := c.tlb.filter keep })
    dies := s.dies.map fun (i, d) => (i, { d with tlb := d.tlb.filter keep,
                                                  missTable := d.missTable.filter fun m => keep (m.1, m.2.1) }) }

/-- Map: the new page stands at once; a TLB entry that says a page of it is not mapped goes (DEDUCED, log 10). -/
def execMap (die : BitVec 2) (s : State) : Out :=
  match s.mapRequest die.toNat 1 false with
  | none => .next s
  | some r =>
    match s.mapCheck r with
    | some c => .next (s.mapDone die.toNat c)
    | none =>
      let v := r.value
      let m : Mapping := ⟨r.args.headD 0, (r.args.drop 1).headD 0, mapSize v, v.getLsbD 11, v.getLsbD 10, v.getLsbD 9⟩
      .next (((s.updTenant (mapTenant v) fun t => { t with maps := insertMapping m t.maps }).dropTlb (mapTenant v) m.va m.size).mapDone
        die.toNat 0)

/-- A change to a mapping is checked; one that stands waits for its shootdown. -/
def State.beginMapChange (s : State) (die op : Nat) : State :=
  match s.mapRequest die op false with
  | none => s
  | some r =>
    match s.mapCheck r with
    | some c => s.mapDone die c
    | none => s.updDie die fun d => { d with mapReq := some { r with args := r.args ++ [1] } }

def execUnmap (die : BitVec 2) (s : State) : Out := .next (s.beginMapChange die.toNat 2)
def execChangePermissions (die : BitVec 2) (s : State) : Out := .next (s.beginMapChange die.toNat 3)

/-- The engine of a record has a unit under way: it has done or begun the boundary after the mark (of a COLL: it has sent). -/
def Rec.underWay (r : Rec) : Bool :=
  r.st.state == 7 && !r.posted && (r.performed || !r.fifo.put.isEmpty || r.coll.any (·.out))

/-- The delta pass of an MXR has been made, and none of its tiles is marked (R152). -/
def Rec.passMade (r : Rec) : Bool := r.st.state == 7 && r.st.mark == 0 && r.mxr.any fun m => m.path == 1 || m.path == 2

/-- A command of a tenant has translated for a chunk, tile or stripe that is not marked yet. -/
def State.midChunk (s : State) (t : Nat) : Bool :=
  s.cores.any fun (c, k) => s.tenantOf c == t && k.job.isSome &&
    [k.ringL, k.ringK, k.ringS, k.ringG].any fun r => r.head.any fun x => x.underWay || x.passMade

/-- Entries whose virtual weight range a change of the tenant's own mappings touches (R155). -/
def State.reuseRemapped (s : State) (t va n : Nat) : State :=
  s.updTenant t fun x => { x with dir := x.dir.map fun (i, d) =>
    (i, if d.state != 0 && overlaps d.wbase d.wext va n then d.hit else d) }

/-- What a change does to a mapping. -/
def changeMapping (v : Word) (va : Nat) (l : List Mapping) : List Mapping :=
  if mapOp v == 2 then l.filter fun m => m.va != va
  else l.map fun m => if m.va == va then { m with u := v.getLsbD 11, x := v.getLsbD 10, w := v.getLsbD 9 } else m

/-- The change stands in every TLB, the accesses that used the old mapping have performed, and commands are past their
marks: status 0 (R99). -/
def execMapShootdownDone (die : BitVec 2) (s : State) : Out :=
  match (s.mapRequest die.toNat 2 true).or (s.mapRequest die.toNat 3 true) with
  | none => .next s
  | some r =>
    let v := r.value
    let va := r.args.headD 0
    let t := mapTenant v
    if s.midChunk t then .next s
    else
      let s := s.updTenant t fun x => { x with maps := changeMapping v va x.maps }
      .next (((s.dropTlb t va (mapSize v)).reuseRemapped t va (mapSize v)).mapDone die.toNat 0)

end Sys2Proof.Machine
end

