-- ==== Sys2Proof/Machine/Command.lean ====
section
/-! DEFINITION. Command records as the engines read them: their fields (R102), the checks made at fetch (R103, R104, R116,
R123, R312, R317, R334, R344, R351, R355-R362, R364, R365), the geometry of copies (R315, R316, R332, R333, R351), the
checks of matrix operands (R127, R128, R356) and footprints (R174, R334). -/

namespace Sys2Proof.Machine

/-! ### The header (R102) -/

/-- The record an engine works on: a segment record while a LINK call runs one (R345). -/
def Rec.cmd (r : Rec) : Vec := r.seg.getD r.bytes

def cmdKind (v : Vec) : Nat := vecField v 0 1
def cmdFlag (v : Vec) (i : Nat) : Bool := (vecField v 1 1).testBit i
def cmdPop (v : Vec) : Nat := vecBits v 16 2
def cmdPush (v : Vec) : Nat := vecBits v 20 2
def cmdClass (v : Vec) : Nat := vecBits v 24 4
def cmdRound (v : Vec) : Nat := vecBits v 28 3
def cmdRun (v : Vec) : Nat := vecField v 10 1
def cmdPrio (v : Vec) : Nat := vecField v 11 1
def cmdCorr (v : Vec) : Nat := vecField v 12 4
/-- The used wait pairs. -/
def cmdWaits (v : Vec) : List (BitVec 32 × Nat) :=
  ((List.range 4).map fun i => (BitVec.ofNat 32 (vecField v (16 + 8 * i) 4), vecField v (20 + 8 * i) 4)).filter (·.1 != 0)
/-- The used signal pairs. -/
def cmdSignals (v : Vec) : List (BitVec 32 × Nat) :=
  ((List.range 2).map fun i => (BitVec.ofNat 32 (vecField v (48 + 8 * i) 4), vecField v (52 + 8 * i) 4)).filter (·.1 != 0)
/-- The used predecessors: ring and sequence number. -/
def cmdPreds (v : Vec) : List (RingId × Nat) :=
  if !cmdFlag v 0 then [] else
  ((List.range 2).map fun i => (ringOfCode (BitVec.ofNat 2 (vecBits v (8 * (64 + 4 * i) + 30) 2)),
    vecBits v (8 * (64 + 4 * i)) 30)).filter (·.2 != 0)

def kCopy := 0x01
def kGcopy := 0x02
def kMcast := 0x03
def kMxd := 0x10
def kMxc := 0x11
def kMxl := 0x12
def kMxr := 0x13
def kMxdrn := 0x14
def kColl := 0x30
def kNull := 0x3D
def kLink := 0x3E
def kNote := 0x3F

/-- Kinds that the matrix array performs under a lease. -/
def isMx (k : Nat) : Bool := kMxd ≤ k && k ≤ kMxdrn
def isCopy (k : Nat) : Bool := k == kCopy || k == kGcopy || k == kMcast
/-- MX kinds that read operands A and B. -/
def hasOperands (k : Nat) : Bool := kMxd ≤ k && k ≤ kMxr

/-- The token agent of a ring (R102): L 0, K 1, S 3; G has none. -/
def ringAgent : RingId → Option Nat
  | .l => some 0
  | .k => some 1
  | .s => some 3
  | .g => none

/-- A kind that a queue accepts (R104). -/
def ringAccepts (q : RingId) (k : Nat) : Bool :=
  k == kNull || k == kNote ||
    match q with
    | .l | .s => isCopy k || k == kLink
    | .k => isMx k
    | .g => k == kColl

/-- Bytes `[b, e)` of a record are zero. -/
def zeroBytes (v : Vec) (b e : Nat) : Bool := vecField v b (e - b) == 0

/-- The checks of R103 on the header; a `gen` or `seq` is whatever the hardware wrote. -/
def headerOk (q : RingId) (v : Vec) : Bool :=
  ringAccepts q (cmdKind v) && !cmdFlag v 7 && vecBits v 18 2 == 0 && vecBits v 22 2 == 0 && vecBits v 31 1 == 0 &&
    cmdPrio v ≤ 7 && cmdRound v ≤ 4 && (!cmdFlag v 6 || cmdKind v == kColl) && cmdRun v ≤ 64 &&
    (cmdRun v == 0 || q == .k) &&
    (match ringAgent q with
     | none => !cmdFlag v 1 && !cmdFlag v 2
     | some a => !(cmdFlag v 1 && cmdPop v == a) && !(cmdFlag v 2 && cmdPush v == a)) &&
    (cmdFlag v 1 || cmdPop v == 0) && (cmdFlag v 2 || cmdPush v == 0)

/-! ### Copies: body fields and geometry -/

/-- A 32-bit two's complement field. -/
def vecS32 (v : Vec) (b : Nat) : Int := toSigned 32 (vecField v b 4)

def sramBase : Nat := 0x1F0000000000000
def accBase : Nat := 0x1F1000000000000
def inSram (va : Nat) : Bool := sramBase ≤ va && va < sramBase + 2 ^ 21
def inAcc (va : Nat) : Bool := accBase ≤ va && va < accBase + 2 ^ 21

def cpSrcNib (v : Vec) : Nat := vecBits v 576 4
def cpDstNib (v : Vec) : Nat := vecBits v 580 4
def cpSpread (v : Vec) : Nat := vecBits v 584 3
def cpScatter (v : Vec) : Bool := cmdKind v == kGcopy && vecBits v 592 1 == 1
def cpGather (v : Vec) : Bool := cmdKind v == kGcopy && vecBits v 592 1 == 0
def cpIndexBytes (v : Vec) : Nat := if vecBits v 600 1 == 1 then 8 else 4
def cpChan (v : Vec) : Nat := vecBits v 592 2
def cpRowel (v : Vec) : Nat := vecField v 76 4
def cpRows (v : Vec) : Nat := vecField v 80 4
def cpPlanes (v : Vec) : Nat := if cmdKind v == kCopy then vecField v 84 4 else 1
def cpLim (v : Vec) : Nat := vecField v 84 4
def cpSrc (v : Vec) : Nat := vecField v 88 8
/-- The destination; of a multicast, in each receiver's own window. -/
def cpDst (v : Vec) : Nat := if cmdKind v == kMcast then sramBase + vecField v 96 4 else vecField v 96 8
def cpIdx (v : Vec) : Nat := vecField v 104 8
def cpRecv (v : Vec) : Nat := vecField v 112 8
def cpSrs (v : Vec) : Int := if cmdKind v == kGcopy then vecS32 v 112 else vecS32 v 104
def cpDrs (v : Vec) : Int := if cmdKind v == kGcopy then vecS32 v 116 else vecS32 v 108
def cpSps (v : Vec) : Int := if cmdKind v == kCopy then vecS32 v 112 else 0
def cpDps (v : Vec) : Int := if cmdKind v == kCopy then vecS32 v 116 else 0
def cpTotalRows (v : Vec) : Nat := cpRows v * cpPlanes v

/-- The format of a side (R91): its bank's in own cluster SRAM, else the body's. -/
def State.sideFmt (s : State) (cl va nib : Nat) : Nat :=
  if inSram va then ((s.cluster cl).bank ((va - sramBase) / 32768)).fmt.toNat else nib

/-- The destination format a body gives: always, for a multicast. -/
def State.dstFmt (s : State) (cl : Nat) (v : Vec) (va : Nat) : Nat :=
  if cmdKind v == kMcast then cpDstNib v else s.sideFmt cl va (cpDstNib v)

/-- A copy converts between these formats (R91). -/
def converts (sf df : Nat) : Bool := sf != 15 && df != 15 && sf != df

/-- Bytes of a destination row. -/
def rowBytes (sf df n : Nat) : Nat := if converts sf df then elemBytes df n else elemBytes sf n

/-- An address as 64 bits. -/
def addr64 (a : Int) : Nat := (a % 2 ^ 64).toNat

/-- The range that a two-level strided pattern of rows of `size` bytes touches, lowest to highest byte (R174). -/
def spanOf (base n1 : Nat) (s1 : Int) (n2 : Nat) (s2 : Int) (size : Nat) : Nat × Nat :=
  let e1 := ((n1 : Int) - 1) * s1
  let e2 := ((n2 : Int) - 1) * s2
  let lo := (base : Int) + min 0 e1 + min 0 e2
  let hi := (base : Int) + max 0 e1 + max 0 e2 + size
  (lo.toNat, (hi - lo).toNat)

/-- The indexed side of a GCOPY (R334): from its base to base + `lim` * stride + row. -/
def indexedSpan (base lim : Nat) (st : Int) (size : Nat) : Nat × Nat :=
  let e := (lim : Int) * st
  let lo := (base : Int) + min 0 e
  (lo.toNat, ((base : Int) + max 0 e + size - lo).toNat)

/-- A range of accumulator memory is taken as whole banks (R174). -/
def wholeBanks (r : Nat × Nat) : Nat × Nat :=
  if inAcc r.1 then (r.1 / 32768 * 32768, (r.1 + r.2 + 32767) / 32768 * 32768 - r.1 / 32768 * 32768) else r

/-- Where byte `p` of a row of blocks at `va` in cluster SRAM lies, and where the last whole block of that bank ends: a block never spans two
banks, and the bytes left over at the end of a bank are unused (R73). -/
def packedAt (f va p : Nat) : Nat × Nat :=
  let g := groupBytes f
  let o := (va - sramBase) % 32768
  let here := (32768 - o) / g
  let each := 32768 / g
  if p / g < here then (va + p, va + here * g)
  else
    let c := p / g - here
    let b := va - o + 32768 * (1 + c / each)
    (b + c % each * g + p % g, b + each * g)

def packedRunsFrom (f va : Nat) : Nat → Nat → Nat → List (Nat × Nat)
  | 0, _, _ => []
  | k + 1, off, n =>
    if n == 0 then [] else
    let (a, e) := packedAt f va off
    let m := min n (e - a)
    (a, m) :: packedRunsFrom f va k (off + m) (n - m)

/-- The ranges that bytes `off` to `off + n` of a row take in memory: one, but for blocks that reach the end of a bank (R73, R316;
DEDUCED, log 70). -/
def packedRuns (f va off n : Nat) : List (Nat × Nat) :=
  if fmtIsBlock f && inSram va then packedRunsFrom f va (n / 32000 + 3) off n else [(va + off, n)]

/-- From the first byte of a row to the last. -/
def packedSize (f va n : Nat) : Nat := ((packedRuns f va 0 n).getLast?.map fun r => r.1 + r.2 - va).getD 0

/-- Source and destination footprints of a copy. -/
def State.copyFoot (s : State) (cl : Nat) (v : Vec) : List (Nat × Nat) × List (Nat × Nat) :=
  let sf := s.sideFmt cl (cpSrc v) (cpSrcNib v)
  let df := s.dstFmt cl v (cpDst v)
  let sr := elemBytes sf (cpRowel v)
  let dr := rowBytes sf df (cpRowel v)
  let top (base n1 : Nat) (s1 : Int) (n2 : Nat) (s2 : Int) : Nat := ((base : Int) + max 0 ((n1 - 1) * s1) + max 0 ((n2 - 1) * s2)).toNat
  let src := if cpGather v then
      indexedSpan (cpSrc v) (cpLim v) (cpSrs v) (packedSize sf (top (cpSrc v) (cpLim v + 1) (cpSrs v) 1 0) sr)
    else spanOf (cpSrc v) (cpPlanes v) (cpSps v) (cpRows v) (cpSrs v)
      (packedSize sf (top (cpSrc v) (cpPlanes v) (cpSps v) (cpRows v) (cpSrs v)) sr)
  let dst := if cpScatter v then
      indexedSpan (cpDst v) (cpLim v) (cpDrs v) (packedSize df (top (cpDst v) (cpLim v + 1) (cpDrs v) 1 0) dr)
    else spanOf (cpDst v) (cpPlanes v) (cpDps v) (cpRows v) (cpDrs v)
      (packedSize df (top (cpDst v) (cpPlanes v) (cpDps v) (cpRows v) (cpDrs v)) dr)
  (wholeBanks src :: (if cmdKind v == kGcopy then [(cpIdx v, cpRows v * cpIndexBytes v)] else []), [wholeBanks dst])

def rangesOverlap (a b : List (Nat × Nat)) : Bool := a.any fun x => b.any fun y => overlaps x.1 x.2 y.1 y.2

/-- A body's format code is one of R85, and suits the number of elements. -/
def nibOk (f n : Nat) : Bool := bankFmtOk f && (!fmtGrouped f || n % 32 == 0)

/-- The fields of a copy's body (R315, R317, R332, R334, R351). -/
def State.copyOk (s : State) (cl : Nat) (v : Vec) : Bool :=
  let k := cmdKind v
  let f := s.copyFoot cl v
  let n := cpRowel v
  vecBits v 587 5 == 0 && zeroBytes v 120 128 && 1 ≤ n && n ≤ 2 ^ 24 && 1 ≤ cpRows v && cpRows v ≤ 65536 &&
    (if k == kCopy then zeroBytes v 74 76 && 1 ≤ cpPlanes v && cpPlanes v ≤ 65536
     else if k == kGcopy then vecBits v 593 7 == 0 && vecBits v 601 7 == 0 && 1 ≤ cpLim v && cpIdx v % cpIndexBytes v == 0
     else vecBits v 594 6 == 0 && zeroBytes v 75 76 && zeroBytes v 84 88 && zeroBytes v 100 104 && cmdFlag v 3 &&
       cpRecv v != 0 && vecField v 96 4 < 2 ^ 21) &&
    (inSram (cpSrc v) || nibOk (cpSrcNib v) n) && ((k != kMcast && inSram (cpDst v)) || nibOk (cpDstNib v) n) &&
    !rangesOverlap f.1 f.2 &&
    (k != kMcast || (f.2.all fun d => sramBase ≤ d.1 && d.1 + d.2 ≤ sramBase + 2 ^ 21))

/-! ### Matrix commands: body fields (R355, R357, R359, R361, R362) -/

def mxM (v : Vec) : Nat := vecField v 72 2
def mxN (v : Vec) : Nat := vecField v 74 2
def mxK (v : Vec) : Nat := vecField v 76 2
def mxBank (v : Vec) : Nat := vecBits v 624 6
/-- The command overwrites its region. -/
def mxOver (v : Vec) : Bool := vecBits v 632 1 == 1
def mxAoff (v : Vec) : Nat := vecField v 80 4
def mxBoff (v : Vec) : Nat := vecField v 84 4
def mxArs (v : Vec) : Nat := vecField v 88 4
def mxBrs (v : Vec) : Nat := vecField v 92 4
def mxcNb (v : Vec) : Nat := vecField v 96 2
def mxcH (v : Vec) : Nat := vecField v 98 2
def mxcW (v : Vec) : Nat := vecField v 100 2
def mxcC (v : Vec) : Nat := vecField v 102 2
def mxcKh (v : Vec) : Nat := vecField v 104 1
def mxcKw (v : Vec) : Nat := vecField v 105 1
def mxcOh (v : Vec) : Nat := vecField v 112 2
def mxcOw (v : Vec) : Nat := vecField v 114 2
def mxcRow0 (v : Vec) : Nat := vecField v 116 4
def mxcPad (v : Vec) : Nat := vecField v 120 4
def mxlBits (v : Vec) : Nat := vecField v 96 1
def mxrLayer (v : Vec) : Nat := vecField v 96 4
def drKeep (v : Vec) : Bool := vecBits v 632 1 == 1
def drAct (v : Vec) : Nat := vecBits v 633 3
def drFmt (v : Vec) : Nat := vecBits v 640 4
def drSpread (v : Vec) : Nat := vecBits v 648 3
def drScale (v : Vec) : Nat := vecField v 84 4
def drLo (v : Vec) : Nat := vecField v 88 4
def drHi (v : Vec) : Nat := vecField v 92 4
def drDst (v : Vec) : Nat := vecField v 96 8
def drBias (v : Vec) : Nat := vecField v 104 8
def drRowStride (v : Vec) : Nat := vecField v 112 4
def drTileStride (v : Vec) : Nat := vecField v 116 4

def ceilDiv (a b : Nat) : Nat := (a + b - 1) / b
/-- Row bands and column groups of the region (R123). -/
def mxBands (v : Vec) : Nat := ceilDiv (mxM v) 32
def mxCols (v : Vec) : Nat := ceilDiv (mxN v) 256
def mxBanks (v : Vec) : List Nat := (List.range (mxBands v * mxCols v)).map (mxBank v + ·)
/-- Tiles of the output. -/
def mxTiles (v : Vec) : Nat := ceilDiv (mxM v) 256 * mxCols v
/-- First row and rows, first column and columns of tile `t` (R123). -/
def tileRows (v : Vec) (t : Nat) : Nat × Nat := let b := t / mxCols v * 256; (b, min 256 (mxM v - b))
def tileCols (v : Vec) (t : Nat) : Nat × Nat := let b := t % mxCols v * 256; (b, min 256 (mxN v - b))
/-- Banks of a tile. -/
def tileBanks (v : Vec) (t : Nat) : List Nat :=
  let (r0, r) := tileRows v t
  (List.range (ceilDiv r 32)).map fun i => mxBank v + t % mxCols v * mxBands v + r0 / 32 + i
/-- Offset of an output element in accumulator memory (R123). -/
def accOffset (v : Vec) (i j : Nat) : Nat :=
  (mxBank v + j / 256 * mxBands v + i / 32) * 32768 + i % 32 * 1024 + j % 256 * 4

/-- Bytes of `n` elements in a drain's destination: s4 pairs fill bytes by R61 whatever their number. -/
def drainBytes (f n : Nat) : Nat := if f == 13 then (n + 1) / 2 else elemBytes f n

/-- The conditions of a MXDRN on its destination format (R359). An element of a block format or of s4 takes at most a byte. -/
def drainFmtOk (v : Vec) (f : Nat) : Bool :=
  f != 15 && bankFmtOk f && (!fmtIsBlock f || mxN v % 32 == 0) &&
    (fmtGrouped f || (drDst v % typeWidth f == 0 && drBias v % typeWidth f == 0)) &&
    drainBytes f (min (mxN v) 256) ≤ drRowStride v

/-- Least tile stride (R138): the counter word follows the rows of a tile. -/
def drainTileOk (v : Vec) : Bool :=
  min (mxM v) 256 * drRowStride v + 4 ≤ drTileStride v

def f32IsNan (x : Nat) : Bool := (fF32.decode x).isNan

/-- `slo` and `shi` by activation (R359). -/
def drainActOk (v : Vec) : Bool :=
  match drAct v with
  | 0 | 1 => drLo v == 0 && drHi v == 0
  | 2 => drHi v == 0
  | 3 => !f32IsNan (drLo v) && !f32IsNan (drHi v) && !((fF32.decode (drHi v)).lt (fF32.decode (drLo v)))
  | _ => false

def drainOk (v : Vec) : Bool :=
  zeroBytes v 76 78 && vecBits v 636 4 == 0 && vecBits v 644 4 == 0 && vecBits v 651 5 == 0 && zeroBytes v 82 84 &&
    zeroBytes v 120 128 && drainActOk v && drBias v % 4 == 0 &&
    (if inSram (drDst v) then drFmt v == 0 else drainFmtOk v (drFmt v)) && drainTileOk v

def between (x lo hi : Nat) : Bool := lo ≤ x && x ≤ hi

/-- An integral value in a range. -/
def intIn (x : Nat) (lo hi : Int) : Bool :=
  match fF32.decode x with
  | .fin g m e =>
    let v : Int := if e ≥ 0 then m * 2 ^ e.toNat else m / 2 ^ (-e).toNat
    (e ≥ 0 || m % 2 ^ (-e).toNat == 0) && lo ≤ (if g then -v else v) && (if g then -v else v) ≤ hi
  | _ => false

/-- The image fields of MXC, whose format is not known yet (R357). -/
def imageOk (v : Vec) : Bool :=
  mxArs v == 0 && 1 ≤ mxcNb v && 1 ≤ mxcH v && 1 ≤ mxcW v && between (mxcC v) 1 4096 && 1 ≤ mxcKh v && 1 ≤ mxcKw v &&
    ((List.range 4).all fun i => 1 ≤ vecField v (106 + i) 1) && 1 ≤ mxcOh v && 1 ≤ mxcOw v && zeroBytes v 124 128 &&
    mxK v == mxcKh v * mxcKw v * mxcC v

/-- The fields of an MX body (R103, R123, R356-R362). -/
def mxOk (v : Vec) : Bool :=
  let k := cmdKind v
  between (mxM v) 1 4096 && between (mxN v) 1 4096 && vecBits v 630 2 == 0 && mxBank v + mxBands v * mxCols v ≤ 64 &&
    (if k == kMxdrn then drainOk v
     else between (mxK v) 1 4096 && vecBits v 633 7 == 0 && mxAoff v < 2 ^ 21 && mxBoff v < 2 ^ 21 &&
       (if k == kMxd then zeroBytes v 96 128
        else if k == kMxc then imageOk v
        else if k == kMxl then mxK v % 32 == 0 && between (mxlBits v) 1 2 && zeroBytes v 97 128 &&
          mxK v * mxlBits v / 8 ≤ mxBrs v
        else mxOver v && zeroBytes v 100 128))

/-! ### COLL (R311, R312) -/

def coOp (v : Vec) : Nat := vecField v 72 1
def coRop (v : Vec) : Nat := vecField v 73 1
def coTy (v : Vec) : Nat := vecBits v 592 4
def coRes (v : Vec) : Nat := vecBits v 596 4
def coClass (v : Vec) : Nat := vecBits v 600 3
def coChan (v : Vec) : Nat := vecBits v 603 2
def coNan (v : Vec) : Nat := vecBits v 605 2
def coN (v : Vec) : Nat := vecField v 76 2
def coRank (v : Vec) : Nat := vecField v 78 2
def coCount (v : Vec) : Nat := vecField v 80 4
def coPeer (v : Vec) : Nat := vecField v 84 2
def coSrc (v : Vec) : Nat := vecField v 88 8
def coDst (v : Vec) : Nat := vecField v 96 8
def coGrp (v : Vec) : Nat := vecField v 104 8
def coK (v : Vec) : Nat := vecField v 112 4
def coTag (v : Vec) : Nat := vecField v 116 4
/-- Bytes of a contribution element: 16 for top-k. -/
def coElem (v : Vec) : Nat := if coOp v == 7 then 16 else typeWidth (coTy v)

/-- A type code that COLL takes: R312 excludes 1, 4, 5, 14 and 15. -/
def coTypeOk (t : Nat) : Bool := !([1, 4, 5, 14, 15].contains t)
def coFloat (t : Nat) : Bool := (typeFloat t).isSome

def collOk (v : Vec) : Bool :=
  let op := coOp v
  let red := op == 0 || op == 1
  op ≤ 7 && (if red then coRop v ≤ 5 && !(3 ≤ coRop v && coFloat (coTy v)) else coRop v == 0) &&
    coTypeOk (coTy v) && coTypeOk (coRes v) &&
    (if red then !(coFloat (coTy v) && !coFloat (coRes v)) && (coFloat (coRes v) || coRes v == coTy v) else coRes v == coTy v) &&
    vecBits v 607 1 == 0 && (op != 7 || coNan v ≤ 2) && between (coN v) 1 4096 && coRank v < coN v &&
    (if op == 6 then coCount v == 0 else between (coCount v) 1 (2 ^ 24)) &&
    (if op == 3 || op == 4 || op == 5 then coPeer v < coN v && (op == 3 || coPeer v != coRank v) else coPeer v == 0) &&
    (op != 1 || coCount v % coN v == 0) && zeroBytes v 86 88 && coSrc v % coElem v == 0 &&
    coDst v % coElem v == 0 && coGrp v % 16 == 0 &&
    (if op == 7 then between (coK v) 1 (coN v * coCount v) else coK v == 0) && zeroBytes v 120 128

/-- Bytes of one contribution; a barrier's has none. -/
def coSize (v : Vec) : Nat := coCount v * coElem v

/-- Elements of a result, and the bytes of each. -/
def coOut (v : Vec) : Nat × Nat :=
  match coOp v with
  | 0 => (coCount v, typeWidth (coRes v))
  | 1 => (coCount v / coN v, typeWidth (coRes v))
  | 2 => (coN v * coCount v, coElem v)
  | 3 | 5 => (coCount v, coElem v)
  | 7 => (coK v, coElem v)
  | _ => (0, 0)

/-- What a COLL reads and writes of its own job's memory: its contribution, its group table and its result. -/
def collFoot (v : Vec) : List (Nat × Nat) × List (Nat × Nat) :=
  ([wholeBanks (coSrc v, coSize v), (coGrp v, 16 * coN v)], [wholeBanks (coDst v, (coOut v).1 * (coOut v).2)])

/-! ### LINK, NOTE, NULL -/

def lnSeg (v : Vec) : Nat := vecField v 72 8
def lnCount (v : Vec) : Nat := vecField v 80 4
def lnJump (v : Vec) : Bool := vecField v 84 1 == 1

def linkOk (v : Vec) (chain : Bool) : Bool :=
  !cmdFlag v 1 && !cmdFlag v 2 && !cmdFlag v 3 && lnSeg v % 128 == 0 && between (lnCount v) 1 65536 &&
    vecField v 84 1 ≤ 1 && lnJump v == chain && zeroBytes v 85 128

/-- `fin` is set only in a record that REND pushed. -/
def noteOk (v : Vec) (final : Bool) : Bool :=
  vecBits v 641 7 == 0 && zeroBytes v 81 128 && (vecBits v 640 1 == 0 || final)

/-- What an engine checks when it fetches a record (R103); `seg` says that it is a segment record. -/
def State.recordOk (s : State) (cl : Nat) (q : RingId) (v : Vec) (final chain seg : Bool) : Bool :=
  let k := cmdKind v
  headerOk q v && !(seg && (k == kLink || k == kNote)) &&
    (if isCopy k then s.copyOk cl v else if isMx k then mxOk v else if k == kColl then collOk v
     else if k == kLink then linkOk v chain else if k == kNote then noteOk v final else zeroBytes v 72 128)

/-! ### Matrix operands (R127, R128, R356) -/

def State.bankFmt (s : State) (cl off : Nat) : Nat := ((s.cluster cl).bank (off / 32768)).fmt.toNat

/-- A's region of own cluster SRAM: the whole image for MXC. -/
def State.mxAreg (s : State) (cl : Nat) (v : Vec) : Nat × Nat :=
  let f := s.bankFmt cl (mxAoff v)
  if cmdKind v == kMxc then (mxAoff v, mxcNb v * mxcH v * mxcW v * elemBytes f (mxcC v))
  else (mxAoff v, (mxM v - 1) * mxArs v + elemBytes f (mxK v))

/-- Bytes of a row of B. -/
def State.mxBrow (s : State) (cl : Nat) (v : Vec) : Nat :=
  if cmdKind v == kMxl then mxK v * mxlBits v / 8 else elemBytes (s.bankFmt cl (mxBoff v)) (mxK v)

def State.mxBreg (s : State) (cl : Nat) (v : Vec) : Nat × Nat := (mxBoff v, (mxN v - 1) * mxBrs v + s.mxBrow cl v)

/-- Banks of a region, those of the cluster's SRAM. -/
def regionBanks (r : Nat × Nat) : List Nat :=
  (List.range 64).filter fun b => overlaps (b * 32768) 32768 r.1 r.2

def groupOf (off : Nat) : Nat := off / 524288
def inOneGroup (r : Nat × Nat) : Bool := groupOf r.1 == groupOf (r.1 + r.2 - 1)

/-- Formats of A and B (R127). -/
def fmtPermitted (k : Nat) (b : Bool) (f : Nat) : Bool :=
  if k == kMxl then (if b then f == 15 else f == 0 || f == 2 || f == 3)
  else [2, 3, 4, 5, 6, 10, 11, 12, 13].contains f

def fmtsPair (k fa fb : Nat) : Bool :=
  k == kMxl || fa == fb || ((fa == 4 || fa == 5) && (fb == 4 || fb == 5))

/-- The unit of R356: the block of a block format, else the element. -/
def operandUnit (f : Nat) : Nat := if fmtIsBlock f then groupBytes f else if f == 13 then 1 else typeWidth f

/-- No block of `n` rows of `size` bytes, `stride` apart, spans two banks. -/
def blocksWithin (f off n stride size : Nat) : Bool :=
  !fmtIsBlock f || (List.range n).all fun i => (List.range (size / groupBytes f)).all fun b =>
    let a := off + i * stride + b * groupBytes f
    a / 32768 == (a + groupBytes f - 1) / 32768

/-- The conditions of R357 on an image that depend on A's format: they make the record invalid (R103). They are checked with the
format that the bank has when the command would enter state 7 (DEDUCED, log 71). -/
def State.imageFmtOk (s : State) (cl : Nat) (v : Vec) : Bool :=
  let f := s.bankFmt cl (mxAoff v)
  cmdKind v != kMxc || ((!fmtGrouped f || mxcC v % 32 == 0) && (f != 6 || intIn (mxcPad v) (-128) 127) &&
    (f != 13 || intIn (mxcPad v) (-8) 7))

/-- The conditions of R356 that depend on the formats found in the banks. -/
def State.operandFmtOk (s : State) (cl : Nat) (v : Vec) : Bool :=
  let k := cmdKind v
  let fa := s.bankFmt cl (mxAoff v)
  let fb := s.bankFmt cl (mxBoff v)
  let ra := elemBytes fa (mxK v)
  let rb := s.mxBrow cl v
  (!fmtGrouped fa || mxK v % 32 == 0) && (k == kMxl || !fmtGrouped fb || mxK v % 32 == 0) &&
    rb ≤ mxBrs v && mxAoff v % operandUnit fa == 0 && mxBoff v % operandUnit fb == 0 && mxBrs v % operandUnit fb == 0 &&
    blocksWithin fb (mxBoff v) (mxN v) (mxBrs v) rb &&
    (if k == kMxc then
       let pb := elemBytes fa (mxcC v)
       blocksWithin fa (mxAoff v) (mxcNb v * mxcH v * mxcW v) pb pb
     else ra ≤ mxArs v && mxArs v % operandUnit fa == 0 && blocksWithin fa (mxAoff v) (mxM v) (mxArs v) ra)

def causeBadRecord := 0x30

/-- The checks of R128 in order: the cause and subcode of the first that fails. -/
def State.mxCheck (s : State) (core : Nat) (v : Vec) : Option (Nat × Nat) :=
  let cl := clusterOf core
  let c := s.cluster cl
  let w := s.who core
  let k := cmdKind v
  let operands : Option (Nat × Nat) :=
    if !hasOperands k then none else
    let a := s.mxAreg cl v
    let b := s.mxBreg cl v
    let ba := regionBanks a
    let bb := regionBanks b
    let fa := s.bankFmt cl (mxAoff v)
    let fb := s.bankFmt cl (mxBoff v)
    if !s.imageFmtOk cl v then some (causeBadRecord, 0)
    else if !(ba ++ bb).all (fun x => bankTenantOk (c.bank x) w) then some (causeCrossTenant, 0)
    else if !inOneGroup a || !inOneGroup b then some (0x22, 4)
    else if groupOf a.1 == groupOf b.1 then some (0x22, 1)
    else if !(ba ++ bb).all (fun x => (c.bank x).mode == 1) then some (0x22, 2)
    else if !(fmtPermitted k false fa && fmtPermitted k true fb && ba.all (fun x => (c.bank x).fmt.toNat == fa) &&
        bb.all (fun x => (c.bank x).fmt.toNat == fb) && s.operandFmtOk cl v) then some (0x22, 3)
    else if !fmtsPair k fa fb then some (0x22, 5)
    else none
  operands.or
    (if (mxBanks v).any fun x => !(c.accb x).alloc then some (causeAccFree, 0)
     else ((mxBanks v).findSome? fun x => accCheck (c.accb x) w).map fun e => (e, 0))

/-! ### Footprints (R174, R334) -/

/-- The regions of an armed entry, both sides. -/
def State.reuseRegions (s : State) (t layer : Nat) : List (Nat × Nat) :=
  match (s.tenant t).slotOf layer with
  | none => []
  | some i =>
    let e := s.dirSlot t i
    if e.state == 0 then [] else [(e.xprev, 2 * e.m * e.xRow), (e.yprev, 2 * e.m * e.yRow)]

/-- The accumulator region, as whole banks. -/
def mxAccFoot (v : Vec) : Nat × Nat := (accBase + mxBank v * 32768, mxBands v * mxCols v * 32768)

/-- The last byte that MXDRN writes follows the last tile's counter word. -/
def drainFoot (v : Vec) : Nat × Nat :=
  let t := mxTiles v - 1
  let last := t * drTileStride v + (tileRows v t).2 * drRowStride v + 4
  let first := if 1 < mxTiles v then (mxTiles v - 2) * drTileStride v + (tileRows v (mxTiles v - 2)).2 * drRowStride v + 4 else 0
  (drDst v, max last first)

/-- Read and write footprints of a command. -/
def State.footprint (s : State) (core : Nat) (v : Vec) : List (Nat × Nat) × List (Nat × Nat) :=
  let cl := clusterOf core
  let k := cmdKind v
  if isCopy k then s.copyFoot cl v
  else if k == kMxdrn then
    (mxAccFoot v :: (if drBias v == 0 then [] else [(drBias v, 4 * mxN v)]), [drainFoot v])
  else if hasOperands k then
    let a := s.mxAreg cl v
    let b := s.mxBreg cl v
    let x := if k == kMxr then s.reuseRegions (s.tenantOf core) (mxrLayer v) else []
    ((sramBase + a.1, a.2) :: (sramBase + b.1, b.2) :: mxAccFoot v :: x, mxAccFoot v :: x)
  else if k == kColl then collFoot v
  else ([], [])

/-- The footprint of a record: a LINK's is empty, its segment's records with it. -/
def State.recFoot (s : State) (core : Nat) (r : Rec) : List (Nat × Nat) × List (Nat × Nat) :=
  if cmdKind r.bytes == kLink then ([], []) else s.footprint core r.cmd

/-- Two footprints have a RAW, WAR or WAW pair. -/
def footsMeet (x y : List (Nat × Nat) × List (Nat × Nat)) : Bool :=
  rangesOverlap y.1 x.2 || rangesOverlap y.2 x.1 || rangesOverlap y.2 x.2

/-- The part of a footprint in cluster SRAM and accumulator memory. -/
def localFoot (f : List (Nat × Nat)) : List (Nat × Nat) :=
  f.filter fun r => overlaps r.1 r.2 sramBase (2 ^ 21) || overlaps r.1 r.2 accBase (2 ^ 21)

/-- A heavy record (R120). -/
def State.heavy (s : State) (core : Nat) (v : Vec) : Bool :=
  let k := cmdKind v
  cmdFlag v 5 || (hasOperands k && 2 ^ 24 ≤ mxM v * mxN v * mxK v) ||
    (isCopy k && 2 ^ 20 ≤ cpTotalRows v * elemBytes (s.sideFmt (clusterOf core) (cpSrc v) (cpSrcNib v)) (cpRowel v))

end Sys2Proof.Machine
end

