-- ==== Sys2Proof/Machine/Engine.lean ====
section
/-! DEFINITION. What an engine reads and writes for a core, operand rows in cluster SRAM, and the delta pass of an MXR (R92, R100,
R127, R131, R144, R152, R383). -/

namespace Sys2Proof.Machine

/-! ### Accesses of an engine for a core -/

/-- Where bytes that a command reads or writes lie; commands make no 8-byte register access (R383). `rows` says that the access is one of
the rows of a copy, which alone reach accumulator memory (R92, R131). -/
def State.engineSpot (s : State) (w : Who) (rows : Bool) (kind : AccKind) (va n : Nat) : Spot :=
  match s.spot w kind rows va n with
  | .at (.sys pa) => .fault ⟨causeBadPhys, 0, pa⟩
  | x => x

/-- The places of a list of pieces. -/
def State.engineSpots (s : State) (w : Who) (rows : Bool) (kind : AccKind) : List (Nat × Nat) → Access (List (Target × Nat))
  | [] => .ok []
  | (va, n) :: r =>
    match s.engineSpot w rows kind va n with
    | .fault f => .fault f
    | .wait => .wait
    | .miss va => .miss va
    | .at t => (s.engineSpots w rows kind r).map fun l => (t, n) :: l

/-- Bytes that a command reads beside the rows of a copy. -/
def State.engineRead (s : State) (w : Who) (va n : Nat) : Access (List Nat) :=
  (s.engineSpots w false .read (pieces va n)).map fun l => l.flatMap fun (t, m) => s.readLoc t.key m

/-- The bytes of a row of a copy, by the ranges that it takes. -/
def State.engineRow (s : State) (w : Who) (rs : List (Nat × Nat)) : Access (List Nat) :=
  (s.engineSpots w true .read (rs.flatMap fun r => pieces r.1 r.2)).map fun l => l.flatMap fun (t, m) => s.readLoc t.key m

/-- Bytes by the ranges that they take. -/
def cutBytes : List (Nat × Nat) → List Nat → List (Nat × List Nat)
  | [], _ => []
  | (a, n) :: r, bs => (a, bs.take n) :: cutBytes r (bs.drop n)

/-- The places of a list of writes; all of them are found before any is made. -/
def State.engineTargets (s : State) (w : Who) (rows : Bool) : List (Nat × List Nat) → Access (List (Target × List Nat))
  | [] => .ok []
  | (va, bs) :: r =>
    (s.engineSpots w rows .write (pieces va bs.length)).bind fun l =>
      (s.engineTargets w rows r).map fun t =>
        (l.foldl (init := (([] : List (Target × List Nat)), bs)) fun (acc, bs) (x, m) =>
          (acc ++ [(x, bs.take m)], bs.drop m)).1 ++ t

/-- Commands update no line of a `CWAY` bank (R167). -/
def State.writeTargets (s : State) (l : List (Target × List Nat)) : State := l.foldl (fun s x => s.writeLoc x.1.key x.2) s

/-! ### Operands in cluster SRAM -/

/-- `n` elements of a row in own cluster SRAM, in the format of the bank where the row begins (R127). -/
def State.operandRow (s : State) (cl off n : Nat) : List Num :=
  let f := s.bankFmt cl off
  (decodeElems f (s.readLoc (sramKey cl off) (elemBytes f n))).take n

/-! ### The delta pass (R152) -/

/-- The exact sum of two finite values. -/
def exactSum (a b : Num) : Num :=
  match minExp [a, b] with
  | none => .fin (zeroSign 0 [a, b]) 0 0
  | some e => Num.ofScaled false (a.scaled e + b.scaled e) e

/-- A row of X_prev of a side. -/
def State.prevRow (s : State) (core : Nat) (e : DirSlot) (side : Bool) (i : Nat) : Access (List Nat) :=
  s.engineRead (s.who core) (e.xSide side + i * e.xRow) (elemBytes e.fmt e.k)

def State.prevRows (s : State) (core : Nat) (e : DirSlot) (side : Bool) : List Nat → Access (List (List Nat))
  | [] => .ok []
  | i :: r => (s.prevRow core e side i).bind fun b => (s.prevRows core e side r).map fun l => b :: l

/-- Bytes of one row group. -/
def rowGroups (f : Nat) (b : List Nat) : List (List Nat) := chunksOf (groupBytes f) b.length b

/-- The quantised delta of a row: each group's bytes; none where a delta is NaN or infinite. -/
def deltaRow (e : DirSlot) (x p : List Num) : Option (List (List Nat)) :=
  let d := List.zipWith (fun a b => fF32.decode (fF32.sum 0 0 [a, b.neg]).1) x p
  if d.any fun v => v.isNan || v.isInf then none
  else
    let th := fF32.decode (e.theta % 2 ^ 31)
    let dz := d.map fun v =>
      let a := match v with | .fin _ m k => Num.fin false m k | w => w
      if a.lt th then Num.fin false 0 0 else v
    some ((chunksOf 32 dz.length dz).map fun g => (encodeElems e.fmt e.spread 0 (fun _ => 0) false g).1)

/-- A row group holds only zeros. -/
def groupZero (f : Nat) (g : List Nat) : Bool := (decodeElems f g).all Num.isZero

/-- What the delta pass finds: 5 a NaN or infinite delta, 4 too many blocks, or the deltas of every row and the number of
blocks in use. -/
def deltaPass (e : DirSlot) (xs ps : List (List Num)) : Nat × List (List (List Nat)) × Nat :=
  let ds := List.zipWith (deltaRow e) xs ps
  if ds.any Option.isNone then (5, [], 0)
  else
    let ds := ds.map (·.getD [])
    let nb := ceilDiv e.k 32
    let nz := ((List.range nb).filter fun b => ds.any fun r => !groupZero e.fmt (r.getD b [])).length
    if e.density * nb < nz * 32 then (4, [], nz) else (0, ds, nz)


/-- The delta pass over a whole command: it reads all of X and of X_prev of a side. -/
def State.findDeltas (s : State) (core : Nat) (v : Vec) (e : DirSlot) (side : Bool) : Access (Nat × List (List (List Nat)) × Nat) :=
  let cl := clusterOf core
  (s.prevRows core e side (List.range e.m)).map fun ps =>
    deltaPass e ((List.range e.m).map fun i => s.operandRow cl (mxAoff v + i * mxArs v) (mxK v)) (ps.map (decodeElems e.fmt))

end Sys2Proof.Machine
end

