-- ==== Sys2Proof/Machine/Stages.lean ====
section
/-! DEFINITION. The stages of a record before it runs (R108): fetch (R103, R174), counters (R109, R191), order, lease (R124,
R125), permit (R120), token (R43), and entry to state 7 (R128, R142, R175, R266). -/

namespace Sys2Proof.Machine

/-! ### Records of a ring -/

/-- Rewrites the record of a sequence number. -/
def State.updRec (s : State) (core : Nat) (q : RingId) (n : Nat) (f : Rec → Rec) : State :=
  s.updCore core fun k =>
    let r := k.ring q
    match r.slots.find (n % 512) with
    | none => k
    | some x => k.setRing q { r with slots := r.slots.put (n % 512) (f x) }

def State.recOf (s : State) (core : Nat) (q : RingId) (n : Nat) : Option Rec := ((s.core core).ring q).slots.find (n % 512)

/-- A record enters a stage (R108, R113). The time since a mark or a stage began is kept, states 5 and 6 together (R124). -/
def Rec.enter (r : Rec) (s : State) (k : Nat) : Rec :=
  { r with st := { r.st with state := k, beat := s.beat.setWidth 32 },
           tick := if k == 6 && r.st.state == 5 then r.tick else s.tick.toNat, waited := s.fine }

def State.toState (s : State) (core : Nat) (q : RingId) (n k : Nat) : State := s.updRec core q n (·.enter s k)

/-- The oldest unstarted record while its engine has room (R106): the ring's head unless it runs; of queue K, the one behind
a head that runs, which may wait for the lease (R124). -/
def Ring.cursor (r : Ring) (q : RingId) : Option Nat :=
  if r.ret == r.acc then none
  else match r.head with
    | none => none
    | some x =>
      if x.st.state < 7 then some (r.ret + 1)
      else if q == .k && x.st.state == 7 && r.ret + 2 ≤ r.acc then some (r.ret + 2) else none

def State.cursor (s : State) (core : Nat) (q : RingId) : Option Nat := ((s.core core).ring q).cursor q
def State.isHead (s : State) (core : Nat) (q : RingId) (n : Nat) : Bool := ((s.core core).ring q).ret + 1 == n

/-! ### Engines -/

def engineOf (core : Nat) : RingId → EngineId
  | .l | .s => .copy (BitVec.ofNat 8 core)
  | .k => .array (BitVec.ofNat 6 (clusterOf core))
  | .g => .coll (BitVec.ofNat 2 (dieOf core))

/-- An engine works for a core: a job is placed, no reset holds the engine or the core. -/
def State.engineRuns (s : State) (core : Nat) (q : RingId) : Bool :=
  let k := s.core core
  k.job.any (·.gateOpen) && k.resetting.isNone && s.dieUp (dieOf core) && s.engineState (engineOf core q) == 0

/-- A queue starts records: the core is not stopped, leaving or hard-halted (R212, R219, R271). -/
def State.engineStarts (s : State) (core : Nat) (q : RingId) : Bool :=
  let k := s.core core
  s.engineRuns core q && k.stop.isNone && !k.preempting && !(k.halt.any (·.op == 2))

/-- The stream that pushes into a ring (R105, R191). -/
def pusher : RingId → Lane
  | .k | .g => .c
  | .l | .s => .a

/-- The edges of a command wait go (R191). -/
def State.dropCommandEdges (s : State) (core : Nat) (q : RingId) (n : Nat) : State :=
  s.dropEdges fun e => e.waiter == streamId core (pusher q) && e.cmd == some (q, n)

/-! ### A fault of a command (R103, R212) -/

/-- What a frame says of a command. -/
def Rec.stop (r : Rec) (q : RingId) (p : Stop) : Stop :=
  { p with src := ringSrc q, seq := r.st.seq, corr := cmdCorr r.cmd, cls := cmdClass r.cmd }

/-- A command takes a fault: it stops at its mark in state 10, and its core stops. On a core that is stopped already it goes
back to state 1 (DEDUCED, log 22). -/
def State.faultRecord (s : State) (core : Nat) (q : RingId) (n : Nat) (p : Stop) : State :=
  match s.recOf core q n with
  | none => s
  | some r =>
    let s := s.dropCommandEdges core q n
    if (s.core core).stop.isSome then
      (s.updRec core q n fun x => { x.enter s 1 with performed := false }).leaseAfterStop core
    else
      let x := { r.enter s 10 with performed := false, st := { (r.enter s 10).st with cause := p.cause } }
      (s.updRec core q n fun _ => x).stopCore core { x.stop q p with cstat := some x.st }

/-- A command's access fails. -/
def State.faultAccess (s : State) (core : Nat) (q : RingId) (n : Nat) (f : AccFault) (kind : AccKind) : State :=
  s.faultRecord core q n
    { cause := f.cause, sub := f.sub, addr := some f.addr, access := kind.code, width := widthLog 128 }

def causeOverlap := 0x34

def State.faultCause (s : State) (core : Nat) (q : RingId) (n cause sub : Nat) : State :=
  s.faultRecord core q n { cause := cause, sub := sub }

/-! ### RECORD_FETCH -/

/-- The records from which a record has a derived edge (R174): of those that it found when it became the oldest unstarted record of its
ring, the ones that are not retired now; the footprints are those of the formats found now (DESIGN CHOICE, log 77). -/
def State.derivedEdges (s : State) (core : Nat) (q : RingId) (y : Rec) : List (Nat × Nat) :=
  let k := s.core core
  if k.job.any (·.det) || q == .g then [] else
  let fy := s.recFoot core y
  (y.rivals.getD (k.oldestOf q)).filter fun (p, n) =>
    let r := k.ring (ringOfCode (BitVec.ofNat 2 p))
    r.ret < n && (r.slots.find (n % 512)).any fun x => x.born < y.born && footsMeet (s.recFoot core x) fy

/-- A fetched record passes its checks and waits for its counters; a final NOTE returns its queue to ring mode (R114). -/
def State.fetchRecord (s : State) (core : Nat) (q : RingId) (n : Nat) (r : Rec) : State :=
  if !s.recordOk (clusterOf core) q r.cmd r.final r.inChain r.seg.isSome then s.faultCause core q n causeBadRecord 0
  else
    let d := s.derivedEdges core q r
    let s := s.updRec core q n fun x => { x.enter s 2 with derived := d, recheck := none }
    if r.final then s.updCore core fun k => k.setChain q { k.chain q with mode := false } else s

/-- The record whose stages an event advances, in a state. -/
def State.atStage (s : State) (core : Nat) (q : RingId) (ok : Nat → Bool) (body : Nat → Rec → State) : State :=
  if !s.engineStarts core q then s
  else match s.cursor core q with
    | none => s
    | some n =>
      match s.recOf core q n with
      | none => s
      | some r => if ok r.st.state then body n r else s

/-- Where a record of a chain, or of a call's segment, was fetched from. -/
def Rec.fetchedFrom (r : Rec) : Nat := if r.seg.isSome then lnSeg r.bytes + 128 * r.st.kcount else (r.source.getD 0).toNat

/-- A record of a chain or of a call whose engine has dropped its copy is fetched again, as memory holds it now, and checked (R103, R116,
R345). -/
def State.refetchRec (s : State) (core : Nat) (q : RingId) (n : Nat) (r : Rec) : State :=
  match s.engineRead (s.who core) r.fetchedFrom 128 with
  | .fault f => s.faultAccess core q n f .read
  | .wait => s
  | .miss va => s.noteMiss core va
  | .ok bs =>
    let v := stampRec (BitVec.ofNat 1024 (ofBytes bs)) r.st.seq (vecField r.bytes 8 2)
    if !s.recordOk (clusterOf core) q v r.final r.inChain r.seg.isSome then s.faultCause core q n causeBadRecord 0
    else s.updRec core q n fun x =>
      { x with bytes := if r.seg.isSome then x.bytes else v, seg := if r.seg.isSome then some v else none, refetch := false }

def execRecordFetch (core : BitVec 8) (q : RingId) (s : State) : Out :=
  .next (s.atStage core.toNat q (· == 1) fun n r =>
    if r.refetch then s.refetchRec core.toNat q n r else s.fetchRecord core.toNat q n r)

/-! ### RECORD_WAITS_SATISFIED -/

/-- What a record's wait pairs find: a fault, or the handles that are not satisfied; a pair on a die under warm reset is
held (R179). -/
def State.unsatisfied (s : State) (core : Nat) : List (BitVec 32 × Nat) → Except Nat (List (BitVec 32))
  | [] => .ok []
  | (h, thr) :: r =>
    if s.present (hDie h) && !s.dieUp (hDie h) then (s.unsatisfied core r).map (h :: ·)
    else if s.cutOffFrom (dieOf core) h then .error causeHomeOffline
    else match s.object (s.tenantOf core) (s.levelOf core) h [0] with
      | .error c => .error c
      | .ok (.counter v) => if waitSatisfied v thr then s.unsatisfied core r else (s.unsatisfied core r).map (h :: ·)
      | .ok _ => .error causeBadHandle

/-- Registers a command wait on each handle (R191, R194, R195). -/
def State.registerWaits (s : State) (core : Nat) (q : RingId) (n : Nat) : List (BitVec 32) → State
  | [] => s
  | h :: r =>
    match s.insertEdge ⟨streamId core (pusher q), false, h.toNat, some (q, n)⟩ with
    | .registered s => s.registerWaits core q n r
    | .full s =>
      (s.updRec core q n fun x =>
        { x with recheck := some (firstGap, s.tick.toNat + firstGap) }).registerWaits core q n r
    | .cycle es =>
      match s.recOf core q n with
      | none => s
      | some x => s.stopCore core
          (x.stop q { cause := causeDeadlock, cmdw := deadlockBits es, dlock := deadlockPairs es, cstat := some x.st })

/-- The next re-check of an unregistered wait (R195). -/
def nextRecheck (tick : Nat) (g : Nat) : Nat × Nat := (min (2 * g) 65536, tick + min (2 * g) 65536)

/-- The pairs are looked at: all satisfied, the record goes on to state 3. -/
def State.checkWaits (s : State) (core : Nat) (q : RingId) (n : Nat) (r : Rec) : State :=
  let s := s.readObjects (cmdWaits r.cmd)
  match s.unsatisfied core (cmdWaits r.cmd) with
  | .error c => s.faultCause core q n c 0
  | .ok [] => (s.dropCommandEdges core q n).updRec core q n fun x => { x.enter s 3 with recheck := none }
  | .ok hs =>
    let mine : Edge → Bool := fun e =>
      e.waiter == streamId core (pusher q) && e.cmd == some (q, n) && !hs.any fun h => h.toNat == e.obj
    let s := s.dropEdges mine
    match r.recheck with
    | none => s.registerWaits core q n hs
    | some (g, _) => s.updRec core q n fun x => { x with recheck := some (nextRecheck s.tick.toNat g) }

def execRecordWaitsSatisfied (core : BitVec 8) (q : RingId) (s : State) : Out :=
  .next (s.atStage core.toNat q (· == 2) fun n r =>
    if r.recheck.any fun g => s.tick.toNat < g.2 then s else s.checkWaits core.toNat q n r)

/-! ### The lease (R124, R125) -/

/-- The record with which a core requests the lease: its oldest unstarted record, an MX record in state 4. -/
def State.leaseRequest (s : State) (core : Nat) : Option Rec :=
  if !s.engineStarts core .k then none
  else match s.cursor core .k with
    | none => none
    | some n => (s.recOf core .k n).filter fun r => r.st.state == 4 && isMx (cmdKind r.cmd)

/-- Cores of a cluster by number, starting after one. -/
def roundRobin (last : Nat) : List Nat := [1, 2, 3, 4].map fun i => (last + i) % 4

def fifoFull (f : Fifo) : Bool := f.acc - f.base == 15

/-- Back-pressure (R125). -/
def CoreState.pressure (k : CoreState) : Nat :=
  k.ringK.occupancy + 16 * ([0, 2, 3].filter fun p => fifoFull (k.tokens (fifoOf p 1))).length

/-- The requester with the greatest rank, the first in the order given among equals. -/
def bestOf (rank : Nat → Nat × Nat) : List Nat → Option Nat
  | [] => none
  | a :: t =>
    match bestOf rank t with
    | none => some a
    | some b => if (rank a).1 < (rank b).1 || ((rank a).1 == (rank b).1 && (rank a).2 < (rank b).2) then some b else some a

/-- The winner among requesting cores of a cluster (R125); a boost counts as `prio` (R193). -/
def State.leaseWinner (s : State) (cl : Nat) : Option Nat :=
  let l := (s.cluster cl).lease
  let rs := (roundRobin l.last.toNat).filter fun i => (s.leaseRequest (4 * cl + i)).isSome
  match rs.find? fun i => l.lost.at i 0 != 0 with
  | some i => some i
  | none => bestOf (fun i => (max (((s.leaseRequest (4 * cl + i)).map fun r => cmdPrio r.cmd).getD 0) (s.boost (4 * cl + i)),
      (s.core (4 * cl + i)).pressure)) rs

/-- A run begins: its length is the first record's `run`, or `lease_run`. Losers count a loss, others none. -/
def State.grantLease (s : State) (cl : Nat) : State :=
  if (s.cluster cl).lease.holder.isSome then s
  else match s.leaseWinner cl with
    | none => s
    | some i =>
      let core := 4 * cl + i
      match s.leaseRequest core with
      | none => s
      | some r =>
        let run := cmdRun r.cmd
        let len := if run == 0 then (s.core core).leaseRun.toNat else run
        let lost : Tab Nat := [0, 1, 2, 3].filterMap fun j =>
          if j != i && (s.leaseRequest (4 * cl + j)).isSome then some (j, (s.cluster cl).lease.lost.at j 0 + 1) else none
        (s.updCluster cl fun c =>
          { c with lease := ⟨some (BitVec.ofNat 2 i), 0, len, s.tick.toNat, BitVec.ofNat 2 i, lost, false⟩ }).trace
            core .c (ringSrc .k) 4 (cmdCorr r.cmd) r.st.seq 0

def State.holdsLease (s : State) (core : Nat) : Bool :=
  (s.cluster (clusterOf core)).lease.holder == some (BitVec.ofNat 2 (coreIn core))

/-- A run ends, and the lease passes on. -/
def State.passLease (s : State) (cl : Nat) : State := (s.endLeaseRun cl).grantLease cl

/-! ### Entry to state 7 -/

/-- The record that a ring's engine works on holds a permit: its die's governor says which do (R120). -/
def State.hasPermit (s : State) (core : Nat) (q : RingId) : Bool :=
  (s.die (dieOf core)).permits.any fun p => p.1.toNat == core && p.2 == q

def State.returnPermit (s : State) (core : Nat) (q : RingId) (n : Nat) : State :=
  (s.updRec core q n fun x => { x with asked := none }).updDie (dieOf core) fun d =>
    { d with permits := d.permits.filter fun p => !(p.1.toNat == core && p.2 == q) }

/-- Another record of the core in state 7 whose local footprint meets this one's (R175). -/
def State.overlapping (s : State) (core : Nat) (q : RingId) (r : Rec) : Option (RingId × Nat) :=
  if !(s.core core).job.any (·.det) then none else
  let f := s.recFoot core r
  let mine := (localFoot f.1, localFoot f.2)
  [RingId.l, .k, .s, .g].findSome? fun p =>
    if p == q then none else
    match ((s.core core).ring p).head with
    | some x =>
      let g := s.recFoot core x
      if x.st.state == 7 && ((s.core core).ring p).ret != ((s.core core).ring p).acc &&
          footsMeet (localFoot g.1, localFoot g.2) mine then some (p, x.st.seq) else none
    | none => none

/-- Chunks of a copy from the formats in force (R91, R333). -/
def State.makePlan (s : State) (cl : Nat) (v : Vec) : Plan :=
  let sf := s.sideFmt cl (cpSrc v) (cpSrcNib v)
  let df := s.dstFmt cl v (cpDst v)
  let conv := converts sf df
  let row := if conv then cpRowel v else elemBytes sf (cpRowel v)
  let chunk := if conv then 4096 / groupBytes df * 32 else 4096
  if cmdKind v != kGcopy then ⟨conv, row, chunk, false⟩
  else
    let bytes := rowBytes sf df (cpRowel v)
    if bytes ≤ 4096 then ⟨conv, row, 4096 / bytes * row, false⟩ else ⟨conv, row, chunk, true⟩

/-- The entry of an MXR's layer is claimed by another MXR (R142). -/
def State.claimedByOther (s : State) (core : Nat) (r : Rec) : Bool :=
  cmdKind r.cmd == kMxr && r.mxr.isNone && s.layerClaimed (s.tenantOf core) (mxrLayer r.cmd)

/-- The status flags of a path (R153). -/
def mxrFlags (r : Rec) (full unmapped : Bool) (reason : Nat) : BitVec 8 :=
  BitVec.ofNat 8 (r.st.kflags.toNat % 2 + (if full then 2 else 0) + 8 * reason + (if unmapped then 64 else 0))

/-- The watch of an entry is made afresh for a full product (R156); whether some page is not mapped. -/
def State.refreshWatch (s : State) (t i : Nat) (e : DirSlot) : DirSlot × Bool :=
  let w := s.watchOf t i e.wbase e.wext
  ({ e with watch := w, coarse := w.any (!·.2.2) }, !s.wholeMapped t e.wbase e.wext)

/-- A cluster's copies of reuse entries after a claim: the entry's is fetched afresh where its update count differs from the slot's, and is
the most recently claimed one; of more than 32, the least recently claimed one that no MXR claims gives way (R142). -/
def State.cacheClaim (s : State) (cl t i : Nat) : State :=
  let claimed (e : Nat × Nat × Nat) : Bool := (s.dirSlot e.1 e.2.1).claim.isSome
  let l := (s.cluster cl).reuseCache.filter fun e => !(e.1 == t && e.2.1 == i)
  let l := if l.length < 32 then l else
    match l.find? fun e => !claimed e with
    | some e => l.erase e
    | none => l
  s.updCluster cl fun c => { c with reuseCache := l ++ [(t, i, (s.dirSlot t i).updates)] }

/-- An MXR claims its entry and takes its path (R142, R151). The delta pass is made with the claim, and a full product for either reason
has its watch from the claim on (R152, R156). Where X_prev cannot be read now, the first tile makes the pass, and the watch is made
now for a full product that may follow. -/
def State.claimEntry (s : State) (core n : Nat) (r : Rec) : State :=
  let t := s.tenantOf core
  let v := r.cmd
  let plain (reason : Nat) : State := s.updRec core .k n fun x =>
    { x with mxr := some ⟨0, false, 0, 0, [], []⟩, st := { x.st with kflags := mxrFlags x true false reason, kcount := x.kindCount 0 } }
  match (s.tenant t).slotOf (mxrLayer v) with
  | none => plain 6
  | some i =>
    let e := s.dirSlot t i
    if e.state == 0 then plain 6
    else if mxM v != e.m || mxN v != e.n || mxK v != e.k || s.bankFmt (clusterOf core) (mxAoff v) != e.fmt then plain 7
    else
      let first := if e.state == 1 then 1 else if e.state == 3 then 2 else if e.interval ≤ e.steps then 3 else 0
      let pass : Option (Nat × List (List (List Nat)) × Nat) :=
        if first != 0 then some (first, [], 0) else match s.findDeltas core v e e.side with
          | .ok x => some x
          | _ => none
      let (reason, ds, nz) := pass.getD (0, [], 0)
      let (w, un) := if pass.isSome && reason == 0 then (e, false) else s.refreshWatch t i e
      let s := (s.setDir t i { w with claim := some s.steps, race := false, updates := (e.updates + 1) % 2 ^ 32 }).cacheClaim
        (clusterOf core) t i
      s.updRec core .k n fun x =>
        { x with mxr := some ⟨i, e.side, if pass.isNone then 3 else if reason == 0 then 2 else 1, s.steps, ds, e.watch⟩
                 st := { x.st with kflags := mxrFlags x (reason != 0) un reason
                                   kcount := x.kindCount (if pass.isSome && reason == 0 then ceilDiv e.k 32 - nz else 0) } }

/-! ### Audit selection (R266) -/

def auditKind (k : Nat) : Bool := isMx k || k == kCopy || k == kGcopy

/-- 4 KiB units that the log of a command takes. -/
def State.auditUnits (s : State) (core : Nat) (v : Vec) : Nat :=
  ceilDiv (((s.footprint core v).1.map Prod.snd).foldl (· + ·) 0 + 256) 4096

/-- The units of the audit area that no log takes, lowest first. -/
def auditRoom (d : DieState) : List Nat :=
  (List.range (bitsOf d.audarea.toNat 52 12 * 16)).filter fun u => !d.audits.any fun a => a.place.contains u

/-- The runs of bytes that a range of a command's read footprint is logged by: where each lies, and how long it is; bytes that cannot be
read are nowhere (log 84). -/
def State.auditParts (s : State) (core : Nat) (r : Nat × Nat) : List (Option Nat × Nat) :=
  match s.engineSpots (s.who core) true .read (pieces r.1 r.2) with
  | .ok l => l.map fun (t, n) => (some t.key, n)
  | _ => [(none, r.2)]

/-- What is logged of a run; zeros of one that cannot be read (log 84). -/
def State.auditInput (s : State) (p : Option Nat × Nat) : List Nat := p.1.elim (List.replicate p.2 0) (s.readLoc · p.2)

/-- What the log of a record that enters state 7 holds beside bytes. -/
def State.auditEntry (s : State) (core : Nat) (j : Job) (r : Rec) : AuditStart :=
  { record := r, job := j, maps := (s.tenant (s.tenantOf core)).maps, cluster := s.cluster (clusterOf core)
    entry := (r.mxr.filter (·.path != 0)).map fun m => (m.slot, s.dirSlot (s.tenantOf core) m.slot)
    parts := (s.footprint core r.cmd).1.flatMap (s.auditParts core) }

/-- The claimed entry as it is logged: its descriptor, `steps`, `version`, `spread`, state and side (R161). -/
def DirSlot.logged (e : DirSlot) : List Nat :=
  bytesOf 64 e.desc.toNat ++ bytesOf 4 e.steps ++ bytesOf 4 e.version ++ bytesOf 4 e.spread ++ [e.state, boolBit e.side 0]

/-- The log of a command: the record, its entry, and what it reads (R161, R266; DESIGN CHOICE, log 84: the arrangement is not
architectural). -/
def State.auditBytes (s : State) (x : AuditStart) : List Nat :=
  let e := (x.entry.map fun e => e.2.logged).getD []
  bytesOf 128 x.record.cmd.toNat ++ e ++ List.replicate (128 - e.length) 0 ++ x.parts.flatMap s.auditInput

/-- A log is written to its units of the area. -/
def State.writeAudit (s : State) (base : Nat) (place : List Nat) (bs : List Nat) : State :=
  (place.zip (chunksOf 4096 bs.length bs)).foldl (fun s p => s.writeLoc (base + p.1 * 4096) p.2) s

/-- A record enters state 7 for the first time: a candidate is counted, and perhaps selected. -/
def State.auditStart (s : State) (core : Nat) (q : RingId) (n : Nat) (r : Rec) : State :=
  let v := r.cmd
  let d := dieOf core
  let x := s.die d
  if !(cmdFlag v 4 && auditKind (cmdKind v) && x.auden) then s
  else
    let c := x.candidates + 1
    let s := s.updDie d fun x => { x with candidates := c }
    if c % 2 ^ x.audn != 0 then s
    else
      let place := (auditRoom x).take (s.auditUnits core v)
      if place.length < s.auditUnits core v then s.updDie d fun x => { x with audskip := min (x.audskip + 1) 0xFFFFFFFF }
      else match (s.core core).job with
        | none => s
        | some j =>
          let base := bitsOf x.audarea.toNat 16 36 * 65536
          let e := s.auditEntry core j ((s.recOf core q n).getD r)
          let a : AuditLog := ⟨BitVec.ofNat 8 core, q, r.st.seq, cmdCorr v, j.tenant, base, place, e, 0, [], none, none⟩
          ((s.writeAudit base place (s.auditBytes e)).updDie d fun x =>
            { x with audits := x.audits ++ [a] }).updRec core q n fun x => { x with audited := true }

/-! ### Running -/

def State.enterRun (s : State) (core : Nat) (q : RingId) (n : Nat) (r : Rec) : State :=
  let plan := if isCopy (cmdKind r.cmd) then some (s.makePlan (clusterOf core) r.cmd) else none
  let s := (s.updRec core q n fun x => { x.enter s 7 with plan := x.plan.or plan, started := true, coll := x.coll.map fun c => { c with since := s.beat.toNat } }).updCore core (·.noteOldest q)
  if r.started then s
  else (s.trace core (pusher q) (ringSrc q) 0 (cmdCorr r.cmd) r.st.seq 0).auditStart core q n r

/-- A record that holds its token, permit and lease enters state 7, takes a fault, or goes back to state 3 where its entry
is claimed. -/
def State.startRec (s : State) (core : Nat) (q : RingId) (n : Nat) : State :=
  match s.recOf core q n with
  | none => s
  | some r =>
    match if isMx (cmdKind r.cmd) then s.mxCheck core r.cmd else none with
    | some (c, sub) => s.faultCause core q n c sub
    | none =>
      match s.overlapping core q r with
      | some (p, m) => s.faultRecord core q n { cause := causeOverlap, aux0 := ringCode p * 2 ^ 30 + m % 2 ^ 30 }
      | none =>
        if s.claimedByOther core r then
          let s := (s.toState core q n 3).returnPermit core q n
          if s.holdsLease core then s.passLease (clusterOf core) else s
        else if cmdKind r.cmd == kMxr && r.mxr.isNone then
          let s := s.claimEntry core n r
          s.enterRun core q n r
        else s.enterRun core q n r

/-- A record that may wait for a token or slots (R108 state 6). -/
def Rec.needsToken (r : Rec) : Bool :=
  (cmdFlag r.cmd 1 && !r.st.popd) || (cmdKind r.cmd == kMcast && !r.slots)

def State.afterPermit (s : State) (core : Nat) (q : RingId) (n : Nat) : State :=
  match s.recOf core q n with
  | none => s
  | some r => if r.needsToken then s.toState core q n 6 else s.startRec core q n

/-- A record goes on from state 4: it asks for a permit where it is heavy and holds none. -/
def State.afterLease (s : State) (core : Nat) (q : RingId) (n : Nat) : State :=
  match s.recOf core q n with
  | none => s
  | some r =>
    if s.heavy core r.cmd && !s.hasPermit core q then
      s.updRec core q n fun x => { x.enter s 5 with asked := some s.steps }
    else s.afterPermit core q n

/-! ### RECORD_ORDER_SATISFIED -/

/-- A ring has retired a sequence number (R108). -/
def CoreState.hasRetired (k : CoreState) (q : RingId) (n : Nat) : Bool := n ≤ (k.ring q).ret

/-- Predecessors and derived edges have retired, what A's push released has performed, and no other MXR claims the entry (R108, R171). -/
def State.orderSatisfied (s : State) (core : Nat) (r : Rec) : Bool :=
  let k := s.core core
  r.after == some 0 && (cmdPreds r.cmd).all (fun p => k.hasRetired p.1 p.2) &&
    r.derived.all (fun p => k.hasRetired (ringOfCode (BitVec.ofNat 2 p.1)) p.2) && !s.claimedByOther core r

/-- The lease is asked for, and the record goes on when its core holds it and the engine has room. -/
def State.tryLease (s : State) (core n : Nat) : State :=
  let s := s.grantLease (clusterOf core)
  if s.holdsLease core && s.isHead core .k n then s.afterLease core .k n else s

def execRecordOrderSatisfied (core : BitVec 8) (q : RingId) (s : State) : Out :=
  let c := core.toNat
  .next (s.atStage c q (fun k => k == 3 || k == 4) fun n r =>
    if r.st.state == 4 then s.tryLease c n
    else if !s.orderSatisfied c r then s
    else if isMx (cmdKind r.cmd) then (s.toState c q n 4).tryLease c n
    else if s.isHead c q n then s.afterLease c q n
    else s)

/-! ### PERMIT_GRANT -/

/-- Records of a die that ask for a permit: priority and time of request. -/
def State.asking (s : State) (die : Nat) : List (Nat × Nat) :=
  (s.cores.filter fun c => dieOf c.1 == die).flatMap fun (c, k) =>
    [RingId.l, .k, .s, .g].filterMap fun q =>
      match (k.ring q).head with
      | some x => if x.st.state == 5 && (k.ring q).ret != (k.ring q).acc && s.engineStarts c q then
          x.asked.map fun a => (max (cmdPrio x.cmd) (s.boost c), a) else none
      | none => none

/-- No other request comes first: by priority, then in order of request. -/
def State.firstAsking (s : State) (die prio at_ : Nat) : Bool :=
  !(s.asking die).any fun a => prio < a.1 || (prio == a.1 && a.2 < at_)

def execPermitGrant (core : BitVec 8) (q : RingId) (s : State) : Out :=
  let c := core.toNat
  let d := dieOf c
  .next (s.atStage c q (· == 5) fun n r =>
    if !s.firstAsking d (max (cmdPrio r.cmd) (s.boost c)) (r.asked.getD 0) || !Config.permitFits (s.die d).permits.length then s
    else
      ((s.updRec c q n fun x => { x with asked := none }).updDie d fun x =>
        { x with permits := x.permits ++ [(core, q)] }).afterPermit c q n)

/-! ### RECORD_TOKEN_POP -/

/-- Receivers of a multicast, as core numbers of the module. -/
def receivers (core : Nat) (v : Vec) : List Nat :=
  ((List.range 64).filter fun i => (cpRecv v).testBit i).map (64 * dieOf core + ·)

/-- A multicast takes a slot of every receiver (R118). -/
def State.takeSlots (s : State) (core n : Nat) (q : RingId) (v : Vec) : Option State :=
  let rs := receivers core v
  let k := s.core core
  if !rs.all fun r => k.slotsFree (cpChan v) r != 0 then none
  else some ((s.updCore core fun k => rs.foldl (init := k) fun k r =>
    k.setSlots (cpChan v) r (k.slotsFree (cpChan v) r - 1)).updRec core q n fun x => { x with slots := true })

/-- The token of `flags` bit 1 is popped, then a multicast takes its slots, then the record starts. -/
def State.popStage (s : State) (core : Nat) (q : RingId) (n : Nat) (r : Rec) : State :=
  let agent := (ringAgent q).getD 0
  let need := cmdFlag r.cmd 1 && !r.st.popd
  if need && !((s.core core).tokens (fifoOf (cmdPop r.cmd) agent)).some then s
  else
    let s := if need then (s.popToken core (cmdPop r.cmd) agent).updRec core q n fun x =>
      { x with st := { x.st with popd := true } } else s
    if cmdKind r.cmd == kMcast && !r.slots then
      match s.takeSlots core n q r.cmd with
      | none => s
      | some s => s.startRec core q n
    else s.startRec core q n

def execRecordTokenPop (core : BitVec 8) (q : RingId) (s : State) : Out :=
  .next (s.atStage core.toNat q (· == 6) fun n r => s.popStage core.toNat q n r)

end Sys2Proof.Machine
end

