-- ==== Sys2Proof/Machine/Copies.lean ====
section
/-! DEFINITION. The copy engine: COPY, GCOPY and MCAST, one chunk at a time (R89, R91, R111, R118, R119, R315-R319,
R332-R334, R351, R352), and its bandwidth shares (R206). -/

namespace Sys2Proof.Machine

/-! ### Rows and chunks -/

/-- Chunks of a copy of `rows` rows. -/
def Plan.count (p : Plan) (rows : Nat) : Nat :=
  if p.perRow then rows * ceilDiv p.row p.chunk else ceilDiv (rows * p.row) p.chunk

/-- The pieces of the units `[a, b)` of rows of `row` units: row, first and last unit. -/
def cutRows (row : Nat) : Nat → Nat → Nat → List (Nat × Nat × Nat)
  | 0, _, _ => []
  | f + 1, a, b =>
    if b ≤ a then [] else
    let r := a / row
    let hi := min b ((r + 1) * row)
    (r, a - r * row, hi - r * row) :: cutRows row f hi b

/-- The pieces of chunk `c`. -/
def Plan.pieces (p : Plan) (rows c : Nat) : List (Nat × Nat × Nat) :=
  if p.perRow then
    let per := ceilDiv p.row p.chunk
    [(c / per, c % per * p.chunk, min p.row (c % per * p.chunk + p.chunk))]
  else
    let a := c * p.chunk
    let b := min (rows * p.row) (a + p.chunk)
    cutRows p.row (b / p.row + 2) a b

/-- Addresses of a row, whose index is `x` (R316, R333). -/
def rowSrc (v : Vec) (row x : Nat) : Nat :=
  if cmdKind v == kGcopy then addr64 ((cpSrc v : Int) + (if cpGather v then x else row) * cpSrs v)
  else addr64 ((cpSrc v : Int) + (row / cpRows v : Nat) * cpSps v + (row % cpRows v : Nat) * cpSrs v)
def rowDst (v : Vec) (row x : Nat) : Nat :=
  if cmdKind v == kGcopy then addr64 ((cpDst v : Int) + (if cpScatter v then x else row) * cpDrs v)
  else addr64 ((cpDst v : Int) + (row / cpRows v : Nat) * cpDps v + (row % cpRows v : Nat) * cpDrs v)

/-- The banks that a row in own cluster SRAM touches have one format (R317). -/
def State.rowFmtOk (s : State) (cl va n f : Nat) : Bool :=
  !inSram va || (packedRuns f va 0 n).all fun r =>
    (regionBanks (r.1 - sramBase, r.2)).all fun b => ((s.cluster cl).bank b).fmt.toNat == f

/-- Rows in accumulator memory are whole rows at row starts (R92, R131, R318): the row at `va`, and the side's base. -/
def accRowsOk (base va : Nat) (s1 s2 : Int) (n : Nat) : Bool :=
  (!inAcc base || base % 1024 == 0) && (!inAcc va || va % 1024 == 0) &&
    (!(inAcc base || inAcc va) || (s1 % 1024 == 0 && s2 % 1024 == 0 && n % 1024 == 0))

/-- Why a chunk cannot be performed now. -/
inductive Chunk (α : Type) where
  | ok (x : α)
  | wait
  | miss (va : Nat)
  | fault (f : AccFault) (kind : AccKind)
  | bad
  deriving DecidableEq, Repr

def Chunk.bind {α β : Type} (x : Chunk α) (f : α → Chunk β) : Chunk β :=
  match x with
  | .ok a => f a
  | .wait => .wait
  | .miss va => .miss va
  | .fault e k => .fault e k
  | .bad => .bad

def Access.chunk {α : Type} (x : Access α) (k : AccKind) : Chunk α :=
  match x with
  | .ok a => .ok a
  | .wait => .wait
  | .miss va => .miss va
  | .fault f => .fault f k

/-- What a piece of a chunk moves: its bytes by the addresses where they go, flags, whether it converted, and rows found out of range. -/
structure Moved where
  writes : List (Nat × List Nat)
  flags : Flags
  conv : Bool
  out : Nat
  deriving DecidableEq, Repr

/-- The index of a row of a GCOPY. -/
def State.rowIndex (s : State) (w : Who) (v : Vec) (row : Nat) : Chunk Nat :=
  if cmdKind v != kGcopy then .ok 0
  else ((s.engineRead w (cpIdx v + row * cpIndexBytes v) (cpIndexBytes v)).map ofBytes).chunk .read

/-- The element of a row at which a boundary of the plan stands, where it is counted in bytes of other formats; groups are
not cut. -/
def Plan.elem (p : Plan) (sf df rowel u : Nat) : Nat :=
  let e := u * rowel / p.row
  if u != p.row && (fmtGrouped sf || fmtGrouped df) then e / 32 * 32 else e

/-- A destination bank in `FIFO` mode: it takes entries in element order, whatever offsets and strides say (R89, R316). -/
def State.fifoBank (s : State) (cl : Nat) (v : Vec) : Bool :=
  inSram (cpDst v) && ((s.cluster cl).bank ((cpDst v - sramBase) / 32768)).mode == 3

/-- One piece: read, and converted where R91 says so. A row that is out of range in gather mode is checked where it is written (R334). -/
def State.movePiece (s : State) (core : Nat) (v : Vec) (p : Plan) (piece : Nat × Nat × Nat) : Chunk Moved :=
  let w := s.who core
  let cl := clusterOf core
  let (row, lo, hi) := piece
  let n := cpRowel v
  (s.rowIndex w v row).bind fun x =>
    let gone := cmdKind v == kGcopy && cpLim v ≤ x
    let sa := rowSrc v row x
    let da := rowDst v row x
    let sf := s.sideFmt cl (if gone && cpGather v then cpSrc v else sa) (cpSrcNib v)
    let fifo := cmdKind v != kMcast && s.fifoBank cl v
    let df := s.dstFmt cl v (if fifo || (gone && cpScatter v) then cpDst v else da)
    let conv := converts sf df
    let scaled := p.conv || conv || elemBytes sf n != p.row
    let a := if scaled && !p.conv then p.elem sf df n lo else lo
    let b := if scaled && !p.conv then p.elem sf df n hi else hi
    let so := if scaled then elemBytes sf a else lo
    let sn := (if scaled then elemBytes sf b else hi) - so
    let dOff := if conv then elemBytes df a else so
    let dn := if conv then elemBytes df b - dOff else sn
    let reads := !gone
    let writes := cmdKind v != kMcast && !fifo && !(gone && cpScatter v)
    if n % 32 != 0 && (fmtGrouped sf || fmtGrouped df) then .bad
    else if reads && !s.rowFmtOk cl sa (elemBytes sf n) sf then .bad
    else if writes && !s.rowFmtOk cl da (rowBytes sf df n) df then .bad
    else if reads && !accRowsOk (cpSrc v) sa (cpSrs v) (cpSps v) (elemBytes sf n) then .fault ⟨causeAccWidth, 0, sa⟩ .read
    else if writes && !accRowsOk (cpDst v) da (cpDrs v) (cpDps v) (rowBytes sf df n) then .fault ⟨causeAccWidth, 0, da⟩ .write
    else if gone then
      .ok ⟨if cpGather v then cutBytes (packedRuns df da dOff dn) (List.replicate dn 0) else [], 0, false, if lo == 0 then 1 else 0⟩
    else ((s.engineRow w (packedRuns sf sa so sn)).chunk .read).bind fun bs =>
      if conv then
        let (o, fl) := encodeElems df (cpSpread v) (cmdRound v) (fun i => rsBits (cmdCorr v) (row * n + a + i))
          (fmtIsInt sf) (decodeElems sf bs)
        .ok ⟨cutBytes (packedRuns df da dOff dn) o, fl, true, 0⟩
      else .ok ⟨cutBytes (packedRuns df da dOff dn) bs, 0, false, 0⟩

/-- The pieces of a chunk in order. -/
def State.moveAll (s : State) (core : Nat) (v : Vec) (p : Plan) : List (Nat × Nat × Nat) → Chunk (List Moved)
  | [] => .ok []
  | x :: r => (s.movePiece core v p x).bind fun m =>
      (s.moveAll core v p r).bind fun l => .ok (m :: l)

def movedWrites (l : List Moved) : List (Nat × List Nat) := l.flatMap (·.writes)
def movedBytes (l : List Moved) : List Nat := (movedWrites l).flatMap Prod.snd

/-! ### `FIFO` destinations (R89) -/

def fifoKey (cl b : Nat) : Nat := cl * 64 + b

/-- The bank that a destination names. -/
def dstBank (v : Vec) : Nat := (cpDst v - sramBase) / 32768

/-- The bytes of a chunk that go into `FIFO` banks of a cluster, by bank, and those that are written where their addresses say. -/
def State.fifoSplit (s : State) (cl : Nat) (v : Vec) (l : List (Nat × List Nat)) : Tab (List Nat) × List (Nat × List Nat) :=
  if s.fifoBank cl v then ([(dstBank v, l.flatMap Prod.snd)], [])
  else
    let cut := l.flatMap fun (va, bs) => ((pieces va bs.length).foldl (init := (([] : List (Nat × List Nat)), bs)) fun (acc, bs) (x, m) =>
      (acc ++ [(x, bs.take m)], bs.drop m)).1
    let fifo (x : Nat × List Nat) : Bool := inSram x.1 && ((s.cluster cl).bank ((x.1 - sramBase) / 32768)).mode == 3
    if cut.any fifo then
      ((cut.filter fifo).foldl (fun t x => t.upd ((x.1 - sramBase) / 32768) [] (· ++ x.2)) [], cut.filter (!fifo ·))
    else ([], l)

/-- The entries that a chunk completes, and the bytes of a part entry left; the last chunk pads it with zeros. -/
def fifoEntries (bytes : List Nat) (last : Bool) : List (List Nat) × List Nat :=
  let n := if last then ceilDiv bytes.length 128 else bytes.length / 128
  ((List.range n).map fun i => ((bytes.drop (128 * i)).take 128 ++ List.replicate 128 0).take 128, if last then [] else bytes.drop (128 * n))

/-- Entries of a chunk go into a bank: those that it holds already where they stood, if they are written again and X has not committed
their pop, and the others at its tail, while 256 are not occupied. The positions taken so far are returned. -/
def State.appendFifo (s : State) (cl b : Nat) (put : List Nat) (again : Bool) (es : List (List Nat)) : State × List Nat :=
  let x := (s.cluster cl).bank b
  let key (p : Nat) : Nat := sramKey cl (b * 32768 + p % 256 * 128)
  let s := if again then (put.zip es).foldl (fun s (p, e) => if x.head ≤ p && p < x.tail then s.writeLoc (key p) e else s) s else s
  let new := (es.drop put.length).take (x.head + 256 - x.tail)
  let s := new.zipIdx.foldl (fun s (e, i) => s.writeLoc (key (x.tail + i)) e) s
  (s.updBank cl b fun x => { x with tail := x.tail + new.length }, put ++ (List.range new.length).map (x.tail + ·))

/-- The entries of a chunk for the `FIFO` banks of a cluster; whether every one has its place. Part entries carried from earlier chunks
come first. -/
def State.fifoChunk (s : State) (core : Nat) (q : RingId) (n cl : Nat) (r : Rec) (banks : Tab (List Nat)) (last : Bool) : State × Bool :=
  let carried := (r.fifo.carry.filter fun c => c.1 / 64 == cl && last && !banks.any (·.1 == c.1 % 64)).map fun c => (c.1 % 64, [])
  (banks ++ carried).foldl (init := (s, true)) fun (s, all) (b, bytes) =>
    let key := fifoKey cl b
    let (es, left) := fifoEntries (r.fifo.carry.at key [] ++ bytes) last
    let (s, put) := s.appendFifo cl b (r.fifo.put.at key []) r.fifo.again es
    (s.updRec core q n fun x => { x with fifo := { x.fifo with put := x.fifo.put.put key put, next := x.fifo.next.put key left } },
      all && put.length == es.length)

/-! ### COPY, GCOPY -/

/-- The flags and counts of a performed chunk enter the record. -/
def Rec.chunkDone (r : Rec) (l : List Moved) : Rec :=
  { r with performed := true, pend := (l.map (·.out)).foldl (· + ·) 0,
           st := { r.st with
             fpfl := l.foldl (fun f m => f ||| m.flags) r.st.fpfl
             kflags := r.st.kflags ||| (if l.any (·.conv) then 1 else 0) |||
               (if cmdKind r.cmd == kGcopy && l.any (fun m => m.out != 0) then 2 else 0) } }

/-- The destination bytes of a boundary wait for its mark in the audit of a selected record (R267). -/
def State.auditPending (s : State) (core : Nat) (q : RingId) (n : Nat) (bs : List Nat) : State :=
  s.updDie (dieOf core) fun d => { d with audits := d.audits.map fun a =>
    if a.core.toNat == core && a.ring == q && a.seq == n && a.original.isNone then { a with pending := bs } else a }

/-- Chunks of a copy. -/
def Rec.chunks (r : Rec) : Nat := (r.plan.map fun p => p.count (cpTotalRows r.cmd)).getD 0

/-- Performs the chunk after the mark, its data moved already. -/
def State.writeChunk (s : State) (core : Nat) (q : RingId) (n : Nat) (r : Rec) (l : List Moved) : State :=
  let v := r.cmd
  let cl := clusterOf core
  let w := s.who core
  let (banks, rest) := s.fifoSplit cl v (movedWrites l)
  let bank (b : Nat) : Bank := (s.cluster cl).bank b
  if banks.any fun b => (bank b.1).pend.isSome then s
  else match banks.find? fun b => !bankTenantOk (bank b.1) w with
    | some b => s.faultAccess core q n ⟨causeCrossTenant, 0, sramBase + b.1 * 32768⟩ .write
    | none =>
      match s.engineTargets w true rest with
      | .fault f => s.faultAccess core q n f .write
      | .wait => s
      | .miss va => s.noteMiss core va
      | .ok ts =>
        let (s, all) := s.fifoChunk core q n cl r banks (r.st.mark + 1 == r.chunks)
        let s := s.updRec core q n fun x => { x with fifo := { x.fifo with again := false } }
        if all then ((s.writeTargets ts).updRec core q n fun x => x.chunkDone l).auditPending core q n (movedBytes l) else s

/-- The record of a kind that runs in a ring of a core, its next boundary not performed yet. -/
def State.running (s : State) (core : Nat) (q : RingId) (kind : Nat) (body : Nat → Rec → State) : State :=
  let ring := (s.core core).ring q
  if !s.engineRuns core q || ring.ret == ring.acc then s
  else match ring.head with
    | none => s
    | some r =>
      if r.st.state == 7 && cmdKind r.cmd == kind && !r.performed then
        if r.refetch then s.refetchRec core q (ring.ret + 1) r else body (ring.ret + 1) r
      else s

/-- The next chunk of a copy; `write` puts its data where it goes. -/
def State.copyChunk (s : State) (core : Nat) (q : RingId) (n : Nat) (r : Rec) (write : List Moved → State) : State :=
  match r.plan with
  | none => s
  | some p =>
    if r.chunks ≤ r.st.mark then s
    else match s.moveAll core r.cmd p (p.pieces (cpTotalRows r.cmd) r.st.mark) with
      | .wait => s
      | .miss va => s.noteMiss core va
      | .bad => s.faultCause core q n causeBadRecord 0
      | .fault f k => s.faultAccess core q n f k
      | .ok l => write l

def execCopy (core : BitVec 8) (q : RingId) (s : State) : Out :=
  .next (s.running core.toNat q kCopy fun n r => s.copyChunk core.toNat q n r (s.writeChunk core.toNat q n r))

def execGcopy (core : BitVec 8) (q : RingId) (s : State) : Out :=
  .next (s.running core.toNat q kGcopy fun n r => s.copyChunk core.toNat q n r (s.writeChunk core.toNat q n r))

/-! ### MCAST -/

/-- What the access at a receiver meets (R352); `fifo` says that a bank in that mode takes entries. -/
def State.receiverSpot (s : State) (core rc df : Nat) (fifo : Bool) (va : Nat) : Spot :=
  let b := (s.cluster (clusterOf rc)).bank ((va - sramBase) / 32768)
  if b.pend.isSome then .wait
  else if !bankTenantOk b (s.who core) || !s.runsJobOf rc (s.tenantOf core) then .fault ⟨causeCrossTenant, 0, va⟩
  else if b.mode == 0 || b.mode == 2 || (b.mode == 3 && !fifo) || (b.fmt.toNat != df && b.fmt != 15 && df != 15) then .fault ⟨causeBankMode, 0, va⟩
  else .at (.sram (clusterOf rc) (va - sramBase))

/-- All the accesses at a receiver: its `FIFO` banks, and every row elsewhere. -/
def State.receiverSpots (s : State) (core rc : Nat) (v : Vec) (l : List (Nat × List Nat)) : Access Unit :=
  let (banks, rest) := s.fifoSplit (clusterOf rc) v l
  let one (fifo : Bool) (x : Nat) : Access Unit :=
    match s.receiverSpot core rc (cpDstNib v) fifo x with
    | .at _ => .ok ()
    | .wait => .wait
    | .miss va => .miss va
    | .fault f => .fault f
  let fifos := banks.foldl (init := Access.ok ()) fun a b => a.bind fun _ => one true (sramBase + b.1 * 32768)
  rest.foldl (init := fifos) fun a (va, bs) =>
    a.bind fun _ => (pieces va bs.length).foldl (init := Access.ok ()) fun a (x, _) => a.bind fun _ => one false x

/-- A chunk's entries go into the `FIFO` banks of one receiver; whether every one has its place. -/
def State.fillReceiver (s : State) (n : Nat) (q : RingId) (core rc : Nat) (r : Rec) (l : List Moved) : State × Bool :=
  let cl := clusterOf rc
  s.fifoChunk core q n cl r (s.fifoSplit cl r.cmd (movedWrites l)).1 (r.st.mark + 1 == r.chunks)

/-- The bytes of a chunk that go elsewhere at one receiver are written. -/
def State.writeReceiver (s : State) (rc : Nat) (r : Rec) (l : List Moved) : State :=
  let cl := clusterOf rc
  (s.fifoSplit cl r.cmd (movedWrites l)).2.foldl (init := s) fun s (va, bs) =>
    ((pieces va bs.length).foldl (init := (s, bs)) fun (s, bs) (x, m) =>
      (s.writeLoc (sramKey cl (x - sramBase)) (bs.take m), bs.drop m)).1

/-- A receiver fails: its bit is set, its slot returned (R119). -/
def State.failReceiver (s : State) (core : Nat) (q : RingId) (n rc addr : Nat) (v : Vec) : State :=
  (s.updRec core q n fun x =>
    { x with failed := x.failed.or (some (rc, addr)), st := { x.st with rmask := x.st.rmask ||| BitVec.ofNat 64 (2 ^ (rc % 64)) } }).updCore
      core fun k => k.setSlots (cpChan v) rc (min 8 (k.slotsFree (cpChan v) rc + 1))

/-- A chunk reaches the receivers that have not failed, in ascending order; whether none of them must wait. Every access is found before
any is made, and entries find their places before other bytes are written, so that each write is made once (R166). -/
def State.writeReceivers (s : State) (core : Nat) (q : RingId) (n : Nat) (r : Rec) (l : List Moved) (rs : List Nat) : State × Bool :=
  let spots := (rs.filter fun rc => !r.st.rmask.getLsbD (rc % 64)).map fun rc => (rc, s.receiverSpots core rc r.cmd (movedWrites l))
  if spots.any fun x => match x.2 with | .wait | .miss _ => true | _ => false then (s, false)
  else
    let s := spots.foldl (init := s) fun s x =>
      match x.2 with
      | .fault f => s.failReceiver core q n x.1 f.addr r.cmd
      | _ => s
    let live := (spots.filter fun x => x.2 == .ok ()).map Prod.fst
    let (s, all) := live.foldl (init := (s, true)) fun (s, all) rc => let (s, a) := s.fillReceiver n q core rc r l; (s, all && a)
    if all then (live.foldl (fun s rc => s.writeReceiver rc r l) s, true) else (s, false)

def execMcast (core : BitVec 8) (q : RingId) (s : State) : Out :=
  let c := core.toNat
  .next (s.running c q kMcast fun n r =>
    s.copyChunk c q n r fun l =>
      let (s, all) := s.writeReceivers c q n r l (receivers c r.cmd)
      let s := s.updRec c q n fun x => { x with fifo := { x.fifo with again := false } }
      if all then s.updRec c q n fun x => x.chunkDone l else s)

/-! ### Shares of the engine (R206) -/

/-- Bytes per cycle of L, split with S by occupancy, each at least 32 while both are non-empty; a copy that waits before
state 7 holds none. -/
def copyShare (l k : Nat) : Nat :=
  if l == 0 then 0 else if k == 0 then 256 else min 224 (max 32 (256 * l / (l + k)))

def Ring.shareWeight (r : Ring) : Nat :=
  match r.head with
  | some x => if x.st.state == 7 && r.ret != r.acc then r.occupancy else 0
  | none => 0

def execCopyShareSplit (core : BitVec 8) (s : State) : Out :=
  .next (s.updCore core.toNat fun k => { k with shareL := copyShare k.ringL.shareWeight k.ringS.shareWeight })

end Sys2Proof.Machine
end

