-- ==== Sys2Proof/Machine/Vector.lean ====
section
/-! DEFINITION. The vector instructions of majors 0x20-0x2F, which only stream X executes (R279, R349, R388-R397,
R399-R403). -/

namespace Sys2Proof.Machine

/-! ### Elements and masks (R279, R388) -/

/-- Element `i` of width `w` bytes. -/
def elemOf (v : Vec) (w i : Nat) : Nat := bitsOf v.toNat (8 * w * i) (8 * w)

/-- The number of elements of width `w`. -/
def elemCount (w : Nat) : Nat := 128 / w

/-- Elements of width `w`, the first lowest. -/
def packElems (w : Nat) : List Nat → Nat
  | [] => 0
  | x :: t => x % 2 ^ (8 * w) + 2 ^ (8 * w) * packElems w t

def vecOf (w : Nat) (l : List Nat) : Vec := BitVec.ofNat 1024 (packElems w l)

/-- The mask bit of byte `w * i` selects element `i`. -/
def selected (m : Mask) (w i : Nat) : Bool := m.getLsbD (w * i)

/-- What rounds: the mode, and the stochastic bits of each element. -/
structure Rounding where
  rm : Nat
  rs : Nat → Nat

/-- The rounding of the issuing stream for a destination register (R77, R279). -/
def State.rounding (s : State) (d : Nat) : Rounding × State :=
  let ((rm, seed), s') := s.fpEnv
  (⟨rm, fun e => rsBits seed (s.me.ctr d e)⟩, s')

/-- Writes the elements of `vD` that the mask selects from `f`, and those it does not by `z`; the flags of the
selected ones are raised. -/
def State.writeElems (s : State) (k : MaskSel) (d : BitVec 5) (w : Nat) (f : Nat → Nat × Flags) : State :=
  let m := s.me.rm k.m
  let old := s.me.rv d
  let sel := (List.range (elemCount w)).map fun i => if selected m w i then some (f i) else none
  let v := vecOf w (sel.zipIdx.map fun (x, i) => match x with
    | some r => r.1
    | none => if k.z then 0 else elemOf old w i)
  let fl := sel.foldl (fun a x => a ||| (x.map (·.2)).getD 0) 0
  s.updMe fun t => ({ t.wv d v with fpflags := t.fpflags ||| fl }).done

/-- An instruction with a vector destination: each selected element by rounding, stream and element number. -/
def vector (i : Instr) (k : MaskSel) (d : BitVec 5) (w : Nat) (f : Rounding → StreamState → Nat → Nat × Flags)
    (s : State) : Out :=
  .next (s.issue i 0 none fun s =>
    let (r, s) := s.rounding d.toNat
    s.writeElems k d w (f r s.me))

/-- A two-operand operation of a type of F or I: `ff` on floating-point values, `fi` on integers modulo 2^(8w). -/
def typed2 (t : BitVec 4) (a b : BitVec 5) (ff : FFmt → Rounding → Nat → Num → Num → Nat × Flags) (fi : Int → Int → Int)
    (r : Rounding) (m : StreamState) (i : Nat) : Nat × Flags :=
  let w := typeWidth t.toNat
  let x := elemOf (m.rv a) w i
  let y := elemOf (m.rv b) w i
  match typeFloat t.toNat with
  | some f => ff f r i (f.decode x) (f.decode y)
  | none => (ofInt (8 * w) (fi (intValue t.toNat x) (intValue t.toNat y)), 0)

/-! ### Arithmetic (R389, R396) -/

def execVadd (k : MaskSel) (d a b : BitVec 5) (t : BitVec 4) (s : State) : Out :=
  vector (.vadd k d a b t) k d (typeWidth t.toNat) (typed2 t a b (fun f r i x y => f.add r.rm (r.rs i) x y) (· + ·)) s

def execVsub (k : MaskSel) (d a b : BitVec 5) (t : BitVec 4) (s : State) : Out :=
  vector (.vsub k d a b t) k d (typeWidth t.toNat)
    (typed2 t a b (fun f r i x y => f.add r.rm (r.rs i) x y.neg) (· - ·)) s

def execVmul (k : MaskSel) (d a b : BitVec 5) (t : BitVec 4) (s : State) : Out :=
  vector (.vmul k d a b t) k d (typeWidth t.toNat) (typed2 t a b (fun f r i x y => f.mul r.rm (r.rs i) x y) (· * ·)) s

def execVmin (k : MaskSel) (d a b : BitVec 5) (t : BitVec 4) (s : State) : Out :=
  vector (.vmin k d a b t) k d (typeWidth t.toNat) (typed2 t a b (fun f _ _ x y => f.minmax false x y) min) s

def execVmax (k : MaskSel) (d a b : BitVec 5) (t : BitVec 4) (s : State) : Out :=
  vector (.vmax k d a b t) k d (typeWidth t.toNat) (typed2 t a b (fun f _ _ x y => f.minmax true x y) max) s

/-- VABS and VNEG change only the sign of a value; a NaN gives the canonical NaN (R389). -/
def signOp (neg : Bool → Bool) (f : FFmt) (x : Nat) : Nat × Flags :=
  match f.decode x with
  | .nan g => (f.nan, if g then flNV else 0)
  | .inf g => (f.signBit (neg g) + x % 2 ^ (f.ebits + f.mbits), 0)
  | .fin g _ _ => (f.signBit (neg g) + x % 2 ^ (f.ebits + f.mbits), 0)

def typed1 (t : BitVec 4) (a : BitVec 5) (ff : FFmt → Nat → Nat × Flags) (fi : Int → Int) (m : StreamState) (i : Nat) :
    Nat × Flags :=
  let w := typeWidth t.toNat
  let x := elemOf (m.rv a) w i
  match typeFloat t.toNat with
  | some f => ff f x
  | none => (ofInt (8 * w) (fi (intValue t.toNat x)), 0)

def execVabs (k : MaskSel) (d a : BitVec 5) (t : BitVec 4) (s : State) : Out :=
  vector (.vabs k d a t) k d (typeWidth t.toNat)
    (fun _ => typed1 t a (signOp fun _ => false) (fun x => (x.natAbs : Int))) s

def execVneg (k : MaskSel) (d a : BitVec 5) (t : BitVec 4) (s : State) : Out :=
  vector (.vneg k d a t) k d (typeWidth t.toNat) (fun _ => typed1 t a (signOp (!·)) (fun x => -x)) s

def execVfma (k : MaskSel) (d a b : BitVec 5) (t : BitVec 4) (s : State) : Out :=
  vector (.vfma k d a b t) k d (typeWidth t.toNat) (fun r m i =>
    let w := typeWidth t.toNat
    typed2 t a b (fun f r i x y => f.fma r.rm (r.rs i) x y (f.decode (elemOf (m.rv d) w i))) (· * ·) r m i) s

/-! ### Shifts (R402) -/

/-- The shift amount is `b` mod 8w; `f` shifts the pattern of `a`. -/
def vshift (i : Instr) (k : MaskSel) (d a b : BitVec 5) (t : BitVec 4) (f : Nat → Nat → Nat → Nat) (s : State) : Out :=
  let w := typeWidth t.toNat
  vector i k d w (fun _ m j => (f (8 * w) (elemOf (m.rv a) w j) (elemOf (m.rv b) w j % (8 * w)), 0)) s

def execVshl (k : MaskSel) (d a b : BitVec 5) (t : BitVec 4) (s : State) : Out :=
  vshift (.vshl k d a b t) k d a b t (fun n x y => x * 2 ^ y % 2 ^ n) s
def execVshr (k : MaskSel) (d a b : BitVec 5) (t : BitVec 4) (s : State) : Out :=
  vshift (.vshr k d a b t) k d a b t (fun _ x y => x / 2 ^ y) s
def execVsar (k : MaskSel) (d a b : BitVec 5) (t : BitVec 4) (s : State) : Out :=
  vshift (.vsar k d a b t) k d a b t (fun n x y => ofInt n (toSigned n x / (2 ^ y : Nat))) s

/-! ### LUT3, VFUNL, VFUNR (R349, R397) -/

/-- Bits of a table: the minterms of the table that are set. -/
def lut3 (imm : BitVec 8) (x y z : Vec) : Vec :=
  (List.range 8).foldl (init := 0#1024) fun r i =>
    if imm.getLsbD i then
      r ||| ((if i.testBit 2 then x else ~~~x) &&& (if i.testBit 1 then y else ~~~y) &&& (if i.testBit 0 then z else ~~~z))
    else r

def execLut3 (m : BitVec 3) (d a b : BitVec 5) (i : BitVec 8) (s : State) : Out :=
  vector (.lut3 m d a b i) ⟨m, false⟩ d 1
    (fun _ t j => (elemOf (lut3 i (t.rv d) (t.rv a) (t.rv b)) 1 j, 0)) s

/-- A funnel shift of each of 16 elements of 64 bits. -/
def vfunnel (i : Instr) (m : BitVec 3) (d a b : BitVec 5) (f : Word → Word → Word) (s : State) : Out :=
  vector i ⟨m, false⟩ d 8
    (fun _ t j => ((f (BitVec.ofNat 64 (elemOf (t.rv a) 8 j)) (BitVec.ofNat 64 (elemOf (t.rv b) 8 j))).toNat, 0)) s

def execVfunl (m : BitVec 3) (d a b : BitVec 5) (n : BitVec 6) (s : State) : Out :=
  vfunnel (.vfunl m d a b n) m d a b (opFunl n.toNat) s
def execVfunr (m : BitVec 3) (d a b : BitVec 5) (n : BitVec 6) (s : State) : Out :=
  vfunnel (.vfunr m d a b n) m d a b (opFunr n.toNat) s

/-! ### VCMP, VSEL (R392, R401) -/

/-- A condition on two elements of a type. -/
def vcond (t c x y : Nat) : Bool × Flags :=
  match typeFloat t with
  | some f => fcond c (f.decode x) (f.decode y)
  | none =>
    let a := intValue t x
    let b := intValue t y
    (match c with
     | 0 => a == b
     | 1 => a != b
     | 2 => a < b
     | 3 => a ≤ b
     | 4 => b < a
     | _ => b ≤ a, 0)

/-- `w` mask bits of each element hold its condition. -/
def maskOf (w : Nat) : List Bool → Nat
  | [] => 0
  | b :: t => (if b then 2 ^ w - 1 else 0) + 2 ^ w * maskOf w t

def execVcmp (m d : BitVec 3) (a b : BitVec 5) (t : BitVec 4) (c : BitVec 3) (s : State) : Out :=
  .next (s.issue (.vcmp m d a b t c) 0 none fun s =>
    let w := typeWidth t.toNat
    let g := s.me.rm m
    let l : List (Bool × Flags) := (List.range (elemCount w)).map fun i =>
      if selected g w i then vcond t.toNat c.toNat (elemOf (s.me.rv a) w i) (elemOf (s.me.rv b) w i) else (false, 0)
    let fl := l.foldl (fun x r => x ||| r.2) 0
    s.updMe fun q =>
      ({ q.wm d (BitVec.ofNat 128 (maskOf w (l.map Prod.fst))) with fpflags := q.fpflags ||| fl }).done)

def execVsel (m : BitVec 3) (d a b : BitVec 5) (s : State) : Out :=
  .next (s.issue (.vsel m d a b) 0 none fun s =>
    let g := s.me.rm m
    s.updMe fun t => (t.wv d (vecOf 1 ((List.range 128).map fun j =>
      elemOf (if g.getLsbD j then t.rv a else t.rv b) 1 j))).done)

/-! ### Conversions (R393, R394) -/

def execVcvt (k : MaskSel) (d a : BitVec 5) (src : BitVec 4) (sat : Bool) (dst : BitVec 4) (r : BitVec 3) (s : State) : Out :=
  .next (s.issue (.vcvt k d a src sat dst r) 0 none fun s =>
    let ws := typeWidth src.toNat
    let wd := typeWidth dst.toNat
    let n := 128 / max ws wd
    let (e, s) := s.rounding d.toNat
    let conv (i : Nat) : Nat × Flags :=
      convertElem src.toNat dst.toNat (roundMode r.toNat e.rm) (e.rs i) sat (elemOf (s.me.rv a) ws i)
    let s := s.writeElems k d wd fun i => if i < n then conv i else (0, 0)
    s.updMe fun t => t.wv d (BitVec.ofNat 1024 (bitsOf (t.rv d).toNat 0 (8 * n * wd))))

/-- The format of a block code of VCVTB. -/
def blockFormat (f : BitVec 2) : Nat := 10 + f.toNat

/-- The number of 32-element groups of a type in a vector. -/
def blockGroups (t : BitVec 4) : Nat := if t == 0 then 1 else 2

/-- Writes a whole vector and raises flags. -/
def State.writeVec (s : State) (d : BitVec 5) (v : Vec) (fl : Flags) : State :=
  s.updMe fun t => ({ t.wv d v with fpflags := t.fpflags ||| fl }).done

def execVcvtbInto (e : BitVec 3) (d a : BitVec 5) (t : BitVec 4) (f : BitVec 2) (r : BitVec 3) (s : State) : Out :=
  .next (s.issue (.vcvtbInto e d a t f r) 0 none fun s =>
    let (q, s) := s.rounding d.toNat
    let w := typeWidth t.toNat
    let xs := (List.range (32 * blockGroups t)).map fun i => typeDecode t.toNat (elemOf (s.me.rv a) w i)
    let (bs, fl) := encodeElems (blockFormat f) e.toNat (roundMode r.toNat q.rm) q.rs false xs
    s.writeVec d (BitVec.ofNat 1024 (ofBytes bs)) fl)

def execVcvtbOut (d a : BitVec 5) (t : BitVec 4) (f : BitVec 2) (r : BitVec 3) (s : State) : Out :=
  .next (s.issue (.vcvtbOut d a t f r) 0 none fun s =>
    let (q, s) := s.rounding d.toNat
    let n := blockGroups t * groupBytes (blockFormat f)
    let xs := decodeElems (blockFormat f) (bytesOf n (s.me.rv a).toNat)
    let fm := (typeFloat t.toNat).getD fF32
    let l := xs.zipIdx.map fun (x, i) => fm.convert (roundMode r.toNat q.rm) (q.rs i) false x
    s.writeVec d (vecOf (typeWidth t.toNat) (l.map (·.1))) (l.foldl (fun x y => x ||| y.2) 0))

/-! ### VRED, VSCAN (R399) -/

/-- The result over the elements of a set, given as patterns; `rs` are the stochastic bits. -/
def reduce (t o : Nat) (rm rs : Nat) (xs : List Nat) : Nat × Flags :=
  let w := 8 * typeWidth t
  match typeFloat t with
  | some f =>
    let l := xs.map f.decode
    match o with
    | 0 => f.sum rm rs l
    | 1 => l.foldl (fun a x => let r := f.minmax true (f.decode a.1) x; (r.1, a.2 ||| r.2)) (f.signBit true + f.infPat, 0)
    | _ => l.foldl (fun a x => let r := f.minmax false (f.decode a.1) x; (r.1, a.2 ||| r.2)) (f.infPat, 0)
  | none =>
    let l := xs.map (intValue t)
    (match o with
     | 0 => ofInt w (l.foldl (· + ·) 0)
     | 1 => ofInt w (l.foldl max (intRange t).1)
     | 2 => ofInt w (l.foldl min (intRange t).2)
     | 3 => xs.foldl (· &&& ·) (2 ^ w - 1)
     | 4 => xs.foldl (· ||| ·) 0
     | _ => xs.foldl (· ^^^ ·) 0, 0)

/-- Element patterns of `v` that a mask selects among the first `n`. -/
def chosen (m : Mask) (v : Vec) (w n : Nat) : List Nat := ((List.range n).filter (selected m w)).map (elemOf v w)

def execVred (m : BitVec 3) (d a : BitVec 5) (t : BitVec 4) (o : BitVec 3) (s : State) : Out :=
  .next (s.issue (.vred m d a t o) 0 none fun s =>
    let (e, s) := s.rounding d.toNat
    let w := typeWidth t.toNat
    let r := reduce t.toNat o.toNat e.rm (e.rs 0) (chosen (s.me.rm m) (s.me.rv a) w (elemCount w))
    (s.orFlags r.2).writeS d (extendType t.toNat r.1))

def execVscan (k : MaskSel) (d a : BitVec 5) (t : BitVec 4) (o : BitVec 3) (s : State) : Out :=
  vector (.vscan k d a t o) k d (typeWidth t.toNat) (fun e q i =>
    reduce t.toNat o.toNat e.rm (e.rs i) (chosen (q.rm k.m) (q.rv a) (typeWidth t.toNat) (i + 1))) s

/-! ### VTOPK (R403) -/

/-- The rank of a value among values: greater first; a NaN stands where the policy puts it. -/
def keyLess (t pol x y : Nat) : Bool :=
  match typeFloat t with
  | some f =>
    let a := f.decode x
    let b := f.decode y
    let cls (n : Num) : Nat := if n.isNan then (if pol == 0 then 2 else 0) else 1
    if a.isNan || b.isNan then cls a < cls b else a.lt b
  | none => intValue t x < intValue t y

/-- Inserts after every entry that ranks no lower. -/
def rankInsert (less : Nat → Nat → Bool) (e : Nat × Nat) : List (Nat × Nat) → List (Nat × Nat)
  | [] => [e]
  | x :: r => if less x.1 e.1 then e :: x :: r else x :: rankInsert less e r

/-- Entries (value, index) by rank: a greater value first, then the lower index. -/
def ranked (less : Nat → Nat → Bool) (l : List (Nat × Nat)) : List (Nat × Nat) :=
  l.foldl (fun r e => rankInsert less e r) []

/-- Whether a value is eligible: under `.drop` no NaN is. -/
def eligible (t pol x : Nat) : Bool :=
  match typeFloat t with
  | some f => !(pol == 2 && (f.decode x).isNan)
  | none => true

def execVtopk (m : BitVec 3) (d a b : BitVec 5) (t : BitVec 4) (p : BitVec 2) (s : State) : Out :=
  .next (s.issue (.vtopk m d a b t p) 0 none fun s =>
    let w := typeWidth t.toNat
    let n := elemCount w
    let g := s.me.rm m
    let es := ((List.range n).filter (selected g w)).map fun i => (elemOf (s.me.rv a) w i, i)
    let es := ranked (keyLess t.toNat p.toNat) (es.filter fun e => eligible t.toNat p.toNat e.1)
    let top := es.take (min (min (s.me.rs b).toNat n) 64)
    let idx := (List.range 64).map fun j => (top[j]?.map (·.2)).getD 0xFFFF
    s.updMe fun q => ((q.wv d (vecOf w (top.map (·.1)))).wv (d + 1) (vecOf 2 idx)).done)

/-! ### Element movement (R390) -/

def execVperm (k : MaskSel) (d a b : BitVec 5) (t : BitVec 4) (s : State) : Out :=
  let w := typeWidth t.toNat
  vector (.vperm k d a b t) k d w (fun _ q i => (elemOf (q.rv a) w (elemOf (q.rv b) w i % elemCount w), 0)) s

def execVbcst (k : MaskSel) (d a : BitVec 5) (t : BitVec 4) (s : State) : Out :=
  let w := typeWidth t.toNat
  vector (.vbcst k d a t) k d w (fun _ q _ => ((q.rs a).toNat % 2 ^ (8 * w), 0)) s

def execViota (k : MaskSel) (d : BitVec 5) (t : BitVec 4) (s : State) : Out :=
  vector (.viota k d t) k d (typeWidth t.toNat) (fun _ _ i => (i, 0)) s

def execVext (d a b : BitVec 5) (t : BitVec 4) (s : State) : Out :=
  .next (s.issue (.vext d a b t) 0 none fun s =>
    let w := typeWidth t.toNat
    s.writeS d (extendType t.toNat (elemOf (s.me.rv a) w ((s.me.rs b).toNat % elemCount w))))

def execVins (d a b : BitVec 5) (t : BitVec 4) (s : State) : Out :=
  .next (s.issue (.vins d a b t) 0 none fun s =>
    let w := typeWidth t.toNat
    s.updMe fun q => (q.wv d (vecSet (q.rv d) (8 * w * ((q.rs b).toNat % elemCount w)) (8 * w) (q.rs a).toNat)).done)

/-! ### Functions (R395), VRND (R400), bit counts and VMASK (R391) -/

def vspecial (i : Instr) (op : Nat) (k : MaskSel) (d a : BitVec 5) (t : BitVec 4) (s : State) : Out :=
  vector i k d (typeWidth t.toNat) (fun r q j =>
    let f := (typeFloat t.toNat).getD fF32
    f.special op r.rm (r.rs j) (f.decode (elemOf (q.rv a) (typeWidth t.toNat) j))) s

def execVexp2 (k : MaskSel) (d a : BitVec 5) (t : BitVec 4) (s : State) : Out := vspecial (.vexp2 k d a t) 0 k d a t s
def execVlog2 (k : MaskSel) (d a : BitVec 5) (t : BitVec 4) (s : State) : Out := vspecial (.vlog2 k d a t) 1 k d a t s
def execVrcp (k : MaskSel) (d a : BitVec 5) (t : BitVec 4) (s : State) : Out := vspecial (.vrcp k d a t) 2 k d a t s
def execVrsq (k : MaskSel) (d a : BitVec 5) (t : BitVec 4) (s : State) : Out := vspecial (.vrsq k d a t) 3 k d a t s

/-- The seed is X's, a free value while a write to it is pending (R66). -/
def execVrnd (k : MaskSel) (d : BitVec 5) (s : State) : Out :=
  .next (s.issue (.vrnd k d) 0 none fun s =>
    let ((_, seed), s) := s.fpEnv
    s.writeElems k d 4 fun i => (cmx seed (s.me.ctr d.toNat i) % 2 ^ 32, 0))

def execVpopc (k : MaskSel) (d a : BitVec 5) (t : BitVec 4) (s : State) : Out :=
  let w := typeWidth t.toNat
  vector (.vpopc k d a t) k d w (fun _ q i => (popcNat (8 * w) (elemOf (q.rv a) w i), 0)) s

def execVclz (k : MaskSel) (d a : BitVec 5) (t : BitVec 4) (s : State) : Out :=
  let w := typeWidth t.toNat
  vector (.vclz k d a t) k d w (fun _ q i => (clzNat (8 * w) (elemOf (q.rv a) w i), 0)) s

def execVmask (k : MaskSel) (d : BitVec 5) (a : BitVec 3) (t : BitVec 4) (s : State) : Out :=
  let w := typeWidth t.toNat
  vector (.vmask k d a t) k d w (fun _ q i => (if (q.rm a).getLsbD (w * i) then 2 ^ (8 * w) - 1 else 0, 0)) s

end Sys2Proof.Machine
end

