-- ==== Sys2Proof/Machine/Results.lean ====
section
/-! DEFINITION. What a COLL makes of its contributions: ranks and areas, arrivals, results, and what one in error has written (R248,
R311-R314). -/

namespace Sys2Proof.Machine

/-! ### Ranks and areas -/

/-- Ranks to which this rank sends its contribution, and ranks whose contribution it needs (DESIGN CHOICE, log 18). -/
def coOthers (v : Vec) : List Nat := (List.range (coN v)).filter (· != coRank v)
def coSends (v : Vec) : List Nat :=
  match coOp v with
  | 3 => if coRank v == coPeer v then coOthers v else []
  | 4 => [coPeer v]
  | 5 => []
  | _ => coOthers v
def coNeeds (v : Vec) : List Nat :=
  match coOp v with
  | 3 => if coRank v == coPeer v then [] else [coPeer v]
  | 4 => []
  | 5 => [coPeer v]
  | _ => coOthers v

/-- An entry of the group table: endpoint and receive area. -/
def State.groupEntry (s : State) (core : Nat) (v : Vec) (rank : Nat) : Access (BitVec 16 × Nat) :=
  (s.engineRead (s.who core) (coGrp v + 16 * rank) 16).map fun b => (BitVec.ofNat 16 (fieldOf b 0 2), fieldOf b 8 8)

/-- The place of a rank's contribution in a receive area; those of a barrier, which has no bytes, are told apart by address. -/
def coPlace (v : Vec) (area rank : Nat) : Nat := area + rank * max 1 (coSize v)

/-- Bytes of each contribution that have arrived once the stripe under way has; a barrier's message counts as one. -/
def CollRun.endOf (c : CollRun) (v : Vec) : Nat := min (c.base + c.stripe) (max 1 (coSize v))

/-- Ranks whose part of the stripe has not arrived. -/
def CollRun.missing (c : CollRun) (v : Vec) : List Nat := (coNeeds v).filter fun q => c.pos.at q 0 < c.endOf v

/-- The stripe under way is the last one. -/
def CollRun.last (c : CollRun) (v : Vec) : Bool := coSize v ≤ c.base + c.stripe

def State.updColl (s : State) (core n : Nat) (f : CollRun → CollRun) : State :=
  s.updRec core .g n fun x => { x with coll := x.coll.map f }

/-! ### Arrivals -/

/-- Messages that have arrived for a contribution to a COLL of a tag, in order: those taken, and the bytes they make. -/
def takeArrivals (t tag size base : Nat) : Nat → Nat → List (Nat × Nat × Nat × Option Nat) → Nat × List (Nat × Nat × Nat × Option Nat)
  | 0, pos, l => (pos, l)
  | f + 1, pos, l =>
    match l.find? fun a => a.1 == t && a.2.1 == base + pos && a.2.2.2.all (· == tag) && pos < size with
    | none => (pos, l)
    | some a => takeArrivals t tag size base f (pos + max 1 a.2.2.1) (l.erase a)

/-- What has arrived from each rank is taken note of. -/
def State.absorb (s : State) (core n : Nat) (v : Vec) (area : Nat) : List Nat → State
  | [] => s
  | q :: r =>
    let d := dieOf core
    let l := (s.die d).arrivals
    let pos := (((s.recOf core .g n).bind (·.coll)).map fun c => c.pos.at q 0).getD 0
    let (p, l') := takeArrivals (s.tenantOf core) (coTag v) (max 1 (coSize v)) (coPlace v area q) l.length pos l
    ((s.updDie d fun x => { x with arrivals := l' }).updColl core n fun c => { c with pos := c.pos.put q p }).absorb core n v area r

/-! ### Results (R248, R313) -/

/-- One element of a reduction in rank order: the result, and the flags of its conversions. -/
def reduceElem (rop ct rt mode r16 : Nat) (xs : List Nat) : Nat × Flags :=
  match typeFloat ct with
  | some f =>
    let vals := xs.map f.decode
    let acc := match vals with
      | [] => Num.fin false 0 0
      | a :: r => r.foldl (init := a) fun acc x =>
          fF32.decode (match rop with
            | 0 => (fF32.add 0 0 acc x).1
            | k => (fF32.minmax (k == 1) acc x).1)
    let g := if vals.any fun x => x == .nan true then flNV else 0
    match typeFloat rt with
    | some o => let (y, fl) := o.convert mode r16 false acc; (y, fl ||| g)
    | none => (0, g)
  | none =>
    let vals := xs.map (intValue ct)
    let acc := match vals with
      | [] => 0
      | a :: r => r.foldl (init := a) fun acc x =>
          match rop with
          | 0 => acc + x
          | 1 => max acc x
          | 2 => min acc x
          | k =>
            let w := 8 * typeWidth ct
            let (a, b) := (ofInt w acc, ofInt w x)
            intValue ct (if k == 3 then a &&& b else if k == 4 then a ||| b else a ^^^ b)
    match typeFloat rt with
    | some o => o.convert mode r16 false (.fin (decide (acc < 0)) acc.natAbs 0)
    | none => (ofInt (8 * typeWidth rt) acc, 0)

/-- Elements `[lo, hi)` of a reduction. -/
def reduceAll (v : Vec) (bufs : List (List Nat)) (lo hi : Nat) : List Nat × Flags :=
  let e := coElem v
  (List.range (hi - lo)).foldl (init := (([], 0) : List Nat × Flags)) fun (out, fl) j =>
    let i := lo + j
    let (y, f) := reduceElem (coRop v) (coTy v) (coRes v) (cmdRound v) (rsBits (cmdCorr v) i) (bufs.map fun b => fieldOf b (e * i) e)
    (out ++ bytesOf (typeWidth (coRes v)) y, fl ||| f)

/-- Entries of a top-k merge by value, then by global index. -/
def topInsert (less : Nat → Nat → Bool) (e : Nat × Nat) : List (Nat × Nat) → List (Nat × Nat)
  | [] => [e]
  | x :: r => if less x.1 e.1 || (!less e.1 x.1 && e.2 < x.2) then e :: x :: r else x :: topInsert less e r

def topMerge (v : Vec) (bufs : List (List Nat)) : List Nat × Nat :=
  let es := bufs.flatMap fun b => (List.range (coCount v)).map fun i => (fieldOf b (16 * i) (typeWidth (coTy v)), fieldOf b (16 * i + 8) 8)
  let es := es.filter fun e => eligible (coTy v) (coNan v) e.1
  let top := (es.foldl (fun r e => topInsert (keyLess (coTy v) (coNan v)) e r) []).take (coK v)
  let pad := List.replicate (coK v - top.length) (0, 2 ^ 64 - 1)
  ((top ++ pad).flatMap fun e => bytesOf 8 e.1 ++ bytesOf 8 e.2, top.length)

/-- Contributions in rank order: this rank's own, and those in its receive area. -/
def State.contributions (s : State) (core : Nat) (v : Vec) (area : Nat) : List Nat → Access (List (List Nat))
  | [] => .ok []
  | q :: r =>
    (s.engineRead (s.who core) (if q == coRank v then coSrc v else coPlace v area q) (coSize v)).bind fun b =>
      (s.contributions core v area r).map fun l => b :: l

/-- What goes to `dst`: bytes, flags, and the count of surviving entries. -/
def State.collResult (s : State) (core : Nat) (v : Vec) (area : Nat) : Access (List Nat × Flags × Nat) :=
  let all := List.range (coN v)
  match coOp v with
  | 0 => (s.contributions core v area all).map fun b => let (o, f) := reduceAll v b 0 (coCount v); (o, f, 0)
  | 1 => (s.contributions core v area all).map fun b =>
      let c := coCount v / coN v
      let (o, f) := reduceAll v b (coRank v * c) (coRank v * c + c)
      (o, f, 0)
  | 2 => (s.contributions core v area all).map fun b => (b.flatten, 0, 0)
  | 3 => (s.contributions core v area [coPeer v]).map fun b => (b.flatten, 0, 0)
  | 5 => (s.contributions core v area [coPeer v]).map fun b => (b.flatten, 0, 0)
  | 7 => (s.contributions core v area all).map fun b => let (o, k) := topMerge v b; (o, 0, k)
  | _ => .ok ([], 0, 0)

/-! ### A COLL that ends in error (R314) -/

/-- The contributions to element `j` of the result: the ranks, and how many elements of each. -/
def coFeeds (v : Vec) (j : Nat) : List Nat × Nat :=
  match coOp v with
  | 0 => (List.range (coN v), j + 1)
  | 1 => (List.range (coN v), coRank v * (coCount v / coN v) + j + 1)
  | 2 => ([j / coCount v], j % coCount v + 1)
  | 7 => (List.range (coN v), coCount v)
  | _ => ([coPeer v], j + 1)

/-- Everything that element `j` of the result is made of has arrived. -/
def CollRun.ready (c : CollRun) (v : Vec) (j : Nat) : Bool :=
  let f := coFeeds v j
  f.1.all fun q => q == coRank v || decide (f.2 * coElem v ≤ c.pos.at q 0)

/-- The elements of the result that a COLL in error has written: of those whose data arrived, the ones that free values name
(DESIGN CHOICE, log 17). -/
def CollRun.partWrites (c : CollRun) (v : Vec) (out : List Nat) (free : Nat) : List (Nat × List Nat) :=
  let w := (coOut v).2
  (List.range (coOut v).1).filterMap fun j =>
    if c.ready v j && Config.freeNat (free + j) % 2 == 1 then some (coDst v + j * w, (out.drop (j * w)).take w) else none

/-- An error is decided: of the elements whose data arrived, those that free values name hold their final value (DESIGN CHOICE, log 17). -/
def State.collError (s : State) (core n : Nat) (error : BitVec 3) (rank : Nat) : State :=
  match s.recOf core .g n with
  | none => s
  | some r =>
    match r.coll with
    | none => s
    | some c =>
      if c.error != 0 then s
      else
        let v := r.cmd
        let free := s.fresh
        let s : State := { s with fresh := s.fresh + (coOut v).1 }
        let s := match s.groupEntry core v (coRank v) with
          | .ok (_, area) =>
            let s := s.absorb core n v area (coNeeds v)
            let c := ((s.recOf core .g n).bind (·.coll)).getD c
            match s.collResult core v area with
            | .ok (o, _, _) =>
              match s.engineTargets (s.who core) false (c.partWrites v o free) with
              | .ok ts => s.writeTargets ts
              | _ => s
            | _ => s
          | _ => s
        s.updColl core n fun c => { c with error := error, lostRank := rank }

end Sys2Proof.Machine
end

