-- ==== Sys2Proof/Machine/Matrix.lean ====
section
/-! DEFINITION. The matrix array: MXD, MXC, MXL and MXR tile by tile in the cells, their commit, and MXDRN (R79-R82,
R121-R123, R133-R140, R151-R157, R355-R362). -/

namespace Sys2Proof.Machine

/-! ### Operands -/

/-- The implicit row of a convolution (R135): none for a void row. -/
def State.imageRow (s : State) (cl : Nat) (v : Vec) (i : Nat) : Option (List Num) :=
  let q := (mxcRow0 v + i) % 2 ^ 32
  let img := q / (mxcOh v * mxcOw v)
  let oy := q / mxcOw v % mxcOh v
  let ox := q % mxcOw v
  let f := s.bankFmt cl (mxAoff v)
  let pb := elemBytes f (mxcC v)
  let field (b : Nat) : Nat := vecField v b 1
  if mxcNb v ≤ img then none
  else some ((List.range (mxcKh v)).flatMap fun dy => (List.range (mxcKw v)).flatMap fun dx =>
    let y : Int := ((oy * field 106 + dy * field 108 : Nat) : Int) - (field 110 : Nat)
    let x : Int := ((ox * field 107 + dx * field 109 : Nat) : Int) - (field 111 : Nat)
    if y < 0 || mxcH v ≤ y || x < 0 || mxcW v ≤ x then List.replicate (mxcC v) (fF32.decode (mxcPad v))
    else s.operandRow cl (mxAoff v + ((img * mxcH v + y.toNat) * mxcW v + x.toNat) * pb) (mxcC v))

/-- Row `i` of A; none for a void row. -/
def State.aRow (s : State) (cl : Nat) (v : Vec) (i : Nat) : Option (List Num) :=
  if cmdKind v == kMxc then s.imageRow cl v i else some (s.operandRow cl (mxAoff v + i * mxArs v) (mxK v))

def State.bRow (s : State) (cl : Nat) (v : Vec) (j : Nat) : List Num := s.operandRow cl (mxBoff v + j * mxBrs v) (mxK v)

/-- Row `j` of packed weights (R361). -/
def State.weightRow (s : State) (cl : Nat) (v : Vec) (j : Nat) : List Nat :=
  let x := ofBytes (s.readLoc (sramKey cl (mxBoff v + j * mxBrs v)) (mxK v * mxlBits v / 8))
  (List.range (mxK v)).map fun i => bitsOf x (mxlBits v * i) (mxlBits v)

/-! ### Reduction (R79-R82, R136) -/

/-- Adds block sums in order to an accumulator; the second part counts overflow replacements. -/
def accBlocks (acc : Nat) (blocks : List (List Num)) : Nat × Nat :=
  blocks.foldl (init := (acc, 0)) fun (a, n) p =>
    let (b, o1) := blocksum p
    let (a', o2) := accAdd a b
    (a', n + (if o1 then 1 else 0) + (if o2 then 1 else 0))

/-- The products of two rows in blocks of 32; `int` says that their format is s8 or s4. -/
def productBlocks (int : Bool) (a b : List Num) : List (List Num) := chunksOf 32 a.length (List.zipWith (productNum int) a b)

def f32Add (a b : Num) : Num := fF32.decode (fF32.add 0 0 a b).1

/-- One table entry with 1-bit weights. -/
def lookup1 (a : List Num) (w : List Nat) : Num :=
  let t := List.zipWith (fun x q => if q == 1 then x else x.neg) a w
  match t with
  | x :: r => r.foldl f32Add x
  | [] => .fin false 0 0

/-- One table entry with 2-bit weights. -/
def lookup2 (a : List Num) (w : List Nat) : Num :=
  let t := List.zipWith (fun x q => fF32.decode (fF32.mul 0 0 (.fin (q < 2) (if q == 0 || q == 3 then 3 else 1) 0) x).1) a w
  match t with
  | x :: r => r.foldl f32Add x
  | [] => .fin false 0 0

/-- The selected entries of a row in blocks of 32 K indices (R136). -/
def lookupBlocks (bits : Nat) (a : List Num) (w : List Nat) : List (List Num) :=
  let g := if bits == 1 then 4 else 2
  let f := if bits == 1 then lookup1 else lookup2
  chunksOf (32 / g) a.length (List.zipWith f (chunksOf g a.length a) (chunksOf g w.length w))

/-! ### Tiles in the cells (R133) -/

/-- The element of accumulator memory at an offset. -/
def State.accElem (s : State) (cl off : Nat) : Nat := ofBytes (s.readLoc (accKey cl off) 4)

/-- Rows and columns of a tile, as numbers. -/
def tileRowList (v : Vec) (t : Nat) : List Nat := let r := tileRows v t; (List.range r.2).map (r.1 + ·)
def tileColList (v : Vec) (t : Nat) : List Nat := let r := tileCols v t; (List.range r.2).map (r.1 + ·)

/-- Fills the cells from the elements of a tile: offset, value and replacements of each. -/
def cellsOf (core : Nat) (l : List (Nat × Nat × Nat)) : Tile :=
  { core := BitVec.ofNat 8 core, elems := l.map fun x => (x.1, BitVec.ofNat 32 x.2.1),
    counts := l.foldl (init := []) fun t x => if x.2.2 == 0 then t else t.upd (x.1 / 32768) 0 (· + x.2.2) }

/-- A tile of a product: the blocks of each row pair added to +0 or to accumulator memory; void rows are left out. -/
def State.productTile (s : State) (core : Nat) (v : Vec) (t : Nat) : Tile :=
  let cl := clusterOf core
  let cols : List (Nat × List Num × List Nat) := (tileColList v t).map fun j =>
    if cmdKind v == kMxl then (j, [], s.weightRow cl v j) else (j, s.bRow cl v j, [])
  cellsOf core ((tileRowList v t).flatMap fun i =>
    match s.aRow cl v i with
    | none => []
    | some a => cols.map fun (j, b, w) =>
      let off := accOffset v i j
      let blocks := if cmdKind v == kMxl then lookupBlocks (mxlBits v) a w
        else productBlocks (fmtIsInt (s.bankFmt cl (mxAoff v))) a b
      (off, accBlocks (if mxOver v then 0 else s.accElem cl off) blocks))

/-- An uncorrectable word in an operand, or in a bank that the tile reads (DESIGN CHOICE, log 34). -/
def State.tileDamage (s : State) (cl : Nat) (v : Vec) (t : Nat) : Option AccFault :=
  let ops := if hasOperands (cmdKind v) then [s.mxAreg cl v, s.mxBreg cl v] else []
  let acc := if hasOperands (cmdKind v) && mxOver v then [] else tileBanks v t
  (ops.findSome? fun r => s.ecc .read (sramKey cl r.1) r.2 (sramBase + r.1)).or
    (acc.findSome? fun b => s.ecc .read (accKey cl (b * 32768)) 32768 (accBase + b * 32768))

/-- What a tile meets when the array reaches its banks: a later mode, tag or owner (R86-R88, R128, R131). -/
def State.tileSpot (s : State) (core : Nat) (v : Vec) (t : Nat) : Chunk Unit :=
  let cl := clusterOf core
  let c := s.cluster cl
  let w := s.who core
  let ops := if hasOperands (cmdKind v) then regionBanks (s.mxAreg cl v) ++ regionBanks (s.mxBreg cl v) else []
  if ops.any fun b => (c.bank b).pend.isSome then .wait
  else if ops.any fun b => !bankTenantOk (c.bank b) w then .fault ⟨causeCrossTenant, 0, sramBase + mxAoff v⟩ .read
  else if ops.any fun b => (c.bank b).mode != 1 then .fault ⟨0x22, 2, sramBase + mxAoff v⟩ .read
  else match (tileBanks v t).findSome? fun b => (accCheck (c.accb b) w).map fun e => (b, e) with
    | some (b, e) => .fault ⟨e, 0, accBase + b * 32768⟩ .write
    | none =>
      if (tileBanks v t).any fun b => (c.accb b).busy then .wait
      else match s.tileDamage cl v t with
        | some f => .fault f .read
        | none => .ok ()

/-- The tile is held in the cells: its banks are busy, and an overwrite has cleared their `ovf` (R133, R140). -/
def State.holdTile (s : State) (core n : Nat) (v : Vec) (t : Nat) (x : Tile) : State :=
  let cl := clusterOf core
  let s := (tileBanks v t).foldl (init := s) fun s b =>
    s.updAcc cl b fun a => { a with busy := true, ovf := if mxOver v then 0 else a.ovf }
  (s.updCluster cl fun c => { c with cells := some x }).updRec core .k n fun r => { r with performed := true }

/-- The next tile of a command that runs in queue K. -/
def State.nextTile (s : State) (core : Nat) (kind : Nat) (body : Nat → Rec → State) : State :=
  s.running core .k kind fun n r =>
    if mxTiles r.cmd ≤ r.st.mark then s
    else match s.tileSpot core r.cmd r.st.mark with
      | .ok () => body n r
      | .fault f k => s.faultAccess core .k n f k
      | .miss va => s.noteMiss core va
      | _ => s

/-- MXD, MXC and MXL differ in their rows and blocks only. -/
def State.multiply (s : State) (core kind : Nat) : State :=
  s.nextTile core kind fun n r => s.holdTile core n r.cmd r.st.mark (s.productTile core r.cmd r.st.mark)

def execMxd (core : BitVec 8) (s : State) : Out := .next (s.multiply core.toNat kMxd)

/-- Void rows of a whole command. -/
def voidRows (v : Vec) : Nat :=
  ((List.range (mxM v)).filter fun i => mxcNb v ≤ (mxcRow0 v + i) % 2 ^ 32 / (mxcOh v * mxcOw v)).length

def execMxc (core : BitVec 8) (s : State) : Out :=
  .next (s.nextTile core.toNat kMxc fun n r =>
    (s.holdTile core.toNat n r.cmd r.st.mark (s.productTile core.toNat r.cmd r.st.mark)).updRec core.toNat .k n fun x =>
      { x with st := { x.st with kcount := x.kindCount (voidRows r.cmd) } })

def execMxl (core : BitVec 8) (s : State) : Out := .next (s.multiply core.toNat kMxl)

/-! ### MXR (R151-R153) -/

/-- The rows that a tile writes of the next side's regions: X_prev rows and Y_prev values. -/
def State.regionWrites (e : DirSlot) (side : Bool) (xs : List (Nat × List Nat)) (ys : List (Nat × Nat × Nat)) :
    List (Nat × List Nat) :=
  xs.map (fun x => (e.xSide side + x.1 * e.xRow, x.2)) ++
    ys.map fun y => (e.ySide side + y.1 * e.yRow + 4 * y.2.1, bytesOf 4 y.2.2)

/-- X_prev of the next side: a group as it was where its delta is zero, else the exact sum encoded again. -/
def nextPrev (e : DirSlot) (p : List Nat) (d : List (List Nat)) : List Nat :=
  (List.zipWith (fun old g =>
    if groupZero e.fmt g then old
    else (encodeElems e.fmt e.spread 0 (fun _ => 0) false
      (List.zipWith exactSum (decodeElems e.fmt old) (decodeElems e.fmt g))).1) (rowGroups e.fmt p) d).flatten

/-- A delta element: blocks whose group is zero are left out. -/
def deltaElem (f acc : Nat) (d : List (List Nat)) (b : List (List Num)) : Nat × Nat :=
  accBlocks acc ((List.zipWith (fun g w => if groupZero f g then [] else List.zipWith (productNum (fmtIsInt f)) (decodeElems f g) w) d
    b).filter (!·.isEmpty))

/-- The tile and region writes of a delta product. -/
def State.deltaTile (s : State) (core : Nat) (v : Vec) (t : Nat) (e : DirSlot) (side : Bool) (ps : Tab (List Nat))
    (ds : List (List (List Nat))) : Access (List (Nat × Nat × Nat) × List (Nat × List Nat)) :=
  let cl := clusterOf core
  let cols := (tileColList v t).map fun j => (j, chunksOf 32 (mxK v) (s.bRow cl v j))
  ((tileRowList v t).foldl (init := Access.ok ([], [])) fun acc i =>
    acc.bind fun (els, ws) =>
      (s.engineRead (s.who core) (e.ySide side + i * e.yRow + 4 * (tileCols v t).1) (4 * (tileCols v t).2)).map fun y =>
        let old := wordsOf y
        let d := ds.getD i []
        let new := cols.zipIdx.map fun ((j, b), c) => (accOffset v i j, j, deltaElem e.fmt (old.getD c 0) d b)
        (els ++ new.map (fun x => (x.1, x.2.2)),
          ws ++ State.regionWrites e (!side) [(i, nextPrev e (ps.at i []) d)] (new.map fun x => (i, x.2.1, x.2.2.1))))

/-- The region writes of a full product: X bit for bit, and Y. -/
def State.fullWrites (s : State) (core : Nat) (v : Vec) (t : Nat) (e : DirSlot) (side : Bool) (x : Tile) : List (Nat × List Nat) :=
  let cl := clusterOf core
  State.regionWrites e (!side)
    ((tileRowList v t).map fun i => (i, s.readLoc (sramKey cl (mxAoff v + i * mxArs v)) (elemBytes e.fmt (mxK v))))
    ((tileRowList v t).flatMap fun i => (tileColList v t).filterMap fun j =>
      (x.elems.find? fun p => p.1 == accOffset v i j).map fun p => (i, j, p.2.toNat))

/-- A full or plain tile; a full one writes the next side of the regions. -/
def State.fullTile (s : State) (core n : Nat) (r : Rec) (m : MxrRun) : State :=
  let v := r.cmd
  let t := r.st.mark
  let x := s.productTile core v t
  if m.path == 0 then s.holdTile core n v t x
  else
    let e := s.dirSlot (s.tenantOf core) m.slot
    match s.engineTargets (s.who core) false (s.fullWrites core v t e m.side x) with
    | .fault f => s.faultAccess core .k n f .write
    | .wait => s
    | .miss va => s.noteMiss core va
    | .ok ts => (s.writeTargets ts).holdTile core n v t x

/-- A tile of a delta product: the rows of X_prev and Y_prev that it reads, and its writes. -/
def State.deltaStep (s : State) (core n : Nat) (r : Rec) (m : MxrRun) : State :=
  let v := r.cmd
  let e := s.dirSlot (s.tenantOf core) m.slot
  let rows := tileRowList v r.st.mark
  match (s.prevRows core e m.side rows).bind fun ps =>
      s.deltaTile core v r.st.mark e m.side (rows.zip ps) m.delta with
  | .fault f => s.faultAccess core .k n f .read
  | .wait => s
  | .miss va => s.noteMiss core va
  | .ok (els, ws) =>
    match s.engineTargets (s.who core) false ws with
    | .fault f => s.faultAccess core .k n f .write
    | .wait => s
    | .miss va => s.noteMiss core va
    | .ok ts => (s.writeTargets ts).holdTile core n v r.st.mark (cellsOf core els)

/-- The delta pass of a claim that could not read X_prev: the path is decided. A full product keeps the watch made at the claim, and a
delta product the one before it (R152, R156). -/
def State.decidePath (s : State) (core n : Nat) (r : Rec) (m : MxrRun) : State :=
  let t := s.tenantOf core
  let e := s.dirSlot t m.slot
  match s.findDeltas core r.cmd e m.side with
  | .fault f => s.faultAccess core .k n f .read
  | .wait => s
  | .miss va => s.noteMiss core va
  | .ok (reason, ds, nz) =>
    if reason == 0 then
      (s.setDir t m.slot { e with watch := m.old, coarse := m.old.any (!·.2.2), updates := (e.updates + 1) % 2 ^ 32 }).updRec core .k n
        fun x => { x with mxr := some { m with path := 2, delta := ds }
                          st := { x.st with kflags := mxrFlags x false false 0, kcount := x.kindCount (ceilDiv e.k 32 - nz) } }
    else s.updRec core .k n fun x =>
      { x with mxr := some { m with path := 1 }, st := { x.st with kflags := mxrFlags x true (x.st.kflags.getLsbD 6) reason } }

def execMxr (core : BitVec 8) (s : State) : Out :=
  .next (s.nextTile core.toNat kMxr fun n r =>
    match r.mxr with
    | none => s
    | some m =>
      if m.path == 3 then s.decidePath core.toNat n r m
      else if m.path == 2 then s.deltaStep core.toNat n r m else s.fullTile core.toNat n r m)

/-! ### MXDRN (R137-R140) -/

/-- The activation of a drain (R137). -/
def drainAct (v : Vec) (t : Nat) : Nat × Flags :=
  let x := fF32.decode t
  let zero := Num.fin false 0 0
  match drAct v with
  | 1 => (if x.isNan || zero.lt x then t else 0, 0)
  | 2 => if x.isNan || !x.lt zero then (t, 0) else fF32.mul 0 0 x (fF32.decode (drLo v))
  | 3 =>
    if x.isNan then (t, 0) else
    let (a, f1) := fF32.minmax true x (fF32.decode (drLo v))
    let (b, f2) := fF32.minmax false (fF32.decode a) (fF32.decode (drHi v))
    (b, f1 ||| f2)
  | _ => (t, 0)

/-- One element up to its final conversion. -/
def drainElem (v : Vec) (bias acc : Nat) : Nat × Flags :=
  let (t1, f1) := fF32.mul 0 0 (fF32.decode acc) (fF32.decode (drScale v))
  let (t2, f2) := fF32.add 0 0 (fF32.decode t1) (fF32.decode bias)
  let (y, f3) := drainAct v t2
  (y, f1 ||| f2 ||| f3)

/-- A drained row: its bytes in a format, and flags. In a bank that has become raw since its check the bytes are free (DESIGN CHOICE, log 72). -/
def State.drainRow (s : State) (cl : Nat) (v : Vec) (i : Nat) (cols : List Nat) (bias : List Nat) (f : Nat) : List Nat × Flags :=
  if f == 15 then (cols.map fun j => Config.freeNat (s.fresh + i * 4096 + j) % 256, 0) else
  let ys := (List.zip cols (bias ++ List.replicate cols.length 0)).map fun (j, b) => drainElem v b (s.accElem cl (accOffset v i j))
  let c0 := cols.headD 0
  let (bs, fl) := encodeElems f (drSpread v) (cmdRound v) (fun k => rsBits (cmdCorr v) (i * 65536 + c0 + k)) false
    (ys.map fun y => fF32.decode y.1)
  (bs, ys.foldl (fun a y => a ||| y.2) fl)

/-- The address of a drained row. -/
def drainAddr (v : Vec) (t i : Nat) : Nat := drDst v + t * drTileStride v + i * drRowStride v

/-- A drained row's format: its bank's, where it begins in own cluster SRAM. -/
def State.drainFmt (s : State) (cl : Nat) (v : Vec) (va : Nat) : Nat := s.sideFmt cl va (drFmt v)

/-- The banks of own cluster SRAM that writes reach. -/
def banksReached (ws : List (Nat × List Nat)) : List Nat :=
  ((ws.filter fun w => inSram w.1).flatMap fun w => regionBanks (w.1 - sramBase, w.2.length)).eraseDups

/-- The writes of a tile, its flags, and the destination banks that it is the first to write; none where the format of one of these breaks
R359. `seen` lists the banks that earlier tiles have written. -/
def State.drainTile (s : State) (cl : Nat) (v : Vec) (t : Nat) (bias : List Nat) (seen : List Nat) :
    Option (List (Nat × List Nat) × Flags × List Nat) :=
  let rows := tileRowList v t
  let cols := tileColList v t
  let rs := rows.zipIdx.map fun (i, k) =>
    let a := drainAddr v t k
    let f := s.drainFmt cl v a
    let (bs, fl) := s.drainRow cl v i cols bias f
    (cutBytes (packedRuns f a 0 bs.length) bs, fl)
  let ovf := min 0xFFFF (((tileBanks v t).map fun b => ((s.cluster cl).accb b).ovf).foldl (· + ·) 0)
  let ws := (rs.flatMap fun r => r.1) ++ [(drainAddr v t rows.length, bytesOf 4 ovf)]
  let new := (banksReached ws).filter fun b => !seen.contains b
  if new.any fun b => !drainFmtOk v ((s.cluster cl).bank b).fmt.toNat then none
  else some (ws, rs.foldl (fun a r => a ||| r.2) 0, new)

/-- The part of the bias vector for a tile. -/
def State.drainBias (s : State) (core : Nat) (v : Vec) (t : Nat) : Access (List Nat) :=
  let c := tileCols v t
  if drBias v == 0 then .ok []
  else (s.engineRead (s.who core) (drBias v + 4 * c.1) (4 * c.2)).map wordsOf

/-- Accumulator memory is no destination of a drain (R92, R137). -/
def outsideAcc (l : List (Nat × List Nat)) : Option Nat := (l.find? fun x => inAcc x.1).map Prod.fst

def State.drainStep (s : State) (core n : Nat) (r : Rec) : State :=
  let v := r.cmd
  match s.drainBias core v r.st.mark with
  | .fault f => s.faultAccess core .k n f .read
  | .wait => s
  | .miss va => s.noteMiss core va
  | .ok bias =>
    match s.drainTile (clusterOf core) v r.st.mark bias r.drained with
    | none => s.faultCause core .k n causeBadRecord 0
    | some (ws, fl, new) =>
      match outsideAcc ws with
      | some a => s.faultAccess core .k n ⟨causeAccWidth, 0, a⟩ .write
      | none =>
        match s.engineTargets (s.who core) false ws with
        | .fault f => s.faultAccess core .k n f .write
        | .wait => s
        | .miss va => s.noteMiss core va
        | .ok ts =>
          let raw := (banksReached ws).any fun b => ((s.cluster (clusterOf core)).bank b).fmt == 15
          let s := if raw then { s with fresh := s.fresh + 4096 * 4096 } else s
          ((s.writeTargets ts).updRec core .k n fun x =>
            { x with performed := true, drained := x.drained ++ new, st := { x.st with fpfl := x.st.fpfl ||| fl } }).auditPending
              core .k n (ws.flatMap Prod.snd)

def execMxdrn (core : BitVec 8) (s : State) : Out :=
  .next (s.nextTile core.toNat kMxdrn fun n r => s.drainStep core.toNat n r)

end Sys2Proof.Machine
end

