-- ==== Sys2Proof/Machine/Retire.lean ====
section
/-! DEFINITION. Progress and retirement of records (R110-R113, R119, R133, R139, R145, R157, R267), chains and LINK (R114-R116,
R344, R345), the lease's time limits (R124), and stream X's VLD and VST (R43, R89, R175, R398). -/

namespace Sys2Proof.Machine

/-! ### Audit signatures (R267) -/

/-- CRC-64 (ECMA-182), most significant bit first. -/
def crc64Byte (c : Word) (b : Nat) : Word :=
  (List.range 8).foldl (init := c ^^^ (BitVec.ofNat 64 (b % 256) <<< 56)) fun c _ =>
    if c.getLsbD 63 then (c <<< 1) ^^^ 0x42F0E1EBA9EA3693#64 else c <<< 1
def crc64 (c : Word) (bs : List Nat) : Word := bs.foldl crc64Byte c

def AuditLog.isOf (a : AuditLog) (core : Nat) (q : RingId) (n : Nat) : Bool :=
  a.core.toNat == core && a.ring == q && a.seq == n && a.original.isNone

/-- The destination bytes of the boundary performed enter the signature. -/
def AuditLog.fold (a : AuditLog) : AuditLog := { a with crc := crc64 a.crc a.pending, pending := [] }

/-- Rewrites the audit of a record, or drops it. -/
def State.updAudit (s : State) (core : Nat) (q : RingId) (n : Nat) (f : AuditLog → Option AuditLog) : State :=
  s.updDie (dieOf core) fun d =>
    { d with audits := d.audits.filterMap fun a => if a.isOf core q n then f a else some a }

/-- A boundary is marked. -/
def State.auditMark (s : State) (core : Nat) (q : RingId) (n : Nat) : State := s.updAudit core q n fun a => some a.fold

/-- The signature of a record that ends with a status: the boundaries, then status bytes 2-3 and 12-15 (R267). -/
def AuditLog.sign (a : AuditLog) (t : Status) : Word := crc64 a.fold.crc ([t.fpfl.toNat, t.kflags.toNat] ++ bytesOf 4 t.kcount)

/-- A selected record retires: in state 8 its signature is complete, otherwise it is not replayed (R267). -/
def State.auditRetire (s : State) (core : Nat) (q : RingId) (n : Nat) (t : Status) (replayed : Bool) : State :=
  s.updAudit core q n fun a => if replayed then some { a.fold with original := some (a.sign t) } else none

/-! ### Marks -/

/-- Boundaries of a record: chunks, tiles or stripes (R111); of stripes, whose size may change, only whether the next one is the last. -/
def Rec.boundaries (r : Rec) : Nat :=
  let k := cmdKind r.cmd
  if isCopy k then r.chunks else if isMx k then mxTiles r.cmd
  else if k == kColl then (if r.coll.any fun c => c.base + c.stripe < coSize r.cmd then r.st.mark + 2 else r.st.mark + 1) else 0

/-- The mark advances by 1; the `kcount` of a LINK in a call counts segment records only (R345). -/
def Rec.marked (r : Rec) (s : State) : Rec :=
  { r with performed := false, tick := s.tick.toNat, waited := s.fine, pend := 0,
           fifo := ⟨r.fifo.next.foldl (fun t e => t.put e.1 e.2) r.fifo.carry, [], [], false⟩,
           st := { r.st with mark := r.st.mark + 1, kcount := r.kindCount (r.st.kcount + r.pend) } }

def State.markRec (s : State) (core : Nat) (q : RingId) (n : Nat) (r : Rec) : State :=
  ((s.auditMark core q n).updRec core q n (·.marked s)).trace core (pusher q) (ringSrc q) 2 (cmdCorr r.cmd) r.st.seq 0

/-- Event 2 of R124: a command is cut off at a tile, and the run ends. -/
def State.cutOff (s : State) (core n : Nat) : State :=
  if (s.cluster (clusterOf core)).lease.ending && s.holdsLease core && !(s.core core).preempting then
    (s.updRec core .k n fun x =>
      { x.enter s 4 with st := { (x.enter s 4).st with kflags := x.st.kflags ||| 1 } }).passLease (clusterOf core)
  else s

/-- The record of a ring that runs and has performed its next boundary. -/
def State.performedRec (s : State) (core : Nat) (q : RingId) (body : Nat → Rec → State) : State :=
  let ring := (s.core core).ring q
  if !s.engineRuns core q || ring.ret == ring.acc then s
  else match ring.head with
    | none => s
    | some r => if r.st.state == 7 && r.performed && !r.posted then body (ring.ret + 1) r else s

/-- Commands that the accumulator controller marks (R111). -/
def tileKind (k : Nat) : Bool := hasOperands k

/-- The last boundary is marked by mark-and-post (R112). -/
def execProgressMark (core : BitVec 8) (q : RingId) (s : State) : Out :=
  .next (s.performedRec core.toNat q fun n r =>
    if tileKind (cmdKind r.cmd) || r.boundaries ≤ r.st.mark + 1 then s
    else
      let s := s.markRec core.toNat q n r
      if q == .k then s.cutOff core.toNat n else s)

/-- The accumulator controller commits the tile in the cells (R133). -/
def State.commitTile (s : State) (core n : Nat) (r : Rec) (x : Tile) : State :=
  let cl := clusterOf core
  let s := x.elems.foldl (init := s) fun s e => s.writeLoc (accKey cl e.1) (bytesOf 4 e.2.toNat)
  let s := (tileBanks r.cmd r.st.mark).foldl (init := s) fun s b =>
    s.updAcc cl b fun a => { a with busy := false, ovf := min 0xFFFF (a.ovf + x.counts.at b 0) }
  let s := (s.updCluster cl fun c => { c with cells := none }).auditPending core .k n
    (x.elems.flatMap fun e => bytesOf 4 e.2.toNat)
  let s := s.markRec core .k n r
  if r.st.mark + 1 < r.boundaries then s.cutOff core n else s

def execTileCommit (core : BitVec 8) (s : State) : Out :=
  .next (s.performedRec core.toNat .k fun n r =>
    match (s.cluster (clusterOf core.toNat)).cells with
    | none => s
    | some x => if tileKind (cmdKind r.cmd) && x.core == core then s.commitTile core.toNat n r x else s)

/-! ### NULL, NOTE, LINK -/

/-- NULL and NOTE make no access (R364, R365). -/
def State.runEmpty (s : State) (core : Nat) (q : RingId) (kind : Nat) : State :=
  s.running core q kind fun n _ => s.updRec core q n fun x => { x with performed := true }

def execNull (core : BitVec 8) (q : RingId) (s : State) : Out := .next (s.runEmpty core.toNat q kNull)
def execNote (core : BitVec 8) (q : RingId) (s : State) : Out := .next (s.runEmpty core.toNat q kNote)

/-- The next record of a call's segment takes the LINK's slot (R345). -/
def State.fetchSegment (s : State) (core : Nat) (q : RingId) (n : Nat) (r : Rec) : State :=
  match s.engineRead (s.who core) (lnSeg r.bytes + 128 * r.st.kcount) 128 with
  | .fault f => s.faultAccess core q n f .read
  | .wait => s
  | .miss va => s.noteMiss core va
  | .ok bs =>
    let v := stampRec (BitVec.ofNat 1024 (ofBytes bs)) r.st.seq (vecField r.bytes 8 2)
    s.updRec core q n fun x =>
      let y := x.enter s 1
      { y with seg := some v, started := false, st := { y.st with rmask := 0 } }

def execLink (core : BitVec 8) (q : RingId) (s : State) : Out :=
  let c := core.toNat
  .next (s.running c q kLink fun n r =>
    if r.seg.isSome then s
    else if lnJump r.bytes then
      let ch := (s.core c).chain q
      (s.updCore c fun k => k.setChain q { ch with addr := BitVec.ofNat 64 (lnSeg r.bytes), left := lnCount r.bytes }).updRec
        c q n fun x => { x with performed := true }
    else s.fetchSegment c q n r)

/-! ### Mark-and-post (R112) -/

/-- The frame of a multicast that did not reach every receiver (R119). -/
def State.partialFrame (s : State) (core : Nat) (q : RingId) (r : Rec) : State :=
  match r.failed with
  | none => s
  | some (rc, a) =>
    let f := s.frameOf core (r.stop q { cause := 0x40, addr := some a, access := 1, cstat := some { r.st with state := 9 } })
    let none_ : StreamBlock := ⟨0, 0, 0, 0, 0⟩
    ((s.offerFrame (s.tenantOf core) { f with core := rc, strc := none_, stra := none_, strx := none_ }).1).trace core (pusher q)
      (ringSrc q) 5 (cmdCorr r.cmd) r.st.seq 0

/-- A drained region is freed, unless the body keeps it (R139). -/
def State.freeDrained (s : State) (core : Nat) (v : Vec) : State :=
  if drKeep v then s
  else (mxBanks v).foldl (init := s) fun s b => s.updAcc (clusterOf core) b fun a => { a with alloc := false }

/-- The entry update of a retiring MXR (R145, R157); a plain product has none. -/
def State.mxrRetire (s : State) (core n : Nat) (r : Rec) : State :=
  match r.mxr with
  | none => s
  | some m =>
    if m.path == 0 then s else
    let t := s.tenantOf core
    let e := { s.dirSlot t m.slot with claim := none, updates := ((s.dirSlot t m.slot).updates + 1) % 2 ^ 32 }
    if e.race then
      (s.setDir t m.slot e).updRec core .k n fun x => { x with st := { x.st with kflags := x.st.kflags ||| 4 } }
    else if m.path == 2 then s.setDir t m.slot { e with steps := (e.steps + 1) % 256, side := !e.side }
    else
      let stale := r.st.kflags.getLsbD 6
      s.setDir t m.slot { e with state := if stale then 3 else 2, steps := 0, side := !e.side,
                                 invals := if stale && e.state != 3 then min (e.invals + 1) 0xFFFFFFFF else e.invals }

/-- The status a COLL ends with (R314). -/
def CollRun.flags (c : CollRun) : BitVec 8 := (c.error.setWidth 8) <<< 1

/-- What a record's last boundary does beside its mark and its signals. -/
def State.finishKind (s : State) (core : Nat) (q : RingId) (n : Nat) (r : Rec) : State :=
  let v := r.cmd
  let k := cmdKind v
  if k == kMcast then s.partialFrame core q r
  else if k == kMxdrn then s.freeDrained core v
  else if k == kMxr then s.mxrRetire core n r
  else if k == kNote then s.updRec core q n fun x => { x with st := { x.st with rmask := BitVec.ofNat 64 (vecField v 72 8) } }
  else if k == kColl then
    match r.coll with
    | some c =>
      let s := if c.error == 0 then s.updCore core fun k => { k with job := k.job.map fun j => { j with joined := true } } else s
      s.updRec core q n fun x =>
        { x with st := { x.st with kflags := x.st.kflags ||| c.flags, kcount := if c.error == 0 then x.st.kcount else x.kindCount c.lostRank } }
    | none => s
  else s

/-- The first signal that the checks of R177 refuse; a signal to a die under warm reset is not looked at yet. -/
def State.badSignal (s : State) (core : Nat) (v : Vec) : Option Nat :=
  (cmdSignals v).findSome? fun (h, _) =>
    if s.present (hDie h) && !s.dieUp (hDie h) then none
    else if s.cutOffFrom (dieOf core) h then some causeHomeOffline
    else match s.object (s.tenantOf core) (s.levelOf core) h [0] with
      | .error c => some c
      | .ok _ => none

def State.postSignals (s : State) (core : Nat) (v : Vec) : State :=
  (cmdSignals v).foldl (init := s) fun s (h, n) => s.hwPost (dieOf core) (s.tenantOf core) (s.levelOf core) h n

/-- A boundary is performed and not marked yet, or the record marks none. -/
def Rec.lastMark (r : Rec) : Nat := if r.performed && !tileKind (cmdKind r.cmd) && 0 < r.boundaries then 1 else 0

/-- Mark-and-post of a record of a ring, or of a segment record, whose last also ends its LINK and performs its signals (R112, R345). Its
last mark is traced as any is (R270). -/
def State.markAndPost (s : State) (core : Nat) (q : RingId) (n : Nat) (r : Rec) : State :=
  let last := r.seg.isSome && r.st.kcount + 1 == lnCount r.bytes
  let s := (s.readObjects (cmdSignals r.cmd)).readObjects (cmdSignals r.bytes)
  match (s.badSignal core r.cmd).or (if last then s.badSignal core r.bytes else none) with
  | some c => s.faultCause core q n c 0
  | none =>
    let s := s.finishKind core q n r
    let s := if r.lastMark == 1 then s.trace core (pusher q) (ringSrc q) 2 (cmdCorr r.cmd) r.st.seq 0 else s
    let partial_ := cmdKind r.cmd == kMcast && r.st.rmask != 0
    let s := s.updRec core q n fun x =>
      let x := if x.lastMark == 1 then x.marked s else x
      if r.seg.isSome then { x with posted := true, st := { x.st with kcount := r.st.kcount + 1, mark := 0 } }
      else { x.enter s (if partial_ then 9 else 8) with posted := true }
    let s := s.postSignals core r.cmd
    let s := if last then (s.toState core q n 8).postSignals core r.bytes else s
    let stale := cmdKind r.cmd == kMxr && ((s.recOf core q n).any fun x => x.st.kflags.getLsbD 2)
    match s.recOf core q n with
    | some x => if r.audited then s.auditRetire core q n x.st (!partial_ && !stale) else s
    | none => s

/-! ### Token push and retirement -/

/-- The FIFOs a record pushes into: its own core's, or those of the receivers a multicast reached (R118, R119). -/
def tokenTargets (core : Nat) (r : Rec) : List Nat :=
  if cmdKind r.cmd == kMcast then (receivers core r.cmd).filter fun rc => !r.st.rmask.getLsbD (rc % 64) else [core]

/-- Pushes the token of `flags` bit 2. The tokens of a multicast to several receivers are pushed together once every FIFO has room; R118
does not say whether one that has room gets its token before (DESIGN CHOICE, log 85). -/
def State.pushTokens (s : State) (core : Nat) (q : RingId) (r : Rec) : Option State :=
  if !cmdFlag r.cmd 2 then some s
  else
    let p := (ringAgent q).getD 0
    let to_ := cmdPush r.cmd
    let ts := tokenTargets core r
    if ts.all fun c => ((s.core c).tokens (fifoOf p to_)).room then some (ts.foldl (fun s c => s.pushToken c p to_) s) else none

/-- A lease run after its holder has retired an MX record: events 1, 2, 3, 5 and 6 of R124. -/
def State.leaseRetire (s : State) (core : Nat) : State :=
  let cl := clusterOf core
  if !s.holdsLease core then s else
  let s := s.updCluster cl fun c => { c with lease := { c.lease with retired := c.lease.retired + 1 } }
  let l := (s.cluster cl).lease
  if l.ending || l.len ≤ l.retired || (s.leaseRequest core).isNone then s.passLease cl else s

/-- The record leaves its engine: its permit goes back and the retirement is traced, as is that of a LINK whose last segment record
it was (R270, R345). -/
def State.leaveEngine (s : State) (core : Nat) (q : RingId) (n : Nat) (r : Rec) (state : Nat) : State :=
  let s := (s.returnPermit core q n).trace core (pusher q) (ringSrc q) 1 (cmdCorr r.cmd) r.st.seq state
  (if r.seg.isSome && r.st.state != 7 then s.trace core (pusher q) (ringSrc q) 1 (cmdCorr r.bytes) r.st.seq state else s).endIdle core

/-- A segment record is done; its LINK goes on to the next one. -/
def Rec.nextSegment (r : Rec) : Rec :=
  { r with seg := none, plan := none, fifo := ⟨[], [], [], false⟩, performed := false, posted := false, slots := false, failed := none,
           audited := false, recheck := none, st := { r.st with popd := false } }

/-- The retired count advances, or a segment record gives way to the next. -/
def State.retireRec (s : State) (core : Nat) (q : RingId) (n : Nat) (r : Rec) : State :=
  match s.pushTokens core q r with
  | none => s
  | some s =>
    let s := s.leaveEngine core q n r (if r.st.state == 9 then 9 else 8)
    if r.seg.isSome && r.st.state == 7 then s.updRec core q n (·.nextSegment)
    else
      let s := (s.updRec core q n fun x => { x with posted := false }).updCore core fun k =>
        let g := k.ring q
        (k.setRing q { g with ret := g.ret + 1 }).noteOldest q
      if isMx (cmdKind r.cmd) then s.leaseRetire core else s

/-- The last boundary has been performed, or the record makes none, or a COLL has ended with an error. -/
def Rec.finished (r : Rec) : Bool :=
  let k := cmdKind r.cmd
  if tileKind k then r.boundaries ≤ r.st.mark
  else if k == kLink then r.performed && lnJump r.bytes
  else (r.performed && r.boundaries ≤ r.st.mark + 1) || r.coll.any (·.closed)

def execRecordRetire (core : BitVec 8) (q : RingId) (s : State) : Out :=
  let c := core.toNat
  let ring := (s.core c).ring q
  if !s.engineRuns c q || ring.ret == ring.acc then .next s
  else match ring.head with
    | none => .next s
    | some r =>
      let n := ring.ret + 1
      if r.posted then .next (s.retireRec c q n r)
      else if r.st.state == 7 && r.finished then
        let s := s.markAndPost c q n r
        match s.recOf c q n with
        | some r => .next (if r.posted then s.retireRec c q n r else s)
        | none => .next s
      else .next s

/-! ### Chains (R114, R115) -/

/-- Stream A's push count of a chain queue follows the records that the engine takes, in its mark too, so that the final
NOTE of REND gets the next number (DEDUCED, log 23). -/
def StreamState.countChain (t : StreamState) (q : RingId) : StreamState :=
  let t := t.addPush (chRing q) 1
  { t with mark := t.mark.map fun m => { m with pushes := m.pushes.put (chRing q) (m.pushes.at (chRing q) 0 + 1) } }

/-- The next record of a chain (R115). A chain that QKICK extends after REND's final NOTE was pushed and before its fetch is fetched on,
behind the NOTE; the manual is silent there (DESIGN CHOICE, log 78). -/
def execChainFetch (core : BitVec 8) (q : RingId) (s : State) : Out :=
  let c := core.toNat
  let k := s.core c
  let ch := k.chain q
  let r := k.ring q
  if !s.engineStarts c q || !ch.mode || ch.left == 0 || ch.kicks ≤ ch.fetched || 512 ≤ r.occupancy || k.chainBlocked q then .next s
  else if 2 ^ 30 - 1 ≤ r.acc then .next (s.stopCore c { cause := causeQueueLimit, src := ringSrc q, seq := r.acc + 1 })
  else match s.engineRead (s.who c) ch.addr.toNat 128 with
    | .wait => .next s
    | .miss va => .next (s.noteMiss c va)
    | .fault f => .next (s.stopCore c { cause := f.cause, sub := f.sub, src := ringSrc q, addr := some f.addr, width := 7, seq := r.acc + 1 })
    | .ok bs =>
      let n := r.acc + 1
      let x := { Rec.make (stampRec (BitVec.ofNat 1024 (ofBytes bs)) n (k.gen.toNat % 65536)) n s.beat.toNat s.tick.toNat s.steps
        false true with source := some ch.addr }
      .next ((s.updCore c fun k =>
        ((k.setRing q (r.accept x)).setChain q
          { ch with addr := ch.addr + 128, left := ch.left - 1, fetched := ch.fetched + 1 }).noteOldest q).updStr c .a (·.countChain q))

/-! ### The lease's limits (R124) -/

/-- Event 2: the run ends at the holder's next tile commit or retirement. -/
def execLeaseRunTimeout (cluster : BitVec 6) (s : State) : Out :=
  let cl := cluster.toNat
  let l := (s.cluster cl).lease
  if l.holder.isSome && l.start + 65536 ≤ s.tick.toNat then
    .next (s.updCluster cl fun c => { c with lease := { c.lease with ending := true } })
  else .next s

/-- Event 4: the holder's record has waited for its permit or token while another core requests. -/
def execLeasePermitStall (cluster : BitVec 6) (s : State) : Out :=
  let cl := cluster.toNat
  match (s.cluster cl).lease.holder with
  | none => .next s
  | some h =>
    let core := 4 * cl + h.toNat
    let other := [0, 1, 2, 3].any fun i => i != h.toNat && (s.leaseRequest (4 * cl + i)).isSome
    match (s.core core).ringK.head with
    | none => .next s
    | some r =>
      if other && (r.st.state == 5 || r.st.state == 6) && r.tick + 4096 ≤ s.tick.toNat then .next (s.passLease cl) else .next s

/-! ### VLD, VST (R398) -/

/-- A record in state 7 that an access of X to cluster SRAM or accumulator memory meets in deterministic mode (R175). -/
def State.xOverlap (s : State) (core va : Nat) (write : Bool) : Option Nat :=
  if !(s.core core).job.any (·.det) || !(inSram va || inAcc va) then none else
  [RingId.l, .k, .s, .g].findSome? fun p =>
    let ring := (s.core core).ring p
    match ring.head with
    | some x =>
      let g := s.recFoot core x
      if x.st.state == 7 && ring.ret != ring.acc &&
          (rangesOverlap [(va, 128)] g.2 || (write && rangesOverlap [(va, 128)] g.1)) then some x.st.seq else none
    | none => none

def State.trapOverlap (s : State) (n va : Nat) (kind : AccKind) (cls : Nat) : State :=
  s.stopCore s.fcore
    { cause := causeOverlap, src := laneSrc .x, addr := some va, access := kind.code, cls := cls, width := 7, seq := n }

/-- The entry of a `FIFO` bank at X's read position; another core's held entries come first (DEDUCED, log 41). -/
def State.fifoRead (s : State) (core va : Nat) : Access (List Nat × State) :=
  let cl := clusterOf core
  let b := (va - sramBase) / 32768
  let x := (s.cluster cl).bank b
  if x.pend.isSome then .wait
  else if !bankTenantOk x (s.who core) then .fault ⟨causeCrossTenant, 0, va⟩
  else if x.rd == x.tail || (x.rd != x.head && x.consumer != some core) then .wait
  else if let some f := s.ecc .read (sramKey cl (b * 32768 + x.rd % 256 * 128)) 128 va then .fault f
  else .ok (s.readLoc (sramKey cl (b * 32768 + x.rd % 256 * 128)) 128,
    s.updBank cl b fun x => { x with rd := x.rd + 1, consumer := some core })

/-- The bank an address names is in `FIFO` mode. -/
def State.inFifo (s : State) (core va : Nat) : Bool :=
  inSram va && ((s.cluster (clusterOf core)).bank ((va - sramBase) / 32768)).mode == 3

def vmemAddr (s : State) (a : BitVec 5) (o : BitVec 6) : Word := s.me.rs a + 128 * o.signExtend 64

def execVld (k : Bool) (g : BitVec 2) (d a : BitVec 5) (c : BitVec 4) (o : BitVec 6) (s : State) : Out :=
  .next (s.issue (.vld k g d a c o) 0 none fun s =>
    let va := vmemAddr s a o
    if k && !(s.myCore.tokens (fifoOf g.toNat 2)).some then s.stall (.token g.toNat 2)
    else if va.toNat % 128 != 0 then s.trapAlign va .read c.toNat 128
    else match s.xOverlap s.fcore va.toNat false with
      | some n => s.trapOverlap n va.toNat .read c.toNat
      | none =>
        s.precise .read va c.toNat 128
          ((if s.inFifo s.fcore va.toNat then s.fifoRead s.fcore va.toNat else s.readAs s.fcore true c.toNat va.toNat 128).map
            fun (bs, s) =>
              let s := if k then s.popToken s.fcore g.toNat 2 else s
              s.updMe fun t => (t.wv d (BitVec.ofNat 1024 (ofBytes bs))).done))

/-- The access faults, whether or not a token could be pushed after it. -/
def Access.faults {α : Type} : Access α → Bool
  | .fault _ => true
  | _ => false

def execVst (k : Bool) (g : BitVec 2) (d a : BitVec 5) (c : BitVec 4) (o : BitVec 6) (s : State) : Out :=
  .next (s.issue (.vst k g d a c o) 0 none fun s =>
    let va := vmemAddr s a o
    if va.toNat % 128 != 0 then s.trapAlign va .write c.toNat 128
    else match s.xOverlap s.fcore va.toNat true with
      | some n => s.trapOverlap n va.toNat .write c.toNat
      | none =>
        let w := s.writeAs s.fcore true va.toNat (bytesOf 128 (s.me.rv d).toNat)
        if k && s.tokenBlocked g.toNat && !w.faults then s.stall (.token 2 g.toNat)
        else s.precise .write va c.toNat 128 (w.map fun s => (if k then s.pushTokenX g.toNat else s).advance))

end Sys2Proof.Machine
end

