-- ==== Sys2Proof/Machine/Fabric.lean ====
section
/-! DEFINITION. The Gemsbok fabric: fragments (R235, R236), the code (R237), paths (R239, R240, R244), keys and table swaps (R242,
R243), sending and receiving (R245-R247), ports and notices (R244), and the links of R17 and R19. -/

namespace Sys2Proof.Machine

/-! ### Fragments (R235, R236) -/

/-- The fields of a header. -/
structure Hdr where
  type : Nat
  index : Nat
  k : Nat
  m : Nat
  msgid : BitVec 32
  src : BitVec 16
  dst : BitVec 16
  pkey : BitVec 16
  cls : Nat
  tenant : Nat
  len : Nat
  path : Nat
  hops : Nat
  corr : BitVec 32
  va : Nat
  deriving DecidableEq, Repr

def Hdr.bytes (h : Hdr) : List Nat :=
  [h.type, h.index, h.k, h.m] ++ bytesOf 4 h.msgid.toNat ++ bytesOf 2 h.src.toNat ++ bytesOf 2 h.dst.toNat ++ bytesOf 2 h.pkey.toNat ++
    [h.cls, h.tenant] ++ bytesOf 2 h.len ++ [h.path, h.hops] ++ bytesOf 4 h.corr.toNat ++ bytesOf 8 h.va

def Hdr.pack (h : Hdr) : BitVec 256 := BitVec.ofNat 256 (ofBytes h.bytes)

def hdrField (h : BitVec 256) (at_ n : Nat) : Nat := bitsOf h.toNat (8 * at_) (8 * n)

def hdrOf (h : BitVec 256) : Hdr :=
  { type := hdrField h 0 1, index := hdrField h 1 1, k := hdrField h 2 1, m := hdrField h 3 1,
    msgid := BitVec.ofNat 32 (hdrField h 4 4), src := BitVec.ofNat 16 (hdrField h 8 2), dst := BitVec.ofNat 16 (hdrField h 10 2),
    pkey := BitVec.ofNat 16 (hdrField h 12 2), cls := hdrField h 14 1, tenant := hdrField h 15 1, len := hdrField h 16 2,
    path := hdrField h 18 1, hops := hdrField h 19 1, corr := BitVec.ofNat 32 (hdrField h 20 4), va := hdrField h 24 8 }

/-- The frame check sequence of IEEE 802.3 (R235). -/
def crc32Byte (c : BitVec 32) (b : Nat) : BitVec 32 :=
  (List.range 8).foldl (init := c ^^^ BitVec.ofNat 32 (b % 256)) fun c _ =>
    if c.getLsbD 0 then (c >>> 1) ^^^ 0xEDB88320#32 else c >>> 1
def crc32 (bs : List Nat) : BitVec 32 := ~~~(bs.foldl crc32Byte 0xFFFFFFFF#32)

/-- Header bytes 0-18 and 20-31, then the payload. -/
def fragCrc (hdr : BitVec 256) (payload : List Nat) : BitVec 32 :=
  let h := bytesOf 32 hdr.toNat
  crc32 (h.take 19 ++ h.drop 20 ++ payload)

def fragBytes (f : Fragment) : List Nat := f.payload.map (·.toNat)

def mkFragment (h : Hdr) (payload : List Nat) : Fragment :=
  ⟨h.pack, fragCrc h.pack payload, payload.map (BitVec.ofNat 8)⟩

def typeData := 1
def typeParity := 2
def typeAck := 3
def typeNack := 4
def typeLoss := 5
def typeCancel := 6

/-- A header that R236 allows. The alignment of `va` and a length of 0 are let through (DESIGN CHOICE, log 18). -/
def Hdr.ok (h : Hdr) : Bool :=
  1 ≤ h.type && h.type ≤ 6 &&
    (if h.type == typeData then h.index < h.k else if h.type == typeParity then h.index ≤ 7
     else if h.type == typeLoss then h.index ≤ 1 else h.index == 0) &&
    1 ≤ h.k && h.k ≤ 32 && h.m ≤ 8 && h.cls < 128 && h.tenant < 64 && h.len ≤ 16384 && h.path ≤ 7 && h.hops < 64 &&
    h.va < 2 ^ 57

def Hdr.class_ (h : Hdr) : Nat := h.cls % 8
def Hdr.channel (h : Hdr) : Nat := bitsOf h.cls 3 2
def Hdr.ordered (h : Hdr) : Bool := h.cls.testBit 5

/-- A fragment that its receiver counts as never arrived (R235). -/
def fragBad (f : Fragment) : Bool :=
  let h := hdrOf f.hdr
  f.payload.length != (if h.type == typeData || h.type == typeParity then 512 else 0) || fragCrc f.hdr (fragBytes f) != f.crc || !h.ok

/-! ### The code (R237) -/

/-- Multiplication in GF(2^8) modulo 0x11D. -/
def gmul (a b : Nat) : Nat :=
  ((List.range 8).foldl (init := ((0, a) : Nat × Nat)) fun (acc, x) i =>
    (if b.testBit i then acc ^^^ x else acc, if 128 ≤ x then ((2 * x) ^^^ 0x11D) % 256 else 2 * x)).1

def ginv (a : Nat) : Nat := ((List.range 256).find? fun x => gmul a x == 1).getD 0

def coef (j i : Nat) : Nat := ginv (j ^^^ (8 + i))

def xorBytes (a b : List Nat) : List Nat := List.zipWith (· ^^^ ·) a b
def scaleBytes (c : Nat) (a : List Nat) : List Nat := a.map (gmul c)
def zeros512 : List Nat := List.replicate 512 0

def fragments (len : Nat) : Nat := max 1 (ceilDiv len 512)

/-- The data fragments of a message, the last one padded. -/
def dataFragments (data : List Nat) : List (List Nat) :=
  (List.range (fragments data.length)).map fun i => ((data.drop (512 * i)).take 512 ++ zeros512).take 512

def parityFragment (d : List (List Nat)) (j : Nat) : List Nat :=
  d.zipIdx.foldl (fun p x => xorBytes p (scaleBytes (coef j x.2) x.1)) zeros512

/-- Solves a square system over the field: rows of coefficients with right sides. -/
def solve : Nat → List (List Nat × List Nat) → List (List Nat)
  | 0, _ => []
  | n + 1, rows =>
    match rows.find? fun r => r.1.headD 0 != 0 with
    | none => []
    | some r =>
      let inv := ginv (r.1.headD 0)
      let p := ((r.1.map (gmul inv)).drop 1, scaleBytes inv r.2)
      let rest := (rows.erase r).map fun q =>
        let c := q.1.headD 0
        (xorBytes (q.1.drop 1) (p.1.map (gmul c)), xorBytes q.2 (scaleBytes c p.2))
      let xs := solve n rest
      ((p.1.zip xs).foldl (fun acc x => xorBytes acc (scaleBytes x.1 x.2)) p.2) :: xs

/-- The missing data fragments of a message, from as many parity fragments. -/
def rebuild (k : Nat) (data parity : Tab (List Nat)) : Tab (List Nat) :=
  let miss := (List.range k).filter fun i => (data.find i).isNone
  let rows := (parity.take miss.length).map fun (j, p) =>
    (miss.map (coef j), data.foldl (fun acc x => xorBytes acc (scaleBytes (coef j x.1) x.2)) p)
  miss.zip (solve miss.length rows)

/-! ### Paths (R239, R240) -/

/-- A word of an entry of the active copy. -/
def State.route (s : State) (d : Nat) (dst : BitVec 16) (half : Nat) : Word := s.routeWord (s.die d).route (2 * dst.toNat + half)

/-- Choices of an entry that are valid and not pruned: number, port and weight. -/
def State.usable (s : State) (d : Nat) (dst : BitVec 16) : List (Nat × Nat × Nat) :=
  let w := (s.route d dst 0).toNat
  let wt := (s.route d dst 1).toNat
  ((List.range 8).filter fun c => w.testBit (8 * c + 7) && !w.testBit (8 * c + 6)).map fun c =>
    (c, bitsOf w (8 * c) 5, max 1 (bitsOf wt (4 * c) 4))

def State.routeKey (s : State) (d : Nat) (dst : BitVec 16) : BitVec 16 := BitVec.ofNat 16 (bitsOf (s.route d dst 1).toNat 32 16)
def State.routeAdaptive (s : State) (d : Nat) (dst : BitVec 16) : Bool := (s.route d dst 1).getLsbD 48
/-- The local flag, honoured on the destination alone. -/
def State.routeLocal (s : State) (d : Nat) (dst : BitVec 16) : Bool :=
  (s.route d dst 1).getLsbD 49 && (s.die d).fabid == dst && dst != 0xFFFF

def DieState.countCrc (d : DieState) : DieState := { d with fcrcerr := min (d.fcrcerr + 1) 0xFFFFFFFF }

/-- A fragment queues on a port. -/
def State.queueOn (s : State) (d port : Nat) (f : Fragment) : State :=
  s.updDie d fun x => { x with egress := x.egress ++ [(port, f)] }

/-- What a port still queues once its `gone p` oldest fragments have left on it. -/
def departed (gone : Nat → Nat) : Tab Nat → List (Nat × Fragment) → List (Nat × Fragment)
  | _, [] => []
  | c, (p, f) :: r => if c.at p 0 < gone p then departed gone (c.put p (c.at p 0 + 1)) r else (p, f) :: departed gone c r

/-- Fragments leave the ports on which they queue, the oldest first; how many have left by now is a free value (DESIGN CHOICE, log 64). -/
def State.depart (s : State) : State :=
  let (v, s) := s.draw
  { s with dies := s.dies.map fun (i, x) => (i, { x with egress := departed (fun p => v / 2 ^ (20 * p) % 2 ^ 20) [] x.egress }) }

/-- Fragments queued on a port of the module. -/
def State.occupancy (s : State) (port : Nat) : Nat :=
  (s.dies.map fun (_, x) => (x.egress.filter fun e => e.1 == port).length).foldl (· + ·) 0

/-- The usable choice with the least ratio of occupancy to weight. -/
def State.leastLoaded (s : State) : List (Nat × Nat × Nat) → Option (Nat × Nat × Nat)
  | [] => none
  | a :: r =>
    match s.leastLoaded r with
    | none => some a
    | some b => if s.occupancy b.2.1 * a.2.2 < s.occupancy a.2.1 * b.2.2 then some b else some a

/-- The choice of fragment number `f`: its own, or with the adaptive flag perhaps the least loaded; at most `cap` fragments of a
transmission take one choice. `used` counts those placed. -/
def State.pickChoice (s : State) (d : Nat) (dst : BitVec 16) (f cap : Nat) (used : Tab Nat) : Option (Nat × Nat × Nat) × State :=
  let us := s.usable d dst
  let own := us[f % us.length]?
  let open_ := us.filter fun u => used.at u.1 0 < cap
  if !s.routeAdaptive d dst then (own, s)
  else
    let (v, s) := s.draw
    let own := own.filter fun u => used.at u.1 0 < cap
    (if v % 2 == 1 then s.leastLoaded open_ else own.or (s.leastLoaded open_), s)

/-- One fragment leaves its source, or is discarded and counted where no path is usable. -/
def State.emit (s : State) (d f cap : Nat) (used : Tab Nat) (h : Hdr) (payload : List Nat) : State × Tab Nat :=
  if s.routeLocal d h.dst then (s.queueOn d 32 (mkFragment h payload), used)
  else
    match s.pickChoice d h.dst f cap used with
    | (none, s) => (s.updDie d (·.countCrc), used)
    | (some (c, p, _), s) => (s.queueOn d p (mkFragment { h with path := c } payload), used.put c (used.at c 0 + 1))

/-- Fragments of one transmission, numbered from 0. A die with no id sends nothing (R236). -/
def State.emitAll (s : State) (d : Nat) (l : List (Hdr × List Nat)) : State :=
  match l with
  | [] => s
  | (h, _) :: _ =>
    if (s.die d).fabid == 0xFFFF then s else
    let s := s.depart
    let cap := ceilDiv l.length (max 1 (s.usable d h.dst).length)
    (l.zipIdx.foldl (init := ((s, []) : State × Tab Nat)) fun (s, used) ((h, p), i) => s.emit d i cap used h p).1

/-- A module that a fragment passes sends it on by choice `path` of its own entry, or the next usable one, wrapping; one that reaches 64
hops is discarded (R236, R240). -/
def State.forward (s : State) (d : Nat) (f : Fragment) : State :=
  let h := hdrOf f.hdr
  let us := s.usable d h.dst
  match (us.find? fun u => h.path ≤ u.1).or us.head? with
  | none => s.updDie d (·.countCrc)
  | some (_, p, _) =>
    if 64 ≤ h.hops + 1 then s.updDie d (·.countCrc) else s.queueOn d p { f with hdr := { h with hops := h.hops + 1 }.pack }

/-! ### Sending (R238, R242, R245) -/

def State.fcrateOf (s : State) (d cls : Nat) : Nat := ((s.die d).fcrate.at cls fcrateReset).toNat
def State.rateDl (s : State) (d cls : Nat) : Nat := bitsOf (s.fcrateOf d cls) 48 16
def State.rateM (s : State) (d cls : Nat) : Nat := bitsOf (s.fcrateOf d cls) 8 4
def State.rateKmax (s : State) (d cls : Nat) : Nat := bitsOf (s.fcrateOf d cls) 0 6

def SentMsg.hdr (x : SentMsg) (type index m : Nat) (retrans : Bool) : Hdr :=
  { type := type, index := index, k := fragments x.data.length, m := m, msgid := x.msgid, src := x.src, dst := x.dst, pkey := x.pkey,
    cls := x.cls.toNat + (if retrans then 64 else 0), tenant := x.tenant.toNat, len := x.data.length, path := 0, hops := 0,
    corr := x.corr, va := x.va.toNat }

/-- One transmission: every data fragment, and parity, two more fragments of it the second time. -/
def State.transmit (s : State) (d : Nat) (x : SentMsg) (retrans : Bool) : State :=
  let m := if retrans then min (x.m + 2) 8 else x.m
  let ds := dataFragments x.data
  s.emitAll d ((ds.zipIdx.map fun (b, i) => (x.hdr typeData i m retrans, b)) ++
    (List.range m).map fun j => (x.hdr typeParity j m retrans, parityFragment ds j))

/-- A die's key for a tenant; 0 means that the tenant neither sends nor receives. -/
def State.tenantKey (s : State) (d t : Nat) : BitVec 16 := (s.die d).fpk.at t 0

/-- A message may leave (R236, R242). -/
def State.mayLeave (s : State) (d t : Nat) (dst : BitVec 16) : Bool :=
  (s.die d).fabid != 0xFFFF && s.tenantKey d t != 0 && s.routeKey d dst == s.tenantKey d t

/-- Keeps and transmits a message. -/
def State.sendMsg (s : State) (d : Nat) (x : SentMsg) : State :=
  (s.updDie d fun k => { k with kept := k.kept.filter (·.msgid != x.msgid) ++ [x] }).transmit d x false

/-- The next message id of a die. -/
def State.nextMsgid (s : State) (d : Nat) : BitVec 32 × State :=
  ((s.die d).msgid, s.updDie d fun k => { k with msgid := k.msgid + 1 })

/-! ### Losses -/

def causeLoss := 0x41

/-- The record that an unrecoverable loss finishes, at the sending end (R245, R314). -/
def State.collLost (s : State) (core seq rank : Nat) : State :=
  match s.recOf core .g seq with
  | none => s
  | some r =>
    let s := s.collError core seq 5 rank
    s.event (s.tenantOf core) { s.eventFrame causeLoss 0 (ringSrc .g) (s.tenantOf core) with
      seq := seq, corr := cmdCorr r.cmd, core := core, level := s.levelOf core }

/-- A message of a snapshot has arrived: a chunk is pending no longer once the buddy holds all of it (R260). -/
def Snapshot.arrived (p : Snapshot) (id : BitVec 32) : Snapshot :=
  let left := p.awaiting.filter (·.1 != id)
  let held (c : Nat) : Bool := p.sent.contains c && !left.any (·.2 == some c)
  { p with awaiting := left, pending := p.pending.filter (!held ·), sent := p.sent.filter (!held ·) }

/-- The snapshot that a message belongs to sees it end. -/
def State.snapMessage (s : State) (id : BitVec 32) (ok : Bool) : State :=
  (s.updMod fun m =>
    match m.snap with
    | some p => if !p.awaiting.any (·.1 == id) then m
      else if ok then { m with snap := some (p.arrived id) } else { m with snap := none, ckst := 4 }
    | none => m).performHeld

/-- A message ends at its sender as an unrecoverable loss; an ordered one is reported onward where the tenant may send (R242, R246). -/
def State.loseMessage (s : State) (d : Nat) (x : SentMsg) : State :=
  let s := s.updDie d fun k => { k with kept := k.kept.filter (· != x) }
  let s := if x.cls.getLsbD 5 && s.mayLeave d x.tenant.toNat x.dst then s.emitAll d [(x.hdr typeLoss 1 0 false, [])] else s
  match x.origin with
  | some (c, n, r) => s.collLost c.toNat n r
  | none => s.snapMessage x.msgid false

/-! ### Receiving (R242, R245-R247) -/

/-- The message id lies more than 2^20 below the newest of its source. -/
def DieState.old (d : DieState) (src : BitVec 16) (id : BitVec 32) : Bool :=
  match d.newest.find src.toNat with
  | some n => 2 ^ 20 < (n + 2 ^ 32 - id.toNat) % 2 ^ 32 && (n + 2 ^ 32 - id.toNat) % 2 ^ 32 < 2 ^ 31
  | none => false

def DieState.late_ (d : DieState) (src : BitVec 16) (id : BitVec 32) : Bool :=
  d.past.contains (src.toNat, id.toNat) || d.old src id

def DieState.countLate (d : DieState) : DieState := { d with flate := min (d.flate + 1) 0xFFFFFFFF }
def DieState.countKey (d : DieState) : DieState := { d with fkeydrop := min (d.fkeydrop + 1) 0xFFFFFFFF }

/-- The newest id of a source, and what is remembered of its ended messages, follow a message that is accepted. -/
def DieState.seen (d : DieState) (src : BitVec 16) (id : BitVec 32) : DieState :=
  let newer := match d.newest.find src.toNat with
    | some n => (id.toNat + 2 ^ 32 - n) % 2 ^ 32 < 2 ^ 31
    | none => true
  if !newer then d
  else
    let keep (p : Nat × Nat) : Bool := p.1 != src.toNat || (id.toNat + 2 ^ 32 - p.2) % 2 ^ 32 ≤ 2 ^ 20
    { d with newest := d.newest.put src.toNat id.toNat, past := d.past.filter keep }

/-- The reply to a message (R242). The fields that the rule does not list, `m`, `cls` and `va`, are zero (DESIGN CHOICE, log 18). -/
def replyHdr (h : Hdr) (type : Nat) : Hdr :=
  { type := type, index := 0, k := h.k, m := 0, msgid := h.msgid, src := h.dst, dst := h.src, pkey := h.pkey, cls := 0,
    tenant := h.tenant, len := h.len, path := 0, hops := 0, corr := h.corr, va := 0 }

def State.reply (s : State) (d : Nat) (h : Hdr) (type : Nat) : State := s.emitAll d [(replyHdr h type, [])]

def State.ctx (s : State) (d : Nat) (src : BitVec 16) (id : BitVec 32) : Option RecvCtx :=
  (s.die d).ctxs.find? fun c => c.src == src && c.msgid == id

def State.updCtx (s : State) (d : Nat) (src : BitVec 16) (id : BitVec 32) (f : RecvCtx → RecvCtx) : State :=
  s.updDie d fun x => { x with ctxs := x.ctxs.map fun c => if c.src == src && c.msgid == id then f c else c }

/-- A message has completed or been abandoned. -/
def State.closeCtx (s : State) (d : Nat) (src : BitVec 16) (id : BitVec 32) : State :=
  s.updDie d fun x => { x with ctxs := x.ctxs.filter fun c => !(c.src == src && c.msgid == id)
                               past := (src.toNat, id.toNat) :: x.past }

/-- The group tag of the COLL that sent a message, where its sender is a die of this module: a header does not carry it (R236, R313,
log 76). -/
def State.tagOf (s : State) (src : BitVec 16) (id : BitVec 32) : Option Nat :=
  (s.dies.findSome? fun (_, x) => x.kept.find? fun m => m.src == src && m.msgid == id).bind fun m =>
    m.origin.bind fun o => (s.recOf o.1.toNat .g o.2.1).map fun r => coTag r.cmd

/-- A message completes at its receiver: it is acknowledged, and the engine that waits for it learns of it. -/
def State.finishMsg (s : State) (d : Nat) (c : RecvCtx) : State :=
  let h := hdrOf c.hdr
  let s := (s.closeCtx d c.src c.msgid).reply d h typeAck
  s.updDie d fun x => { x with arrivals := x.arrivals ++ [(h.tenant, h.va, h.len, s.tagOf c.src c.msgid)] }

/-- An earlier message of the same ordered channel that the receiver knows of is still open (R246). -/
def State.heldBack (s : State) (d : Nat) (c : RecvCtx) : Bool :=
  let h := hdrOf c.hdr
  (s.die d).ctxs.any fun x =>
    let g := hdrOf x.hdr
    x.src == c.src && g.ordered && g.channel == h.channel && x.msgid != c.msgid &&
      (c.msgid.toNat + 2 ^ 32 - x.msgid.toNat) % 2 ^ 32 < 2 ^ 31

/-- Messages that wait for their turn complete; the fuel is the number of contexts. -/
def State.drainOrdered (s : State) (d : Nat) : Nat → State
  | 0 => s
  | n + 1 =>
    match (s.die d).ctxs.find? fun c => c.complete && !s.heldBack d c with
    | none => s
    | some c => (s.finishMsg d c).drainOrdered d n

def State.drainAll (s : State) (d : Nat) : State := s.drainOrdered d (s.die d).ctxs.length

/-- A message is abandoned at its receiver: the loss is recorded for the destination tenant, and `reply` sends LOSS. -/
def State.abandonMsg (s : State) (d : Nat) (h : Hdr) (reply : Bool) : State :=
  let s := s.closeCtx d h.src h.msgid
  let s := if reply then s.reply d h typeLoss else s
  (s.event h.tenant { s.eventFrame causeLoss 0 0 h.tenant with corr := h.corr.toNat }).drainAll d

/-- Writes part of a message: user global space and the staging window of the destination tenant (R245 step 5). -/
def State.writeMsg (s : State) (d : Nat) (h : Hdr) (i : Nat) (b : List Nat) : Option State :=
  let n := min 512 (h.len - 512 * i)
  match s.writeVa ⟨h.tenant, 1, 64 * d⟩ (h.va + 512 * i) (b.take n) with
  | .error _ => none
  | .ok s => some s

def State.writeRebuilt (s : State) (d : Nat) (h : Hdr) : List (Nat × List Nat) → Option State
  | [] => some s
  | (i, b) :: r => (s.writeMsg d h i b).bind fun s => s.writeRebuilt d h r

/-- Fragments in the parity pool. -/
def DieState.poolUsed (d : DieState) : Nat := (d.ctxs.map fun c => c.parity.length).foldl (· + ·) 0

/-- `k` distinct fragments are held: the missing data is rebuilt, and the message completes when its turn has come. -/
def State.maybeComplete (s : State) (d : Nat) (src : BitVec 16) (id : BitVec 32) : State :=
  match s.ctx d src id with
  | none => s
  | some c =>
    let h := hdrOf c.hdr
    if c.complete || c.data.length + c.parity.length < h.k then s
    else match s.writeRebuilt d h (rebuild h.k c.data c.parity) with
      | none => s.abandonMsg d h true
      | some s =>
        let s := s.updCtx d src id fun c => { c with complete := true, parity := [] }
        if h.ordered then s.drainAll d else s.finishMsg d { c with complete := true }

/-- The context of a fragment's message, opened where it is the first. -/
def State.openCtx (s : State) (d : Nat) (f : Fragment) : Option State :=
  let h := hdrOf f.hdr
  if (s.ctx d h.src h.msgid).isSome then some s
  else if 1024 ≤ (s.die d).ctxs.length then none
  else
    let c : RecvCtx := ⟨h.src, h.msgid, f.hdr, s.beat.toNat, s.rateDl d h.class_, [], [], false, false⟩
    some (s.updDie d fun x => { x with ctxs := x.ctxs ++ [c] })

/-- The pieces of a message's destination; none where it does not translate or is no memory (R245 step 5). No rule says at which level
the destination tenant's pages are checked: they are at level S (DESIGN CHOICE, log 18). -/
def State.msgTargets (s : State) (d : Nat) (h : Hdr) : Option (List (Target × Nat)) :=
  match s.targets ⟨h.tenant, 1, 64 * d⟩ .write (pieces h.va h.len) with
  | .ok l => some l
  | .error _ => none

/-- The place of a message's destination where a snapshot has still to copy its chunk: its fragments wait (R260). -/
def State.msgHeld (s : State) (d : Nat) (h : Hdr) : Option Nat :=
  if h.type == typeData || h.type == typeParity then s.heldVa ⟨h.tenant, 1, 64 * d⟩ h.va h.len else none

/-- A fragment that has reached its destination's checks: key, age, context, and the destination of the message. -/
def State.acceptFragment (s : State) (d : Nat) (f : Fragment) (body : RecvCtx → State → State) : State :=
  let h := hdrOf f.hdr
  if s.tenantKey d h.tenant == 0 || h.pkey != s.tenantKey d h.tenant then s.updDie d (·.countKey)
  else if (s.die d).late_ h.src h.msgid then s.updDie d (·.countLate)
  else match s.openCtx d f with
    | none => s.updDie d fun x => { x with fctxfull := min (x.fctxfull + 1) 0xFFFFFFFF }
    | some s =>
      let s := s.updDie d (·.seen h.src h.msgid)
      match s.ctx d h.src h.msgid with
      | none => s
      | some c => if (s.msgTargets d h).isNone then s.abandonMsg d h true else body c s

/-- A fragment that has been delivered is on no port any more. -/
def State.delivered (s : State) (f : Fragment) : State :=
  match s.dies.find? fun (_, x) => x.egress.any fun e => e.2 == f with
  | none => s
  | some (d, _) => s.updDie d fun x =>
    match x.egress.find? fun e => e.2 == f with
    | some e => { x with egress := x.egress.erase e }
    | none => x

/-- A fragment of some types reaches a die: bad ones are counted; one whose entry is local stays (R239), as does a cancellation, at a
die with an id (R236); the others are sent on. -/
def State.receive (s : State) (d : Nat) (f : Fragment) (types : List Nat) (body : Hdr → State → State) : State :=
  let h := hdrOf f.hdr
  if !s.dieUp d then s
  else if fragBad f then (s.delivered f).updDie d (·.countCrc)
  else if !types.contains h.type then s
  else if h.type == typeCancel && h.dst == 0xFFFF then
    if (s.die d).fabid == 0xFFFF then s else body h (s.delivered f)
  else if s.routeLocal d h.dst then
    match s.msgHeld d h with
    | some k => s.hurryChunk k
    | none => body h (s.delivered f)
  else (s.delivered f).forward d f

def execFragmentDataReceive (die : BitVec 2) (f : Fragment) (s : State) : Out :=
  let d := die.toNat
  .next (s.receive d f [typeData] fun h s =>
    s.acceptFragment d f fun c s =>
      if c.complete || (c.data.find h.index).isSome then s
      else match s.writeMsg d h h.index (fragBytes f) with
        | none => s.abandonMsg d h true
        | some s => (s.updCtx d h.src h.msgid fun c => { c with data := c.data.put h.index (fragBytes f) }).maybeComplete d h.src h.msgid)

def execFragmentParityReceive (die : BitVec 2) (f : Fragment) (s : State) : Out :=
  let d := die.toNat
  .next (s.receive d f [typeParity] fun h s =>
    s.acceptFragment d f fun c s =>
      if c.complete || (c.parity.find h.index).isSome || 16384 ≤ (s.die d).poolUsed then s
      else (s.updCtx d h.src h.msgid fun c => { c with parity := c.parity.put h.index (fragBytes f) }).maybeComplete d h.src h.msgid)

/-- A reply reaches the die that holds its message; any other is discarded and counted (R242). -/
def State.replied (s : State) (d : Nat) (h : Hdr) (body : SentMsg → State) : State :=
  match (s.die d).kept.find? fun x => x.dst == h.src && x.msgid == h.msgid && x.pkey == h.pkey with
  | none => s.updDie d (·.countKey)
  | some x => body x

def execAckReceive (die : BitVec 2) (f : Fragment) (s : State) : Out :=
  let d := die.toNat
  .next (s.receive d f [typeAck] fun h s =>
    s.replied d h fun x =>
      let s := s.updDie d fun k => { k with kept := k.kept.filter (· != x) }
      if x.origin.isNone then s.snapMessage x.msgid true else s)

/-- The second transmission of a message; one that may not leave any more ends at once (R242). -/
def State.retransmit (s : State) (d : Nat) (x : SentMsg) : State :=
  if !s.mayLeave d x.tenant.toNat x.dst then s.loseMessage d x else
  let y := { x with retrans := true, sent := s.beat.toNat }
  (s.updDie d fun k => { k with kept := k.kept.map fun z => if z == x then y else z }).transmit d y true

def execNackReceive (die : BitVec 2) (f : Fragment) (s : State) : Out :=
  let d := die.toNat
  .next (s.receive d f [typeNack] fun h s => s.replied d h fun x => if x.retrans then s else s.retransmit d x)

/-- A LOSS from the receiver ends the message at its sender; one from the sender abandons it at its receiver. -/
def execLossReceive (die : BitVec 2) (f : Fragment) (s : State) : Out :=
  let d := die.toNat
  .next (s.receive d f [typeLoss] fun h s =>
    if h.index == 0 then s.replied d h fun x => s.loseMessage d x
    else if s.tenantKey d h.tenant == 0 || h.pkey != s.tenantKey d h.tenant then s.updDie d (·.countKey)
    else if (s.die d).late_ h.src h.msgid then s.updDie d (·.countLate)
    else (s.updDie d (·.seen h.src h.msgid)).abandonMsg d h false)

/-! ### Deadlines (R245) -/

/-- An open message of a die whose deadline, `n` times, has passed. -/
def State.overdue (s : State) (d n : Nat) (src : BitVec 16) (id : BitVec 32) (body : RecvCtx → State) : State :=
  match s.ctx d src id with
  | none => s
  | some c => if s.dieUp d && !c.complete && c.opened + n * c.dl ≤ s.beat.toNat then body c else s

def execRecvNackDeadline (die : BitVec 2) (src : BitVec 16) (id : BitVec 32) (s : State) : Out :=
  let d := die.toNat
  .next (s.overdue d 1 src id fun c =>
    if c.nacked then s
    else (s.updCtx d src id fun c => { c with nacked := true }).reply d (hdrOf c.hdr) typeNack)

def execRecvAbandonDeadline (die : BitVec 2) (src : BitVec 16) (id : BitVec 32) (s : State) : Out :=
  let d := die.toNat
  .next (s.overdue d 2 src id fun c => s.abandonMsg d (hdrOf c.hdr) true)

/-- A kept message of a die whose time since its transmission has passed. -/
def State.unanswered (s : State) (d : Nat) (id : BitVec 32) (retrans : Bool) (body : SentMsg → State) : State :=
  match (s.die d).kept.find? (·.msgid == id) with
  | none => s
  | some x => if s.dieUp d && x.retrans == retrans && x.sent + 2 * x.dl ≤ s.beat.toNat then body x else s

def execSendRetransmitTimeout (die : BitVec 2) (id : BitVec 32) (s : State) : Out :=
  .next (s.unanswered die.toNat id false fun x => s.retransmit die.toNat x)
def execSendLossTimeout (die : BitVec 2) (id : BitVec 32) (s : State) : Out :=
  .next (s.unanswered die.toNat id true fun x => s.loseMessage die.toNat x)

/-! ### Table swap (R243) -/

def execRouteSwap (die : BitVec 2) (s : State) : Out :=
  let x := s.die die.toNat
  if x.rtst == 1 && x.rtswap.toNat ≤ s.beat.toNat then
    .next (s.updDie die.toNat fun x => { x with route := x.routeShadow, fpk := x.fpkShadow, rtst := 2 })
  else .next s

/-! ### Ports (R244) -/

/-- A port changes state: what queued on a lost port is lost, and a notice is due. Every choice that names the port is pruned with it. -/
def State.portChange (s : State) (p : Nat) (up : Bool) : State :=
  if s.mod.portsUp.getLsbD p == up then s
  else
    let bit := BitVec.ofNat 32 (2 ^ p)
    let s := if up then s else s.depart
    let n : Notice := ⟨s.mod.noticeSeq + 1, s.beat.toNat, up, p, (s.die (p / 8)).fabid⟩
    let s := s.updMod fun m => { m with portsUp := if up then m.portsUp ||| bit else m.portsUp &&& ~~~bit
                                        noticeSeq := m.noticeSeq + 1, notices := m.notices ++ [n] }
    if up then s else
      { s with dies := s.dies.map fun (i, d) => (i, { d with egress := d.egress.filter fun e => e.1 != p }) }

def execPortDown (port : BitVec 5) (s : State) : Out := .next (s.portChange port.toNat false)

/-- A port of a die that is not up, or not retrained yet (R231), stays down. -/
def execPortUp (port : BitVec 5) (s : State) : Out :=
  let d := port.toNat / 8
  .next (if s.dieUp d || s.present d && (s.die d).phase == 5 then s.portChange port.toNat true else s)

def Notice.bytes (n : Notice) (pod : Nat) : List Nat :=
  bytesOf 8 n.seq ++ bytesOf 8 n.beat ++ [if n.up then 2 else 1, n.port] ++ bytesOf 2 n.fabid.toNat ++ bytesOf 2 pod ++
    List.replicate 10 0

/-- The oldest notice is written to the notice ring of tenant 0, or not at all where the ring is full; while the ring is not enabled
or its slot not writable it waits. -/
def execPortNotice (s : State) : Out :=
  let m := s.mod
  match m.notices with
  | [] => .next s
  | n :: r =>
    if !cfgEn m.fnqcfg then .next s
    else if 2 ^ cfgSize m.fnqcfg ≤ (m.fnqtail + 2 ^ 32 - m.fnqhead) % 2 ^ 32 then
      .next (s.updMod fun m => { m with notices := r })
    else .next (s.writeThen (s.hwWho 0) (cfgSlot m.fnqcfg 32 m.fnqtail) (n.bytes m.podModule.toNat) s fun s =>
      (s.updMod fun m => { m with notices := r, fnqtail := (m.fnqtail + 1) % 2 ^ 32 }).hwPost s.hwDie 0 2 m.fnqsig 1)

/-! ### Links (R17, R19) -/

/-- A pair of dies, the lower first. -/
def linkPair (d e : BitVec 2) : BitVec 2 × BitVec 2 := if d.toNat < e.toNat then (d, e) else (e, d)

def execUcieLinkDown (d e : BitVec 2) (s : State) : Out :=
  let p := linkPair d e
  if d == e || s.mod.linkDown.contains p then .next s
  else .next (s.updMod fun m => { m with linkDown := m.linkDown ++ [p] })

def execUcieLinkUp (d e : BitVec 2) (s : State) : Out :=
  .next (s.updMod fun m => { m with linkDown := m.linkDown.filter (· != linkPair d e) })

def State.setEdzan (s : State) (port down : Bool) : State :=
  s.updMod fun m => if port then { m with edzanDown1 := down } else { m with edzanDown0 := down }

def execEdzanPortDown (port : Bool) (s : State) : Out := .next (s.setEdzan port true)
def execEdzanPortUp (port : Bool) (s : State) : Out := .next (s.setEdzan port false)

end Sys2Proof.Machine
end

