-- ==== Sys2Proof/Machine/Coll.lean ====
section
/-! DEFINITION. The collective engine: COLL, one stripe at a time (R248, R249, R311-R314). -/

namespace Sys2Proof.Machine

/-- Messages of a record that have not ended. -/
def State.outstanding (s : State) (core seq : Nat) : Bool :=
  (s.die (dieOf core)).kept.any fun m => m.origin.any fun o => o.1.toNat == core && o.2.1 == seq

/-! ### Sending a stripe -/

/-- The message of the stripe to a rank: its id is kept for a restart. One that may not leave is an unrecoverable loss. -/
def State.sendStripe (s : State) (core n : Nat) (v : Vec) (c : CollRun) (data : List Nat) (rank : Nat) (dst : BitVec 16) (area : Nat) :
    State :=
  let d := dieOf core
  let t := s.tenantOf core
  let (id, s) := match c.ids.find? (·.1 == rank) with
    | some (_, id) => (id, s)
    | none => s.nextMsgid d
  let s := s.updColl core n fun c => { c with ids := (c.ids.filter (·.1 != rank)) ++ [(rank, id)] }
  let x : SentMsg :=
    { msgid := id, src := (s.die d).fabid, dst := dst, pkey := s.tenantKey d t, tenant := BitVec.ofNat 6 t,
      corr := BitVec.ofNat 32 (cmdCorr v), va := BitVec.ofNat 64 (coPlace v area (coRank v) + c.base),
      cls := BitVec.ofNat 6 (coClass v + 8 * coChan v + (if cmdFlag v 6 then 32 else 0)), data := data,
      m := s.rateM d (coClass v), dl := s.rateDl d (coClass v), sent := s.beat.toNat, retrans := false,
      origin := some (BitVec.ofNat 8 core, n, rank) }
  if !s.mayLeave d t dst then s.loseMessage d x
  else if c.ids.any (·.1 == rank) && !((s.die d).kept.any (·.msgid == id)) then s.transmit d x false
  else s.sendMsg d x

/-- Every message of the stripe is sent, again where the stripe restarts (R248). -/
def State.sendStripes (s : State) (core n : Nat) (v : Vec) (c : CollRun) (data : List Nat) : List Nat → Access State
  | [] => .ok s
  | q :: r =>
    (s.groupEntry core v q).bind fun (dst, area) => (s.sendStripe core n v c data q dst area).sendStripes core n v c data r

/-- The bytes of this rank's contribution that a stripe carries. -/
def State.stripeData (s : State) (core : Nat) (v : Vec) (c : CollRun) : Access (List Nat) :=
  if (coSends v).isEmpty || coSize v == 0 then .ok []
  else s.engineRead (s.who core) (coSrc v + c.base) (min c.stripe (coSize v - c.base))

/-- The last stripe: the result is written. -/
def State.writeResult (s : State) (core n : Nat) (v : Vec) (area : Nat) : State :=
  match s.collResult core v area with
  | .fault f => s.faultAccess core .g n f .read
  | .wait => s
  | .miss va => s.noteMiss core va
  | .ok (o, fl, k) =>
    match s.engineTargets (s.who core) false (if o.isEmpty then [] else [(coDst v, o)]) with
    | .fault f => s.faultAccess core .g n f .write
    | .wait => s
    | .miss va => s.noteMiss core va
    | .ok ts => (s.writeTargets ts).updRec core .g n fun x =>
        { x with performed := true, pend := k, st := { x.st with fpfl := x.st.fpfl ||| fl } }

/-! ### COLL -/

/-- The stripe after the mark: a fresh one, cut by the `kmax` of its beginning (R238, R248), or the one under way. -/
def State.collStripe (s : State) (core n : Nat) (r : Rec) : State :=
  let stripe := s.rateKmax (dieOf core) (coClass r.cmd) * 512
  match r.coll with
  | none => s.updRec core .g n fun x =>
      { x with coll := some { stripeNo := 0, ids := [], out := false, pos := [], since := s.beat.toNat, error := 0, lostRank := 0,
                              base := 0, stripe := stripe, closed := false } }
  | some c =>
    if c.stripeNo == r.st.mark then s
    else s.updColl core n fun c =>
      { c with stripeNo := r.st.mark, ids := [], out := false, since := s.beat.toNat, base := c.base + c.stripe, stripe := stripe }

/-- One pass of the engine over its record. -/
def State.collPass (s : State) (core n : Nat) (v : Vec) (c : CollRun) : State :=
  if c.error != 0 then (if s.outstanding core n || c.closed then s else s.updColl core n fun c => { c with closed := true })
  else match (s.groupEntry core v (coRank v)).bind fun g => (s.stripeData core v c).map fun d => (g.2, d) with
    | .fault f => s.faultAccess core .g n f .read
    | .wait => s
    | .miss va => s.noteMiss core va
    | .ok (area, data) =>
      match if c.out then .ok s else (s.updColl core n fun c => { c with out := true }).sendStripes core n v c data (coSends v) with
      | .fault f => s.faultAccess core .g n f .read
      | .wait => s
      | .miss va => s.noteMiss core va
      | .ok s =>
        let s := s.absorb core n v area (coNeeds v)
        match (s.recOf core .g n).bind (·.coll) with
        | none => s
        | some c =>
          if c.error != 0 || !(c.missing v).isEmpty || s.outstanding core n then s
          else if c.last v then s.writeResult core n v area
          else s.updRec core .g n fun x => { x with performed := true }

def execColl (core : BitVec 8) (s : State) : Out :=
  let c := core.toNat
  .next (s.running c .g kColl fun n r =>
    let s := s.collStripe c n r
    match (s.recOf c .g n).bind (·.coll) with
    | none => s
    | some x => s.collPass c n r.cmd x)

/-! ### COLL_TIMEOUT (R249) -/

/-- Before a gang's first COLL has completed, the gates of its other members may not have opened yet: whether they have is a free
value (DESIGN CHOICE, log 18). -/
def State.gangHeld (s : State) (core : Nat) : Bool × State :=
  if (s.core core).job.any fun j => j.gang && !j.joined then
    let (v, s) := s.draw
    (v % 2 == 0, s)
  else (false, s)

/-- What has arrived is taken note of before a rank is missed. -/
def State.collArrived (s : State) (core n : Nat) (v : Vec) : State :=
  match s.groupEntry core v (coRank v) with
  | .ok (_, area) => s.absorb core n v area (coNeeds v)
  | _ => s

def execCollTimeout (core : BitVec 8) (s : State) : Out :=
  let c := core.toNat
  let lim := (s.die (dieOf c)).colltmo
  .next (s.running c .g kColl fun n r =>
    let s := s.collArrived c n r.cmd
    match (s.recOf c .g n).bind (·.coll) with
    | none => s
    | some x =>
      let miss := x.missing r.cmd
      if lim == 0 || x.error != 0 || s.beat.toNat < x.since + lim || miss.isEmpty then s
      else
        let (held, s) := s.gangHeld c
        if held then s else s.collError c n 3 (miss.headD 0))

end Sys2Proof.Machine
end

