-- ==== Sys2Proof/Machine/Launch.lean ====
section
/-! DEFINITION. Launching and scheduling (R34, R38, R58, R85, R86, R117, R196-R205), pre-emption and restore (R219-R221). -/

namespace Sys2Proof.Machine

/-! ### The launch record (R198) -/

def lrImage (b : List Nat) : Nat := fieldOf b 0 8
def lrArgs (b : List Nat) : Nat := fieldOf b 8 8
def lrMaskp (b : List Nat) : Nat := fieldOf b 16 8
def lrDone (b : List Nat) : BitVec 32 := BitVec.ofNat 32 (fieldOf b 56 4)
def lrResume (b : List Nat) : Bool := (b.getD 63 0).testBit 0
def lrGangBeat (b : List Nat) : Nat := fieldOf b 40 8
def lrGangId (b : List Nat) : BitVec 32 := BitVec.ofNat 32 (fieldOf b 48 4)
def lrGangN (b : List Nat) : Nat := fieldOf b 52 2

/-- Code 1 of R199. -/
def lrBad (b : List Nat) : Bool :=
  (lrCtl b).testBit 7 || bitsOf (b.getD 63 0) 2 6 != 0 || (lrGang b && fieldOf b 54 2 != 0) || lrImage b % 32 != 0 ||
    lrMaskp b % 32 != 0

/-! ### The loop table (R37, R38) -/

def loopRowOf (b : List Nat) : LoopRow :=
  let st := b.getD 2 0
  { kind := b.getD 0 0, mark := (b.getD 1 0).testBit 0, nonrestart := (b.getD 1 0).testBit 1, stages := if st == 0 then 1 else st,
    idx := b.getD 3 0 % 4, trips := fieldOf b 4 4, live := BitVec.ofNat 64 (fieldOf b 8 8) }

/-- The rows of a table of 256 bytes. -/
def rowsOf (b : List Nat) : List (List Nat) := (List.range 16).map fun i => (b.drop (16 * i)).take 16

/-- A reserved kind or a non-zero reserved bit. -/
def rowReserved (b : List Nat) : Bool :=
  3 < b.getD 0 0 || bitsOf (b.getD 1 0) 2 6 != 0 || bitsOf (b.getD 3 0) 2 6 != 0 || (b.getD 0 0 == 1 && b.getD 3 0 != 0)

def LoopRow.spatial (r : LoopRow) : Bool := r.kind == 2 || r.kind == 3

/-- A spatial row at a higher id than a temporal one. -/
def spatialAfter : Bool → List LoopRow → Bool
  | _, [] => false
  | seen, r :: t => (seen && r.spatial) || spatialAfter (seen || r.kind == 1) t

def noRepeat : List Nat → Bool
  | [] => true
  | a :: t => !t.contains a && noRepeat t

/-- The checks of R38. -/
def loopsOk (b : List Nat) : Bool :=
  let rs := (rowsOf b).map loopRowOf
  let sp := rs.filter (·.spatial)
  !(rowsOf b).any rowReserved && (rs.filter (·.kind == 3)).length ≤ 1 && (rs.filter (·.kind == 2)).length ≤ 3 &&
    noRepeat (sp.map (·.idx)) && sp.all (·.trips != 0) && !spatialAfter false rs

/-! ### The image (R58) -/

/-- Tables of a descriptor: offset and length. -/
def imageTables (d : List Nat) : List (Nat × Nat) :=
  [(fieldOf d 4 4, 32 * fieldOf d 8 4), (fieldOf d 12 4, 256), (fieldOf d 16 4, 4 * d.getD 20 0), (fieldOf d 24 4, 8 * d.getD 21 0),
   (fieldOf d 28 4, fieldOf d 32 4)]

/-- Code 3 of R199: a table lies behind the descriptor and inside the virtual space (DEDUCED, log 31). The manual names no step for
`bank_count` > 64 or `ring_count` > 16, which fail here with code 3; reserved descriptor bytes that are not zero and tables that are not
aligned to 32 bytes are accepted (DESIGN CHOICE, log 82). -/
def descriptorOk (image : Nat) (d : List Nat) : Bool :=
  fieldOf d 0 4 == 1 && d.getD 20 0 ≤ 64 && d.getD 21 0 ≤ 16 && fieldOf d 4 4 % 32 == 0 &&
    (imageTables d).all fun t => t.2 == 0 || (64 ≤ t.1 && image + t.1 + t.2 ≤ 2 ^ 57)

def bankEntries (b : List Nat) (n : Nat) : List (List Nat) := (List.range n).map fun i => (b.drop (4 * i)).take 4
/-- What code 6 asks of a bank-table entry: a format that is not reserved (R85); that the other fields of R58 are in range is asked here
too, as the manual names no step for them (DESIGN CHOICE, log 82). -/
def bankEntryOk (e : List Nat) : Bool := e.getD 0 0 ≤ 63 && e.getD 1 0 ≤ 3 && bankFmtOk (e.getD 2 0) && e.getD 3 0 == 0
def ringEntries (b : List Nat) (n : Nat) : List (Nat × Nat × Nat × Nat) :=
  (List.range n).map fun i =>
    let e := b.drop (8 * i)
    (e.getD 0 0, e.getD 1 0, fieldOf e 2 2, fieldOf e 4 4)

/-- Limits of a buffer ring (R56, R117); an entry outside them is a bad descriptor, code 3, as the manual names no step for it (DESIGN
CHOICE, log 82). -/
def ringEntryOk (r : Nat × Nat × Nat × Nat) : Bool :=
  r.1 ≤ 15 && 1 ≤ r.2.1 && r.2.1 ≤ 16 && r.2.2.2 % 256 == 0 && r.2.2.2 + r.2.1 * r.2.2.1 * 256 ≤ 2 ^ 21

/-! ### Reading a launch: codes 2-6, 8, 10 and 13 (R199) -/

/-- Cores of present dies in a mask (R23). -/
def State.maskCores (s : State) (m : BitVec 256) : List Nat :=
  (List.range 256).filter fun c => m.getLsbD c && s.present (dieOf c)

/-- The job of an instance as far as the reading of code needs it. -/
def launchJob (t level q n : Nat) (b : List Nat) (x : Launch) : Job :=
  { tenant := BitVec.ofNat 6 t, level := BitVec.ofNat 2 level, queue := q, record := n, inst := 0,
    image := BitVec.ofNat 64 (lrImage b), args := BitVec.ofNat 64 (lrArgs b), idx := Vector.replicate 4 0, done := lrDone b,
    prio := lrPrio b, preemptible := (lrCtl b).testBit 3, det := (lrCtl b).testBit 4, hostEntry := (lrCtl b).testBit 5,
    gang := lrGang b, gateOpen := !lrGang b, joined := false, mask := x.mask, loops := x.loops, placed := 0, start := 0,
    banksDue := [] }

/-- The entry lanes of the three streams (R34); they are sought as the job fetches its code, with nothing buffered. Where the search leads
into a window the job starts there, and takes the window fault as it fetches (R97). -/
def State.entryLanes (s : State) (core : Nat) (j : Job) (line : Nat) : Except Nat (List Pc) :=
  let s := s.setCore core { CoreState.reset with job := some j }
  [Lane.c, .a, .x].foldr (init := .ok []) fun l r =>
    match r with
    | .error c => .error c
    | .ok ps =>
      match s.searchLane core l lineFuel line 1 with
      | .lane ln i => .ok (⟨BitVec.ofNat 64 ln, BitVec.ofNat 3 i, false⟩ :: ps)
      | .past => .error 8
      | .fault f => if f.cause == causeWindow then .ok (⟨BitVec.ofNat 64 (f.addr / 32 * 32), 1, false⟩ :: ps) else .error 2

/-- Reads an image, or says which step fails. Where several would, the manual does not say which is reported: the codes are tried in the
order 3, 4, 2, 3 for the rings, 5, 6, 10, and 2 or 8 for the code (DESIGN CHOICE, log 82). -/
def State.readImage (s : State) (t q n : Nat) (b d mask : List Nat) : Except Nat Launch :=
  let w := s.hwWho t
  let image := lrImage b
  if !descriptorOk image d then .error 3
  else if d.getD 22 0 != 0xFF && d.getD 22 0 != t then .error 4
  else match s.readVa w (image + fieldOf d 12 4) 256, s.readVa w (image + fieldOf d 16 4) (4 * d.getD 20 0),
      s.readVa w (image + fieldOf d 24 4) (8 * d.getD 21 0) with
    | .ok lt, .ok bt, .ok rt =>
      let m := BitVec.ofNat 256 (ofBytes mask)
      let cores := s.maskCores m
      let x : Launch :=
        { bytes := b, mask := m, code := BitVec.ofNat 64 (image + fieldOf d 4 4), loops := (rowsOf lt).map loopRowOf,
          banks := (bankEntries bt (d.getD 20 0)).map fun e => (e.getD 0 0, e.getD 1 0, e.getD 2 0),
          rings := ringEntries rt (d.getD 21 0), starts := [] }
      if !(x.rings.all ringEntryOk) then .error 3
      else if !loopsOk lt then .error 5
      else if !(bankEntries bt (d.getD 20 0)).all bankEntryOk then .error 6
      else match cores with
        | [] => .error 10
        | _ :: _ =>
          match s.entryLanes w.core (launchJob t (s.launchLevel t q) q n b x) x.code.toNat with
          | .error e => .error e
          | .ok ps => .ok { x with starts := ps }
    | _, _, _ => .error 2

/-- The kept resume state of a launch (R204). -/
def State.keptUnder (s : State) (t : Nat) (done : BitVec 32) : Option Kept :=
  s.mod.keptStates.find? fun k => k.tenant.toNat == t && k.done == done

/-- What launching a ready record finds. -/
def State.readLaunch (s : State) (t q n : Nat) (b : List Nat) : Except Nat Launch :=
  match (s.progress t q n).launch with
  | some x => .ok x
  | none =>
    if lrResume b && (s.keptUnder t (lrDone b)).isNone then .error 13
    else match s.readVa (s.hwWho t) (lrImage b) 64, s.readVa (s.hwWho t) (lrMaskp b) 32 with
      | .ok d, .ok m => s.readImage t q n b d m
      | _, _ => .error 2

/-! ### Instances (R38) -/

/-- Trip counts of the spatial levels, outermost first, with the index register of each and whether it is over dies. -/
def Launch.levels (x : Launch) : List (Nat × Nat × Bool) :=
  (x.loops.filter (·.spatial)).map fun r => (r.trips, r.idx, r.kind == 3)

def product (l : List Nat) : Nat := l.foldr (· * ·) 1
def Launch.total (x : Launch) : Nat := product (x.levels.map (·.1))

/-- The iteration of each level for an instance, the outermost varying slowest: index register, iteration, over dies. -/
def digits : List (Nat × Nat × Bool) → Nat → List (Nat × Nat × Bool)
  | [], _ => []
  | (_, i, d) :: r, n => let p := product (r.map (·.1)); (i, n / p, d) :: digits r (n % p)

/-- The index registers of an instance. -/
def Launch.indices (x : Launch) (inst : Nat) : Vector Word 4 :=
  (digits x.levels inst).foldl (init := Vector.replicate 4 0) fun v d =>
    v.set (d.1 % 4) (BitVec.ofNat 64 d.2.1) (Nat.mod_lt _ (by decide))

/-- The dies of the mask's cores, ascending. -/
def State.maskDies (s : State) (m : BitVec 256) : List Nat :=
  [0, 1, 2, 3].filter fun d => (s.maskCores m).any fun c => dieOf c == d

/-- The die of an instance, where a level is spread over dies. -/
def State.instDie (s : State) (x : Launch) (inst : Nat) : Option Nat :=
  ((digits x.levels inst).find? (·.2.2)).bind fun d =>
    let ds := s.maskDies x.mask
    ds[d.2.1 % ds.length]?

/-- The first instance from `i` on with a property; the fuel is the number of instances left. -/
def firstInst (ok : Nat → Bool) : Nat → Nat → Option Nat
  | 0, _ => none
  | f + 1, i => if ok i then some i else firstInst ok f (i + 1)

/-! ### Cores (R201, R220) -/

/-- A free core: no job, placeable, its die up. -/
def State.freeCore (s : State) (c : Nat) : Bool :=
  let k := s.core c
  k.job.isNone && !k.offline && !k.awaitingHost && s.dieUp (dieOf c)

/-- What restoring a context asks of a core beside being free (R220): its die and core-in-cluster number, and that the cluster has
the saved accumulator banks and ring ids free. -/
def State.fits (s : State) (x : Saved) (c : Nat) : Bool :=
  let cl := s.cluster (clusterOf c)
  dieOf c == dieOf x.core.toNat && coreIn c == coreIn x.core.toNat &&
    x.acc.all (fun b => !(cl.accb b.1).alloc) && x.brings.all fun r => !(cl.ring r.1).valid

/-- Cores of a saved job's mask on which it may be restored, free or not. -/
def State.savedCores (s : State) (x : Saved) : List Nat :=
  match x.ctx.job with
  | none => []
  | some j => (s.maskCores j.mask).filter fun c => dieOf c == dieOf x.core.toNat && coreIn c == coreIn x.core.toNat

/-- The kept context of an instance of a launch that resumes (R204). -/
def State.keptCtx (s : State) (t : Nat) (x : Launch) (inst : Nat) : Option Saved :=
  if lrResume x.bytes then (s.keptUnder t (lrDone x.bytes)).bind fun k => k.ctxs.find inst else none

/-- Instances that are not to be placed, or have been. -/
def State.instGone (s : State) (t q n : Nat) (x : Launch) (inst : Nat) : Bool :=
  (s.progress t q n).placed.contains inst ||
    (lrResume x.bytes && (s.keptUnder t (lrDone x.bytes)).any fun k => k.completed.contains inst)

/-- Cores of the mask that may hold an instance, free or not. -/
def State.instCores (s : State) (t : Nat) (x : Launch) (inst : Nat) : List Nat :=
  (s.maskCores x.mask).filter fun c =>
    (s.instDie x inst).all (· == dieOf c) &&
      (s.keptCtx t x inst).all fun k => dieOf c == dieOf k.core.toNat && coreIn c == coreIn k.core.toNat

/-- Cores that could take an instance now. -/
def State.instFree (s : State) (t : Nat) (x : Launch) (inst : Nat) : List Nat :=
  (s.instCores t x inst).filter fun c => s.freeCore c && (s.keptCtx t x inst).all fun k => s.fits k c

/-- The core an instance would get: the lowest-numbered free one (R201). -/
def State.instCore (s : State) (t : Nat) (x : Launch) (inst : Nat) : Option Nat := (s.instFree t x inst).head?

/-- A record has an instance that a core could take. -/
def State.couldTake (s : State) (t q n : Nat) (x : Launch) (c : Nat) : Bool :=
  (firstInst (fun i => !s.instGone t q n x i && (s.instFree t x i).contains c) x.total 0).isSome

/-- The first instance that can be placed. -/
def State.nextInst (s : State) (t q n : Nat) (x : Launch) : Option (Nat × Nat) :=
  (firstInst (fun i => !s.instGone t q n x i && (s.instCore t x i).isSome) x.total 0).bind fun i =>
    (s.instCore t x i).map fun c => (i, c)

/-! ### The choice (R200, R202, R203) -/

/-- A candidate for a core: effective priority, whether waiters need what it holds, core-beats used and weight of its tenant, and the
places that break ties. -/
structure Cand where
  prio : Nat
  holder : Bool
  used : Nat
  weight : Nat
  tenant : Nat
  queue : Nat
  age : Nat
  deriving DecidableEq, Repr

/-- `a` comes before `b`. -/
def Cand.before (a b : Cand) : Bool :=
  if a.prio != b.prio then b.prio < a.prio
  else if a.holder != b.holder then a.holder
  else if a.used * b.weight != b.used * a.weight then a.used * b.weight < b.used * a.weight
  else if a.tenant != b.tenant then a.tenant < b.tenant
  else if a.queue != b.queue then a.queue < b.queue
  else a.age < b.age

/-- Core-beats that a tenant used in the last 4,000,000 beats (R200). -/
def State.coreBeats (s : State) (t : Nat) : Nat :=
  let now := s.beat.toNat
  let len (a b : Nat) : Nat := b - max a (now - 4000000)
  let ended : List Nat := (s.tenant t).runs.map fun r => len r.1 r.2
  let running : List Nat := s.cores.map fun (_, k) =>
    match k.job with
    | some j => if j.tenant.toNat == t then len j.start now else 0
    | none => 0
  (ended ++ running).foldl (· + ·) 0

def State.weight (s : State) (t : Nat) : Nat := if (s.tenant t).tshare == 0 then 1 else (s.tenant t).tshare

/-- Levels of aging. -/
def State.aging (s : State) (since : Nat) : Nat := min 7 ((s.beat.toNat - since) / 40000)

/-- Position of a record in its queue, taken ones included. -/
def State.recAge (s : State) (t q n : Nat) : Nat := (n + 2 ^ 31 + 2 ^ 32 - ((s.tenant t).lq q).head) % 2 ^ 32

/-- The greatest priority that a job on a core has by inheritance, not less than its launch priority (R193). -/
def State.corePrio (s : State) (c : Nat) : Nat :=
  max (((s.core c).job.map (·.prio)).getD 0) (s.boost c)

/-- Inherited priority of the running instances of a record. -/
def State.runningPrio (s : State) (t q n : Nat) : Nat :=
  s.cores.foldl (init := 0) fun p (c, k) =>
    if k.job.any fun j => j.tenant.toNat == t && j.queue == q && j.record == n then max p (s.corePrio c) else p

/-- A ready launch record as a candidate. -/
def State.launchCand (s : State) (t q n : Nat) (b : List Nat) : Cand :=
  let since := ((s.progress t q n).since).getD s.beat.toNat
  { prio := max (lrPrio b + s.aging since) (s.runningPrio t q n), holder := false, used := s.coreBeats t, weight := s.weight t,
    tenant := t, queue := q, age := s.recAge t q n }

/-- Edges on what the streams of a saved job hold. -/
def State.savedEdges (s : State) (id : Nat) : List Edge :=
  s.edges.filter fun e => (s.holders e).any fun w => 1024 ≤ w && (w - 1024) / 4 == id

def State.savedBoost (s : State) (id : Nat) : Nat := (s.savedEdges id).foldl (fun p e => max p (s.waiterPrio e)) 0

/-- A saved job as a candidate. -/
def State.savedCand (s : State) (x : Saved) : Cand :=
  match x.ctx.job with
  | none => ⟨0, false, 0, 1, 0, 0, 0⟩
  | some j =>
    let t := j.tenant.toNat
    { prio := max (j.prio + s.aging x.since) (s.savedBoost x.id), holder := !(s.savedEdges x.id).isEmpty, used := s.coreBeats t,
      weight := s.weight t, tenant := t, queue := j.queue, age := s.recAge t j.queue j.record }

/-- The readiness pairs of a record are satisfied, or have let an instance be placed. -/
def State.stillReady (s : State) (t q n : Nat) (b : List Nat) : Bool :=
  !(s.progress t q n).placed.isEmpty || s.pairsReady t (s.launchLevel t q) (lrPairs b) == some true

/-- Ready records that the schedulers consider, with what launching them finds. -/
def State.readyRecords (s : State) : List (Nat × Nat × Nat × Launch) :=
  s.tenants.flatMap fun (t, x) => x.lqs.flatMap fun (q, l) => l.considered.filterMap fun n =>
    if (l.at n).since.isNone then none
    else match s.launchBytes t q n with
      | .error _ => none
      | .ok b =>
        if lrBad b || !s.stillReady t q n b then none
        else match s.readLaunch t q n b with
          | .ok x => some (t, q, n, x)
          | .error _ => none

/-- The candidates that a free core could go to. -/
def State.candidates (s : State) (c : Nat) : List Cand :=
  ((s.readyRecords.filter fun (t, q, n, x) => s.couldTake t q n x c).map fun (t, q, n, x) => s.launchCand t q n x.bytes) ++
    (s.mod.saved.filter fun x => (s.savedCores x).contains c && s.fits x c).map s.savedCand

/-- No candidate for the core comes before this one. -/
def State.chosen (s : State) (c : Nat) (a : Cand) : Bool := !(s.candidates c).any fun b => b.before a

/-! ### Placing an instance (R34, R58, R86, R117) -/

/-- A ring that the image lists is valid for another core (R117, code 7). -/
def State.ringInUse (s : State) (c : Nat) (x : Launch) : Bool :=
  x.rings.any fun r =>
    let g := (s.cluster (clusterOf c)).ring r.1
    g.valid && g.owner.toNat != coreIn c

/-- The home group takes the tenant's tag: a bank whose tag changes is zeroed and set `OFF`, and keeps its format (R84, R86). -/
def State.tagBank (s : State) (cl t b : Nat) : State :=
  if ((s.cluster cl).bank b).tenant.toNat == t then s
  else (s.wipeBank cl b).updBank cl b fun x => { x with tenant := BitVec.ofNat 6 t }

/-- A bank-table entry's format is written, unless the bank is another tenant's: such an entry is skipped at every level (R58). -/
def State.launchFormat (s : State) (cl t : Nat) (e : Nat × Nat × Nat) : State :=
  if ((s.cluster cl).bank e.1).tenant.toNat != t then s else s.updBank cl e.1 fun b => { b with fmt := BitVec.ofNat 4 e.2.2 }

/-- The modes that a launch is to write, as BANKM writes them (R58, R88). -/
def State.launchModes (s : State) (cl t : Nat) (x : Launch) : List (Nat × Nat) :=
  (x.banks.filter fun e => ((s.cluster cl).bank e.1).tenant.toNat == t).map fun e => (e.1, e.2.1)

def launchRing (c : Nat) (r : Nat × Nat × Nat × Nat) : Bring :=
  { Bring.reset with valid := true, owner := BitVec.ofNat 2 (coreIn c), count := r.2.1, stride := r.2.2.1, base := r.2.2.2 / 256 }

/-- A core that keeps what outlives jobs takes a context. -/
def CoreState.onto (k old : CoreState) : CoreState :=
  { k with offline := old.offline, resets := old.resets, tlb := old.tlb, resetting := old.resetting, halt := none,
           awaitingHost := false }

/-- A stream of a fresh job at its entry lane, its initial mark committed (R34, R44). -/
def startStream (pc : Pc) : StreamState :=
  let t := { StreamState.reset with pc := pc }
  { t with mark := some (t.markOf 0) }

/-- THE JOB STARTS. -/
def State.startJob (s : State) (c : Nat) (j : Job) (x : Launch) : State :=
  let cl := clusterOf c
  let t := j.tenant.toNat
  let s := (homeBanks c).foldl (fun s b => s.tagBank cl t b) s
  let s := x.banks.foldl (fun s e => s.launchFormat cl t e) s
  let s := x.rings.foldl (fun s r => s.updCluster cl fun k => { k with brings := k.brings.put r.1 (launchRing c r) }) s
  let s := s.updCluster cl fun k => { k with matrix := k.matrix.clear (coreIn c) }
  let at_ (i : Nat) : StreamState := { startStream (x.starts.getD i Pc.zero) with since := s.tick.toNat }
  let j := { j with banksDue := s.launchModes cl t x }
  (s.updCore c fun old =>
    { CoreState.reset with job := some j, c := at_ 0, a := at_ 1, x := at_ 2, lastChange := s.tick.toNat, xTick := s.fine }.onto old).settleBanks c

/-- The job of an instance placed now. -/
def State.instJob (s : State) (t q n inst : Nat) (x : Launch) : Job :=
  { launchJob t (s.launchLevel t q) q n x.bytes x with
    inst := inst, idx := x.indices inst, placed := s.steps, start := s.beat.toNat }

/-! ### Contexts written back (R219, R220) -/

/-- The saved bytes of banks return to a cluster. -/
def State.putBack (s : State) (x : Saved) (c : Nat) : State :=
  let cl := clusterOf c
  let home := homeBanks x.core.toNat
  let mem := home.foldl (fun m b => memZero m (sramKey cl (b * 32768)) 32768) s.mem
  let mem := x.acc.foldl (fun m b => memZero m (accKey cl (b.1 * 32768)) 32768) mem
  let mem := x.mem.foldl (init := mem) fun m e =>
    if e.1 < 2 ^ 21 then memWrite m (sramKey cl e.1) e.2 else memWrite m (accKey cl (e.1 - 2 ^ 21)) e.2
  ({ s with mem := mem } : State).updCluster cl fun k =>
    { k with banks := x.banks.foldl (fun t b => t.put b.1 { b.2 with consumer := b.2.consumer.map fun _ => c }) k.banks
             acc := x.acc.foldl (fun t b => t.put b.1 b.2) k.acc
             brings := x.brings.foldl (fun t r =>
               t.put r.1 { r.2 with valid := true, owner := BitVec.ofNat 2 (coreIn c) }) k.brings
             cway := k.cway.filter fun l => !home.contains l.bank }

/-- A watch whose waiter was pre-empted holds code 2, unless an occurrence was latched before (R187). -/
def Watch.restored (w : Watch) : Watch := if w.armed && w.latch.isNone then { w with latch := some 2 } else w

/-- A stream goes on after a restore: its instruction buffer is empty. -/
def StreamState.restored (t : StreamState) (tick : Nat) : StreamState := { t with ibuf := [], since := tick }

/-- A context takes a core: the watch counts again for its die, the lease request is due again if it was, and a debugger's halt goes
on or, where it was written since the pre-emption, applies now (R271). -/
def State.takeContext (s : State) (x : Saved) (c : Nat) (j : Job) : State :=
  let s := s.putBack x c
  let n := s.tick.toNat
  let s := s.updCore c fun old =>
    { { x.ctx with job := some { j with placed := s.steps, start := s.beat.toNat }, preempting := false, lastChange := n, xTick := s.fine,
                   watch := x.ctx.watch.map Watch.restored, c := x.ctx.c.restored n, a := x.ctx.a.restored n,
                   x := x.ctx.x.restored n }.onto old with halt := x.ctx.halt }
  let s := if x.ctx.halt.isSome then s.haltNow c else s
  let s := s.settleBanks c
  let s := s.updCluster (clusterOf c) fun k =>
    if x.due then { k with lease := { k.lease with lost := k.lease.lost.put (coreIn c) 1 } } else k
  if x.ctx.watch.isSome then s.updDie (dieOf c) fun d => { d with watches := d.watches ++ [BitVec.ofNat 8 c] } else s

/-! ### LAUNCH_PLACE -/

/-- The state kept under `done` goes (R204). -/
def State.discardKept (s : State) (t : Nat) (done : BitVec 32) : State :=
  s.updMod fun m => { m with keptStates := m.keptStates.filter fun k => !(k.tenant.toNat == t && k.done == done) }

/-- A launch fails before its record is taken: a resume request's kept state goes with it. -/
def State.failLaunch (s : State) (t q n code : Nat) (b : List Nat) : State :=
  let s := s.updProgress t q n fun p => { p with ctl := lrCtl b, done := lrDone b, bytes := some b }
  let s := s.failRecord t q n code
  if lrResume b then s.discardKept t (lrDone b) else s

/-- Every instance has been placed: the record is taken. -/
def State.maybeTaken (s : State) (t q n : Nat) (x : Launch) : State :=
  if (firstInst (fun i => !s.instGone t q n x i) x.total 0).isSome then s
  else
    let s := (s.updProgress t q n fun p => { p with full := some (p.full.getD s.beat.toNat) }).takeRecord t q n
    if lrResume x.bytes then s.discardKept t (lrDone x.bytes) else s

/-- An instance goes to a core. -/
def State.placeInst (s : State) (t q n inst c : Nat) (x : Launch) : State :=
  let j := s.instJob t q n inst x
  let kept := s.keptCtx t x inst
  let s := match kept with
    | some k => s.takeContext k c j
    | none => s.startJob c j x
  let s := s.updProgress t q n fun p => { p with placed := p.placed ++ [inst], running := p.running + 1 }
  s.maybeTaken t q n x

/-- The first read of a launch that succeeds is the one its instances run by. -/
def State.adopt (s : State) (t q n : Nat) (x : Launch) : State :=
  if (s.progress t q n).launch.isSome then s
  else
    let b := x.bytes
    let done := if lrResume b then ((s.keptUnder t (lrDone b)).map (·.completed)).getD [] else []
    let s := s.updProgress t q n fun p =>
      { p with launch := some x, ctl := lrCtl b, done := lrDone b, completed := done, bytes := some b }
    if lrResume b then s else s.discardKept t (lrDone b)

/-- A ready record places one instance, where a core is free and no other candidate comes before it. -/
def State.placeReady (s : State) (t q n : Nat) (x : Launch) : State :=
  let s := s.adopt t q n x
  match s.nextInst t q n x with
  | none => s.maybeTaken t q n x
  | some (inst, c) =>
    if !s.chosen c (s.launchCand t q n x.bytes) then s
    else if s.ringInUse c x then s.failLaunch t q n 7 x.bytes
    else s.placeInst t q n inst c x

/-- The schedulers look at one record: it fails, waits, or one of its instances is placed. A record whose slot cannot be read waits (DESIGN
CHOICE, log 29). Codes 1, 9 and 13 come, in this order, before those of the image (DESIGN CHOICE, log 82). A record that has an instance
placed stays ready: code 9 is found before that. -/
def execLaunchPlace (tenant : BitVec 6) (queue : BitVec 3) (record : BitVec 32) (s : State) : Out :=
  let t := tenant.toNat
  let q := queue.toNat
  let n := record.toNat
  if !((s.tenant t).lq q).considered.contains n then .next s
  else match s.launchBytes t q n with
    | .error _ => .next s
    | .ok b =>
      if lrBad b then .next (s.failLaunch t q n 1 b)
      else if s.stillReady t q n b then
        let s := s.noteReady
        match s.readLaunch t q n b with
        | .error c => .next (s.failLaunch t q n c b)
        | .ok x => .next (s.placeReady t q n x)
      else .next (if (s.pairsReady t (s.launchLevel t q) (lrPairs b)).isNone then s.failLaunch t q n 9 b else s)

/-! ### PREEMPT (R202, R203, R219 steps 1 and 2) -/

/-- A job that may be pre-empted at all (R221). -/
def State.preemptable (s : State) (c : Nat) : Bool :=
  let k := s.core c
  k.job.isSome && k.stop.isNone && k.halt.isNone && !k.preempting && s.dieUp (dieOf c)

/-- `a` is pre-empted before `b`: lower rank, then the later placed. -/
def State.victimBefore (s : State) (a b : Nat) : Bool :=
  let placed (c : Nat) : Nat := ((s.core c).job.map (·.placed)).getD 0
  s.corePrio a < s.corePrio b || (s.corePrio a == s.corePrio b && placed b < placed a)

/-- A core is the victim, among cores, of a candidate of a launch priority (R202). -/
def State.isVictim (s : State) (c prio : Nat) (cs : List Nat) : Bool :=
  let can (x : Nat) : Bool := s.preemptable x && (s.core x).job.any (·.preemptible) && s.corePrio x < prio
  cs.contains c && can c && !cs.any fun x => x != c && can x && s.victimBefore x c

/-- A registered wait of a stream that leaves its core has been abandoned, and its edge stands (R219). -/
def State.leftParked (s : State) (c : Nat) (l : Lane) : Bool :=
  (s.core c).preempting && s.edges.any fun e =>
    e.waiter == streamId c l && e.cmd.isNone && (e.granule || (s.slot (BitVec.ofNat 32 e.obj)).obj != some .wait)

/-- The streams of the job of a core are all parked in registered waits, or have executed REND (R203). -/
def State.parked (s : State) (c : Nat) : Bool :=
  (s.core c).job.isSome && [Lane.c, .a, .x].all fun l =>
    (s.str c l).ended || (s.str c l).wait.code.1 == 5 || s.leftParked c l

/-- Every core of the holder's mask runs a parked job, stopped or halted ones with them, and this one is chosen, of those that the holder may
be restored on and that can be pre-empted, to make room (R203). -/
def State.isParkedVictim (s : State) (c : Nat) (mask cs : List Nat) : Bool :=
  mask.all s.parked && cs.contains c && s.preemptable c && !cs.any fun x => x != c && s.preemptable x && s.victimBefore x c

/-- No core of a set is free or about to be. -/
def State.allBusy (s : State) (cs : List Nat) : Bool := cs.all fun c => !s.freeCore c && !(s.core c).preempting

/-- A ready record, or a saved job, wants this core to be pre-empted. -/
def State.wanted (s : State) (c : Nat) : Bool :=
  (s.readyRecords.any fun (t, q, n, x) =>
    (firstInst (fun i => !s.instGone t q n x i && s.allBusy (s.instCores t x i) &&
      s.isVictim c (lrPrio x.bytes) (s.instCores t x i)) x.total 0).isSome) ||
  s.mod.saved.any fun x =>
    let cs := s.savedCores x
    let mask := (x.ctx.job.map fun j => s.maskCores j.mask).getD []
    let p := ((x.ctx.job.map (·.prio)).getD 0)
    let h := s.savedBoost x.id
    s.allBusy cs && (s.isVictim c (max p h) cs || (!(s.savedEdges x.id).isEmpty && s.isParkedVictim c mask cs))

/-- The gang of a core's job has been cancelled (R208). -/
def State.gangCancelled (s : State) (c : Nat) : Bool :=
  (s.core c).job.any fun j => j.gang && (s.progress j.tenant.toNat j.queue j.record).cancelled

/-- A wait that pre-emption abandons: its instruction is executed again, and its edge stays (R219), a FENCESC from its first step (R169).
An IDLE or a PAUSE ends (R335, R363). -/
def StreamState.abandon (t : StreamState) : StreamState :=
  match t.wait with
  | .mwait .. => { t with wait := .none, abandoned := true }
  | .counter .. | .lock .. | .barrier .. | .tahrHeld _ | .fencesc .. | .idle _ | .pause _ => { t with wait := .none }
  | _ => t

/-- Permits of a core's rings whose record does not run. -/
def State.returnIdlePermits (s : State) (c : Nat) : State :=
  s.updDie (dieOf c) fun d => { d with permits := d.permits.filter fun p =>
    !(p.1.toNat == c && !(((s.core c).ring p.2).head.any fun x => 7 ≤ x.st.state)) }

/-- Pre-emption begins: `gen` advances, C and A stop, no queue starts a record, and the lease run ends by event 5 of R124. -/
def State.beginPreempt (s : State) (c : Nat) : State :=
  let beat := s.beat.setWidth 32
  let s := s.returnIdlePermits c
  let s := s.updCore c fun k =>
    { k with gen := k.gen + 1, preempting := true, c := k.c.abandon, a := k.a.abandon,
             ringL := k.ringL.unstart beat, ringK := k.ringK.unstart beat, ringS := k.ringS.unstart beat,
             ringG := k.ringG.unstart beat }
  let s := s.dropEdges fun e => e.waiter / 4 == c && e.cmd.isSome
  if s.holdsLease c && !((s.core c).ringK.head.any fun r => r.st.state == 7) then s.endLeaseRun (clusterOf c) else s

def execPreempt (core : BitVec 8) (s : State) : Out :=
  let c := core.toNat
  if s.preemptable c && (s.wanted c || s.gangCancelled c) then .next (s.beginPreempt c) else .next s

/-! ### PREEMPT_SAVE (R219 steps 3 to 6) -/

/-- Nothing of a leaving core is in progress: no record runs, and no post is on its way. -/
def State.atBoundary (s : State) (c : Nat) : Bool :=
  let k := s.core c
  [k.ringL, k.ringK, k.ringS, k.ringG].all (fun r =>
    r.slots.all fun (_, x) => !(x.st.state == 7 || x.posted)) && [Lane.c, .a, .x].all fun l => !s.hasPosts c l

/-- The home group goes `OFF`. -/
def State.homeOff (s : State) (c : Nat) : State :=
  (homeBanks c).foldl (init := s) fun s b =>
    let x := (s.cluster (clusterOf c)).bank b
    if x.mode == 0 then s else (s.againBankm (clusterOf c) b).setMode (clusterOf c) b x.mode 0

/-- The context is saved and the core freed. -/
def State.saveJob (s : State) (c : Nat) (j : Job) : State :=
  let s := ((s.dropBankm c).dropAudits c).updStr c .x StreamState.abandon
  let id := s.mod.savedCount
  let x := s.capture c id true
  let x := { x with ctx := { x.ctx with preempting := false } }
  let s := s.moveArrivals c (256 + id)
  let s := s.updMod fun m => { m with saved := m.saved ++ [x], savedCount := id + 1 }
  let s := s.updCluster (clusterOf c) fun k =>
    { (k.freeAcc c).freeRings c with lease := ((k.freeAcc c).freeRings c).lease.leave c }
  let s := (s.homeOff c).returnPermits c
  let s := [Lane.c, .a, .x].foldl (fun s l => s.renameStream (streamId c l) (savedStream id l)) s
  let s := s.updDie (dieOf c) fun d => { d with watches := d.watches.filter (·.toNat != c) }
  (s.noteRun j).updCore c fun k => { k.cleared with halt := none }

def execPreemptSave (core : BitVec 8) (s : State) : Out :=
  let c := core.toNat
  match (s.core c).job with
  | none => .next s
  | some j =>
    if !(s.core c).preempting || !s.atBoundary c then .next s
    else if s.gangCancelled c then .next (s.killJob c 11 none)
    else .next (s.saveJob c j)

/-! ### RESTORE (R220, R221) -/

/-- A held resolution is applied. -/
def State.applyHeld (s : State) (c : Nat) : State :=
  match (s.core c).heldResolution with
  | none => s
  | some act => (s.updCore c fun k => { k with heldResolution := none }).resolveCore c act

/-- A saved job takes a core. -/
def State.restoreJob (s : State) (x : Saved) (c : Nat) (j : Job) : State :=
  let s := s.updMod fun m => { m with saved := m.saved.filter (·.id != x.id) }
  let s := s.takeContext x c j
  let s := [Lane.c, .a, .x].foldl (fun s l => s.renameStream (savedStream x.id l) (streamId c l)) s
  (s.moveArrivals (256 + x.id) c).applyHeld c

def execRestore (saved : Nat) (core : BitVec 8) (s : State) : Out :=
  let c := core.toNat
  match s.mod.saved.find? (·.id == saved) with
  | none => .next s
  | some x =>
    match x.ctx.job with
    | none => .next s
    | some j =>
      if s.freeCore c && (s.savedCores x).contains c && s.fits x c && s.chosen c (s.savedCand x) then .next (s.restoreJob x c j)
      else .next s

/-- A saved job is killed: its locks are abandoned, its edges and claims go and its record fails (R216). -/
def State.killSaved (s : State) (x : Saved) (code : Nat) : State :=
  let s := s.updMod fun m => { m with saved := m.saved.filter (·.id != x.id) }
  let s := [Lane.c, .a, .x].foldl (fun s l =>
    (s.abandonLocks (savedStream x.id l)).forgetStream (savedStream x.id l)) (s.releaseClaims x.ctx)
  let s := if (s.core x.core.toNat).job.isNone then s.leaveBarriers x.core.toNat else s
  match x.ctx.job with
  | none => s
  | some j =>
    let s := s.updProgress j.tenant.toNat j.queue j.record fun p => { p with running := p.running - 1 }
    s.failRecord j.tenant.toNat j.queue j.record code

end Sys2Proof.Machine
end

