-- ==== Sys2Proof/Machine/Gang.lean ====
section
/-! DEFINITION. Gangs across modules (R207, R208). -/

namespace Sys2Proof.Machine

/-- Cores that run instances of a record. -/
def State.sliceCores (s : State) (t q n : Nat) : List Nat :=
  (s.cores.filter fun (_, k) => k.job.any fun j => j.tenant.toNat == t && j.queue == q && j.record == n).map (·.1)

def State.sliceSaved (s : State) (t q n : Nat) : List Saved :=
  s.mod.saved.filter fun x => x.ctx.job.any fun j => j.tenant.toNat == t && j.queue == q && j.record == n

/-- The bytes of a presented gang record that is not cancelled. One that has failed for another reason never opens its gate. -/
def State.gangRecord (s : State) (t q n : Nat) : Option (List Nat) :=
  let p := s.progress t q n
  if p.cancelled then none
  else if p.bytes.isNone && !(((s.tenant t).lq q).waiting.contains n) then none
  else match s.launchBytes t q n with
    | .error _ => none
    | .ok b => if lrGang b && !lrBad b then some b else none

/-- The gate of a saved instance. -/
def Saved.openGate (x : Saved) : Saved := { x with ctx := { x.ctx with job := x.ctx.job.map fun j => { j with gateOpen := true } } }

/-- The saved instance is one of the record `n` of queue `q` of tenant `t`. -/
def Saved.inSlice (x : Saved) (t q n : Nat) : Bool :=
  x.ctx.job.any fun j => j.tenant.toNat == t && j.queue == q && j.record == n

/-- The gate opens: every stream of the slice may issue. -/
def State.openGate (s : State) (t q n : Nat) : State :=
  let s := s.updProgress t q n fun p => { p with gate := true }
  let s := (s.sliceCores t q n).foldl (init := s) fun s c =>
    s.updCore c fun k => { k with xTick := s.fine, job := k.job.map fun j => { j with gateOpen := true } }
  s.updMod fun m => { m with saved := m.saved.map fun x => if x.inSlice t q n then x.openGate else x }

/-- The last beat at which the gate of a record may open. -/
def State.gangLimit (s : State) (b : List Nat) : Nat := lrGangBeat b + s.mod.gangGrace.toNat

/-- The gate of a record is to open: its instances were all placed in time. -/
def State.gangInTime (s : State) (t q n : Nat) (b : List Nat) : Bool :=
  (s.progress t q n).fail == 0 && (s.progress t q n).full.any (· ≤ s.gangLimit b)

/-- At the later of `gang_beat` and the last placement, where that is not later than the grace allows. -/
def execGangGateOpen (tenant : BitVec 6) (queue : BitVec 3) (record : BitVec 32) (s : State) : Out :=
  let t := tenant.toNat
  let q := queue.toNat
  let n := record.toNat
  match s.gangRecord t q n with
  | none => .next s
  | some b =>
    let p := s.progress t q n
    if s.gangInTime t q n b && !p.gate && lrGangBeat b ≤ s.beat.toNat && !s.mod.cancelled.contains (t, lrGangId b) then .next (s.openGate t q n)
    else .next s

/-- The slice of a cancelled gang ends: where its gate has not opened nothing has issued, and its instances are killed; else each is
pre-empted at its next command boundary, and killed there (DESIGN CHOICE, log 33). The record fails with code 11, and a resume state that
it was to take goes (R204). -/
def State.cancelSlice (s : State) (t q n : Nat) (b : List Nat) : State :=
  let gate := (s.progress t q n).gate
  let s := s.updProgress t q n fun p => { p with cancelled := true, ctl := lrCtl b, done := lrDone b }
  let s := (s.sliceSaved t q n).foldl (fun s x => s.killSaved x 11) s
  let s := if lrResume b then s.discardKept t (lrDone b) else s
  if gate && !(s.sliceCores t q n).isEmpty then
    (s.sliceCores t q n).foldl (init := s) fun s c => if s.preemptable c then s.beginPreempt c else s
  else
    let s := (s.sliceCores t q n).foldl (fun s c => s.killJob c 11 none) s
    s.failRecord t q n 11

/-- The lowest-numbered die that can send. -/
def State.sendingDie (s : State) : Option Nat := [0, 1, 2, 3].find? fun d => s.dieUp d && (s.die d).fabid != 0xFFFF

/-- The cancellation that goes to the other members: `msgid` names the gang (DESIGN CHOICE, log 33). -/
def State.sendCancel (s : State) (t : Nat) (id : BitVec 32) : State :=
  match s.sendingDie with
  | none => s
  | some d =>
    if s.tenantKey d t == 0 then s else
    s.queueOn d 33 (mkFragment
      { type := typeCancel, index := 0, k := 1, m := 0, msgid := id, src := (s.die d).fabid, dst := 0xFFFF, pkey := s.tenantKey d t,
        cls := 0, tenant := t, len := 0, path := 0, hops := 0, corr := 0, va := 0 } [])

/-- A gate that has not opened by `gang_beat` + `gang_grace` cancels the gang, whose other members, if it has any, are told. A gang whose
cancellation came before its record was known ends as soon as it is. -/
def execGangCancel (tenant : BitVec 6) (queue : BitVec 3) (record : BitVec 32) (s : State) : Out :=
  let t := tenant.toNat
  let q := queue.toNat
  let n := record.toNat
  match s.gangRecord t q n with
  | none => .next s
  | some b =>
    let told := s.mod.cancelled.contains (t, lrGangId b)
    if (s.progress t q n).gate || (!told && (s.gangInTime t q n b || s.beat.toNat < s.gangLimit b)) then .next s
    else
      let s := (if told || lrGangN b == 1 then s else s.sendCancel t (lrGangId b)).cancelSlice t q n b
      .next (s.updMod fun m => { m with cancelled := m.cancelled.filter (· != (t, lrGangId b)) })

/-- Presented records of a tenant. -/
def State.presented (s : State) (t : Nat) : List (Nat × Nat) :=
  (s.tenant t).lqs.flatMap fun (q, l) =>
    (l.waiting ++ ((l.progress.filter fun p => p.2.taken).map (·.1))).map fun n => (q, n)

/-- A cancellation reaches a member: its slices end; one whose record is not known yet never opens its gate. -/
def execGangCancelReceive (die : BitVec 2) (f : Fragment) (s : State) : Out :=
  let d := die.toNat
  .next (s.receive d f [typeCancel] fun h s =>
    if s.tenantKey d h.tenant == 0 || h.pkey != s.tenantKey d h.tenant then s.updDie d (·.countKey)
    else
      let hits := (s.presented h.tenant).filterMap fun (q, n) =>
        (s.gangRecord h.tenant q n).bind fun b => if lrGangId b == h.msgid then some (q, n, b) else none
      if hits.isEmpty then
        s.updMod fun m => { m with cancelled := m.cancelled.filter (· != (h.tenant, h.msgid)) ++ [(h.tenant, h.msgid)] }
      else hits.foldl (init := s) fun s (q, n, b) => s.cancelSlice h.tenant q n b)

end Sys2Proof.Machine
end

