-- ==== Sys2Proof/Machine/Markhor.lean ====
section
/-! DEFINITION. Markhor: alarms, engine and core resets (R222-R229), the requests of `mkctl` (R230), die warm reset
(R231-R233), tenant reset (R234) and module reset (R228). -/

namespace Sys2Proof.Machine

/-! ### Engines and what they hold -/

def Supervisor.reset (e : EngineId) : Supervisor := ⟨e, 0, 0, 0, [], false, 0, none, none, 0, 0, (0, 0)⟩

def DieState.sup (d : DieState) (e : EngineId) : Supervisor :=
  (d.supervisors.find? (·.engine == e)).getD (Supervisor.reset e)

def State.sup (s : State) (e : EngineId) : Supervisor := (s.die (engineDie e)).sup e

def State.setSup (s : State) (x : Supervisor) : State :=
  s.updDie (engineDie x.engine) fun d => { d with supervisors := d.supervisors.filter (·.engine != x.engine) ++ [x] }

/-- Records of a ring in state 7. -/
def Ring.running (r : Ring) : List Rec := (r.slots.map (·.2)).filter (·.st.state == 7)

/-- Cores and rings that an engine serves. -/
def engineRings : EngineId → List (Nat × RingId)
  | .array c => (List.range 4).map fun i => (4 * c.toNat + i, .k)
  | .copy c => [(c.toNat, .l), (c.toNat, .s)]
  | .vec _ => []
  | .coll d => (List.range 64).map fun i => (64 * d.toNat + i, .g)

/-- Records that an engine holds. -/
def State.heldBy (s : State) (e : EngineId) : List (Nat × RingId × Rec) :=
  (engineRings e).flatMap fun (c, q) => ((s.core c).ring q).running.map fun r => (c, q, r)

/-- The X stream has work: its job runs and it has not ended. -/
def State.xBusy (s : State) (c : Nat) : Bool := (s.core c).job.isSome && !(s.core c).x.ended

def State.engineIdle (s : State) (e : EngineId) : Bool :=
  match e with
  | .vec c => !s.xBusy c.toNat
  | _ => (s.heldBy e).isEmpty

/-- Tenants whose work an engine reset touches. -/
def State.engineTenants (s : State) (e : EngineId) : List Nat :=
  match e with
  | .vec c => if s.xBusy c.toNat then [s.tenantOf c.toNat] else []
  | _ => ((s.heldBy e).map fun h => s.tenantOf h.1).eraseDups

/-- The source code of an engine's records (R213). -/
def State.engineSrc (s : State) (e : EngineId) : Nat :=
  match e with
  | .vec _ => laneSrc .x
  | .array _ => ringSrc .k
  | .coll _ => ringSrc .g
  | .copy _ => match s.heldBy e with
    | h :: _ => ringSrc h.2.1
    | [] => ringSrc .l

/-- The core that a record of an engine names where no record is held: the first that the engine serves. -/
def engineCore : EngineId → Nat
  | .copy c | .vec c => c.toNat
  | .array c => 4 * c.toNat
  | .coll d => 64 * d.toNat

/-! ### Reset records (R227) -/

/-- Reset records go to each touched tenant and, one for each, to tenant 0; or one to tenant 0. -/
def State.resetRecords (s : State) (f : Frame) (ts : List Nat) : State :=
  match ts with
  | [] => s.event 0 { f with tenant := 0 }
  | _ => ts.foldl (init := s) fun s t =>
    let f : Frame := { f with tenant := t }
    let s := s.event 0 f
    if t == 0 then s else s.event t f

/-- A stream has begun nothing since its mark. -/
def StreamState.atMark (t : StreamState) : Bool := t.mark.isSome && !t.moved

/-- A stream has gone past its mark; one that has executed REND since is rolled back out of it. -/
def StreamState.pastMark (t : StreamState) : Bool := t.mark.isSome && t.moved

/-- Cycles that a stream has worked since its mark, up to a cycle. -/
def StreamState.cyclesTo (t : StreamState) (now : Nat) : Nat :=
  t.worked + if t.wait == .none && !t.halted then now - t.since else 0

/-- What a reset that began at a cycle discards (R227; DEDUCED, log 20): the units under way, one for each record and each stream past its
mark, and the cycles worked on them. -/
def lostWork (recs : List Rec) (streams : List StreamState) (now : Nat) : Nat × Nat :=
  let rs := recs.filter Rec.underWay
  let ts := streams.filter StreamState.pastMark
  (min (rs.length + ts.length) 0xFFFFFFFF,
   min ((rs.map (now - ·.tick)).foldl (· + ·) 0 + (ts.map (·.cyclesTo now)).foldl (· + ·) 0) 0xFFFFFFFF)

/-- What an engine reset discards. -/
def State.engineLost (s : State) (e : EngineId) (now : Nat) : Nat × Nat :=
  lostWork ((s.heldBy e).map (·.2.2))
    (match e with
     | .vec c => if s.xBusy c.toNat then [(s.core c.toNat).x] else []
     | _ => []) now

/-- What the reset of a core discards. -/
def CoreState.lost (k : CoreState) (now : Nat) : Nat × Nat :=
  if k.job.isNone then (0, 0) else lostWork ([k.ringK, k.ringL, k.ringS, k.ringG].flatMap (·.running)) [k.c, k.a, k.x] now

/-- The reset record of an engine, with the trace event of each core whose record it held. -/
def State.engineRecord (s : State) (x : Supervisor) : State :=
  let e := x.engine
  let hs := s.heldBy e
  let held := hs.head?
  let src := s.engineSrc e
  let s := (s.resetRecords { s.eventFrame 0x48 x.trigger src 0 with
    seq := (held.map fun h => h.2.2.st.seq).getD 0, corr := (held.map fun h => cmdCorr h.2.2.cmd).getD 0, beat := x.beat
    aux0 := x.lost.1, aux1 := x.lost.2, core := (held.map (·.1)).getD (engineCore e) } (s.engineTenants e))
  match e, hs with
  | .vec k, _ => s.trace k.toNat .x src 5 0 0 0
  | .copy k, [] => s.trace k.toNat .x src 5 0 0 0
  | _, _ => hs.foldl (fun s h => s.trace h.1 (pusher h.2.1) src 5 (cmdCorr h.2.2.cmd) h.2.2.st.seq 0) s

/-! ### The table of R224 -/

/-- `mkctl` reports that its request is done. -/
def State.mkDone (s : State) (d : Option Nat) : State :=
  match d with
  | none => s
  | some d => s.updDie d fun k => { k with mkst := 0, mkReq := none }

/-- WATCH to DRAIN: the engine starts no work from now on. -/
def State.drainEngine (s : State) (e : EngineId) (trigger : Nat) (mk : Option Nat) : State :=
  s.setSup { s.sup e with state := 1, trigger := trigger, since := s.tick.toNat, wasIdle := s.engineIdle e, core := none, reporter := mk
                          beat := s.beat.toNat, tick := s.tick.toNat, lost := (0, 0) }

/-- A core reset begins. -/
def State.beginCoreReset (s : State) (c trigger : Nat) (mk : Option Nat) : State :=
  s.updCore c fun k => { k with resetting := k.resetting.or (some ⟨trigger, mk, s.beat.toNat, s.tick.toNat⟩) }

/-- The core that state CORE names for an engine (R225). -/
def State.engineCore? (s : State) (e : EngineId) : Option Nat :=
  match e with
  | .copy c | .vec c => some c.toNat
  | _ => (s.heldBy e).head?.map (·.1)

/-- Any state to CORE; an engine that holds no core's record is reset once more, and firmware is advised. -/
def State.toCore (s : State) (e : EngineId) (trigger : Nat) (mk : Option Nat) : State :=
  match s.engineCore? e with
  | some c =>
    let x := s.sup e
    (s.setSup { x with state := 4, trigger := trigger, since := s.tick.toNat, core := some c, reporter := mk }).beginCoreReset c 5 none
  | none => (s.drainEngine e trigger mk).event 0 (s.eventFrame 0x53 0 (s.engineSrc e) 0)

/-- X is inside a `nonrestart` level: its engine is not reset alone (R46). -/
def State.xNonrestart (s : State) (e : EngineId) : Bool :=
  match e with
  | .vec c => (s.core c.toNat).nonrestart .x
  | _ => false

/-- An alarm of an engine that is watched. -/
def State.alarm (s : State) (e : EngineId) (trigger : Nat) : State :=
  let x := s.sup e
  if x.state != 0 || !s.dieUp (engineDie e) then s
  else
    let recent := x.history.filter fun b => s.beat.toNat < b + 40000
    if s.xNonrestart e || 2 ≤ recent.length then s.toCore e trigger none else s.drainEngine e trigger none

/-- The watchdog window in 300ths of a beat (R222). -/
def DieState.window (d : DieState) : Nat := d.wdog * 300

/-- The act by which an engine advances a record. -/
def engineAct (c : BitVec 8) (q : RingId) (kind : Nat) (s : State) : Out :=
  match kind with
  | 0x01 => execCopy c q s
  | 0x02 => execGcopy c q s
  | 0x03 => execMcast c q s
  | 0x10 => execMxd c s
  | 0x11 => execMxc c s
  | 0x12 => execMxl c s
  | 0x13 => execMxr c s
  | 0x14 => execMxdrn c s
  | 0x30 => execColl c s
  | _ => .next s

/-- The engine could advance a record: its boundary is performed, or its act changes something. What waits for entries, room,
slots, ports or peers does not; nor does a halted core's (R271). -/
def State.canAdvance (s : State) (core : Nat) (q : RingId) (r : Rec) : Bool :=
  s.engineRuns core q && (s.core core).halt.isNone && (r.performed || (s.cluster (clusterOf core)).cells.any (fun t => q == .k && t.core.toNat == core) ||
    (match engineAct (BitVec.ofNat 8 core) q (cmdKind r.cmd) s with | .next t => t != s | _ => false))

/-- The window has passed with work that could advance and no progress: a record whose mark stands still, or an X stream that
neither waits nor is halted (R223). -/
def State.noProgress (s : State) (e : EngineId) : Bool :=
  let w := (s.die (engineDie e)).window
  match e with
  | .vec c => s.mayIssue c.toNat .x && (s.core c.toNat).x.wait == .none && (s.core c.toNat).xTick + w ≤ s.fine
  | _ => (s.heldBy e).any fun h => h.2.2.waited + w ≤ s.fine && s.canAdvance h.1 h.2.1 h.2.2

/-- Time spent waiting does not count: the window of a record that could not be advanced, or of an X stream that waits, begins now. -/
def State.noteWaits (s : State) (e : EngineId) : State :=
  match e with
  | .vec c => if s.mayIssue c.toNat .x && (s.core c.toNat).x.wait == .none then s else s.updCore c.toNat fun k => { k with xTick := s.fine }
  | _ => (s.heldBy e).foldl (init := s) fun t h =>
    if s.canAdvance h.1 h.2.1 h.2.2 then t else t.updRec h.1 h.2.1 h.2.2.st.seq fun r => { r with waited := s.fine }

def execWatchdogAlarm (engine : EngineId) (s : State) : Out :=
  .next (if s.noProgress engine then s.alarm engine 1 else s.noteWaits engine)

def execParityAlarm (engine : EngineId) (s : State) : Out := .next (s.alarm engine 2)
def execProtocolAlarm (engine : EngineId) (s : State) : Out := .next (s.alarm engine 3)

/-- The engine stands just past a mark: X has begun nothing since, and another engine has no boundary under way. -/
def State.pastMark (s : State) (e : EngineId) : Bool :=
  match e with
  | .vec c => (s.core c.toNat).x.atMark
  | .array c => (s.heldBy e).all (fun h => !h.2.2.underWay) && (s.cluster c.toNat).cells.isNone
  | _ => (s.heldBy e).all fun h => !h.2.2.underWay

/-- Beats of the scrub period of an engine's die (R222). -/
def State.scrubBeats (s : State) (e : EngineId) : Nat := (s.die (engineDie e)).scrubPeriod * 4000

/-- An engine has had no scrub reset in the present period. -/
def State.scrubDue (s : State) (e : EngineId) : Bool := (s.sup e).lastScrub / s.scrubBeats e < s.beat.toNat / s.scrubBeats e

/-- A scrub reset at an idle moment, or just past a mark once a whole period has passed without one. It rolls nothing back, so R46 escalates
none inside a `nonrestart` level (DEDUCED, log 81). -/
def execScrubResetDue (engine : EngineId) (s : State) : Out :=
  let x := s.sup engine
  let late := x.lastScrub + s.scrubBeats engine ≤ s.beat.toNat
  if x.state == 0 && s.dieUp (engineDie engine) && (s.engineIdle engine || (late && s.pastMark engine)) then
    .next (s.drainEngine engine 4 none)
  else .next s

def execMarkhorDrainDone (engine : EngineId) (s : State) : Out :=
  let x := s.sup engine
  if x.state == 1 then .next (s.setSup { x with state := 2, since := s.tick.toNat }) else .next s

/-- The record is one of a chain or of a call: its engine holds it as fetched. -/
def Rec.fetched (r : Rec) : Bool := r.seg.isSome || r.source.isSome

/-- A record whose engine has dropped its copy: what was performed past the mark is performed again, and the record of a chain or of a
call is fetched again, from state 1 where it has not started (R116, R134, R345). -/
def Rec.dropCopy (r : Rec) (fine : Nat) (beat : BitVec 32) : Rec :=
  if r.st.state == 7 && !r.posted then
    { r with performed := false, coll := r.coll.map (fun c => { c with out := false }), fifo := { r.fifo with again := true }
             refetch := r.fetched, waited := fine }
  else if r.st.state < 7 && r.fetched then
    { r with refetch := true, asked := none, recheck := none, waited := fine, st := { r.st with state := 1, beat := beat } }
  else r

/-- The wait edges and the permit of a record that goes back to state 1 go too. -/
def State.dropCopies (s : State) (core : Nat) (q : RingId) : State :=
  let back := (((s.core core).ring q).slots.map Prod.snd).filter fun x => 1 < x.st.state && x.st.state < 7 && x.fetched
  let s := back.foldl (fun s x => (s.dropCommandEdges core q x.st.seq).returnPermit core q x.st.seq) s
  s.updCore core fun k =>
    let r := k.ring q
    k.setRing q { r with slots := r.slots.map fun (i, x) => (i, x.dropCopy s.fine (s.beat.setWidth 32)) }

/-- The cells are discarded, whichever core's tile they hold; banks of the interrupted tile keep what they held (R134). -/
def ClusterState.dropCells (c : ClusterState) : ClusterState :=
  { c with cells := none, acc := c.acc.map fun (b, x) => (b, { x with busy := false }) }

/-- An engine's control state is cleared. -/
def State.clearEngine (s : State) (e : EngineId) : State :=
  let s := (engineRings e).foldl (fun s (c, q) => s.dropCopies c q) s
  match e with
  | .array c => s.updCluster c.toNat (·.dropCells)
  | _ => s

def execMarkhorHoldExpire (engine : EngineId) (s : State) : Out :=
  let x := s.sup engine
  if x.state == 2 && x.since + 32 ≤ s.tick.toNat then
    .next ((s.clearEngine engine).setSup { x with state := 3, since := s.tick.toNat, lost := s.engineLost engine x.tick })
  else .next s

/-- The watchdog's window of an engine begins now: that of X, or those of the records it holds (R223). -/
def State.freshWindow (s : State) (e : EngineId) : State :=
  match e with
  | .vec c => s.updCore c.toNat fun k => { k with xTick := s.fine }
  | _ => (s.heldBy e).foldl (init := s) fun t h => t.updRec h.1 h.2.1 h.2.2.st.seq fun r => { r with waited := s.fine }

/-- Back to WATCH, with the reset record; X resumes at its mark. -/
def State.rewatch (s : State) (x : Supervisor) : State :=
  let s := s.engineRecord x
  let s := match x.engine with
    | .vec c => if s.xBusy c.toNat && !x.wasIdle then s.rollbackStream c.toNat .x else s
    | _ => s
  let recent := x.history.filter fun b => s.beat.toNat < b + 40000
  let s := (s.freshWindow x.engine).setSup { x with state := 0, history := recent ++ [s.beat.toNat], lastScrub := if x.trigger == 4 then s.beat.toNat else x.lastScrub
                                                    core := none, reporter := none }
  s.mkDone x.reporter

def execMarkhorReload (engine : EngineId) (readable : Bool) (s : State) : Out :=
  let x := s.sup engine
  if x.state != 3 then .next s
  else if x.wasIdle || readable then .next (s.rewatch x)
  else .next (s.toCore engine x.trigger x.reporter)

/-! ### Core reset (R224, R225, R229) -/

/-- The interrupted record of a core: the first in state 7. -/
def CoreState.interrupted (k : CoreState) : Option Rec :=
  ([k.ringK, k.ringL, k.ringS, k.ringG].flatMap (·.running)).head?

/-- Streams go back to their marks, and engines drop their copies of the core's records. -/
def State.resetCore (s : State) (c : Nat) : State :=
  let s := [RingId.l, .k, .s, .g].foldl (fun s q => s.dropCopies c q) (s.dropBankm c)
  let s := s.updCluster (clusterOf c) (·.dropTile c)
  ([Lane.c, .a, .x].foldl (fun s l => s.rollbackStream c l) s).updCore c fun k => { k with xTick := s.fine }

/-- Engines whose escalation waits for a core watch again. -/
def State.releaseSups (s : State) (c : Nat) : State :=
  (s.die (dieOf c)).supervisors.foldl (init := s) fun s x =>
    if x.state == 4 && x.core == some c then
      (s.setSup { x with state := 0, core := none, reporter := none }).mkDone x.reporter else s

/-- The reset record of a core reset. -/
def State.coreRecord (s : State) (c : Nat) (x : Resetting) : State :=
  let k := s.core c
  let ts := if k.job.isSome then [s.tenantOf c] else []
  let seq := (k.interrupted.map (·.st.seq)).getD 0
  let corr := (k.interrupted.map fun r => cmdCorr r.cmd).getD 0
  (s.resetRecords { s.eventFrame 0x49 x.trigger 8 0 with
    seq := seq, corr := corr, beat := x.beat, aux0 := (k.lost x.tick).1, aux1 := (k.lost x.tick).2, core := c } ts).trace c .c 8 5 corr seq 0

/-- The end of a job by a core reset: a record of `cause` goes to its tenant, and its launch fails with step 12. -/
def State.endByReset (s : State) (c cause : Nat) (keep : Option Bool) : State :=
  if (s.core c).job.isNone then s else
  let t := s.tenantOf c
  ((s.event t { s.eventFrame cause 0 8 t with core := c, level := s.levelOf c }).trace c .c 8 5 0 0 0).killJob c 12 keep

/-- The core reset completes. A stream inside a `nonrestart` level ends the job (R46); an unreadable mark area, or a third reset
within 400,000 beats, ends it and takes the core out of placement (R224); op 2 of `mkctl` on such a core puts it back, with no
resets counted (R225). -/
def State.finishCoreReset (s : State) (c : Nat) (x : Resetting) (readable : Bool) : State :=
  let k := s.core c
  let cleared := k.offline && x.trigger == 6
  let recent := if cleared then [] else k.resets.filter fun b => s.beat.toNat < b + 400000
  let bad := !readable || 2 ≤ recent.length
  let s := s.coreRecord c x
  let s :=
    if bad then
      (s.endByReset c 0x19 (if readable then some true else none)).event 0 { s.eventFrame 0x52 0 8 0 with core := c }
    else if [Lane.c, .a, .x].any k.nonrestart then s.endByReset c 0x42 (some true)
    else s.resetCore c
  let s := s.updCore c fun k =>
    { k with resetting := none, resets := recent ++ [s.beat.toNat], offline := bad || (k.offline && !cleared) }
  (s.releaseSups c).mkDone x.reporter

def execCoreResetComplete (core : BitVec 8) (readable : Bool) (s : State) : Out :=
  match (s.core core.toNat).resetting with
  | none => .next s
  | some x => if s.dieUp (dieOf core.toNat) then .next (s.finishCoreReset core.toNat x readable) else .next s

/-! ### Requests of `mkctl` (R230) -/

/-- The request of a die whose operation is `op`. -/
def State.mkRequest (s : State) (die op : Nat) : Option Request :=
  (s.die die).mkReq.filter fun r => bitsOf r.value.toNat 0 4 == op

def mkCore (v : Word) : Nat := bitsOf v.toNat 24 8
def mkDie (v : Word) : Nat := bitsOf v.toNat 4 2
def mkTenant (v : Word) : Nat := bitsOf v.toNat 8 6

/-- The engine that op 1 names. -/
def mkEngine (v : Word) : EngineId :=
  let c := mkCore v
  match bitsOf v.toNat 16 4 with
  | 1 => .array (BitVec.ofNat 6 (clusterOf c))
  | 2 => .copy (BitVec.ofNat 8 c)
  | 3 => .vec (BitVec.ofNat 8 c)
  | _ => .coll (BitVec.ofNat 2 (dieOf c))

/-- Op 1 begins once the engine is watched; one that would roll back a `nonrestart` level goes to CORE (R46). -/
def execMkctlEngineReset (die : BitVec 2) (s : State) : Out :=
  match s.mkRequest die.toNat 1 with
  | none => .next s
  | some r =>
    let e := mkEngine r.value
    if (s.sup e).state != 0 || !s.dieUp (engineDie e) then .next s
    else
      let s := s.updDie die.toNat fun d => { d with mkReq := none }
      .next (if s.xNonrestart e then s.toCore e 6 (some die.toNat) else s.drainEngine e 6 (some die.toNat))

def execMkctlCoreReset (die : BitVec 2) (s : State) : Out :=
  match s.mkRequest die.toNat 2 with
  | none => .next s
  | some r =>
    let c := mkCore r.value
    if (s.core c).resetting.isSome || !s.dieUp (dieOf c) then .next s
    else
      let s := s.updDie die.toNat fun d => { d with mkReq := none }
      .next (s.beginCoreReset c 6 (some die.toNat))

/-! ### Die warm reset (R231-R233) -/

def dieCores (d : Nat) : List Nat := (List.range 64).map (64 * d + ·)
def dieClusters (d : Nat) : List Nat := (List.range 16).map (16 * d + ·)

/-- Requests of `mkctl` that wait for an engine or core of a die find their reset done with it. -/
def State.releaseMk (s : State) (d : Nat) : State :=
  let s := (s.die d).supervisors.foldl (fun s x => s.mkDone x.reporter) s
  (dieCores d).foldl (fun s c => s.mkDone ((s.core c).resetting.bind (·.reporter))) s

/-- Phase 1 begins: D's jobs end, their restart state kept from their marks without banks (R232). -/
def State.beginWarmReset (s : State) (d : Nat) : State :=
  let busy := (dieCores d).filter fun c => (s.core c).job.isSome
  let ts := (busy.map s.tenantOf).eraseDups
  let lost := busy.foldl (init := (0, 0)) fun n c => let l := (s.core c).lost s.tick.toNat; (n.1 + l.1, n.2 + l.2)
  let s := busy.foldl (fun s c => s.trace c .c 0 5 0 0 0) (s.releaseMk d)
  let s := (dieCores d).foldl (fun s c => s.killJob c 12 (some false)) s
  s.updDie d fun k => { k with phase := 1, touched := ts, lost := (min lost.1 0xFFFFFFFF, min lost.2 0xFFFFFFFF, s.beat.toNat) }

/-- The request stays, marked as begun, until the die is re-admitted. -/
def execMkctlDieWarmReset (die : BitVec 2) (s : State) : Out :=
  match s.mkRequest die.toNat 3 with
  | none => .next s
  | some r =>
    let d := mkDie r.value
    if !s.dieUp d then .next s
    else .next ((s.beginWarmReset d).updDie die.toNat fun k => { k with mkReq := some { r with args := [1] } })

def State.phaseIs (s : State) (d n : Nat) : Bool := s.present d && (s.die d).phase == n

def State.toPhase (s : State) (d n : Nat) : State := s.updDie d fun k => { k with phase := n }

/-- D's eight fabric ports go down or come up. -/
def State.portsOf (s : State) (d : Nat) (up : Bool) : State := (List.range 8).foldl (fun s p => s.portChange (8 * d + p) up) s

/-- Phase 1 ends: D's fabric ports have gone down (R231, R426). -/
def execDieQuiesceDone (die : BitVec 2) (s : State) : Out :=
  .next (if s.phaseIs die.toNat 1 then (s.portsOf die.toNat false).toPhase die.toNat 2 else s)

/-- What survives in a die: the Tahr store with its wait-for table, the posts on their way and an object request that waits (R179), the
counts that flash keeps, the message numbers, and Markhor's own request. Configuration takes its reset values (DESIGN CHOICE, log 12).
Scrubbing begins its passes again. -/
def DieState.warm (k : DieState) (beat : Nat) : DieState :=
  { DieState.reset with
    objReq := k.objReq, objst := k.objst, objmask := k.objmask, lost := k.lost, passStart := [(0, beat), (1, beat), (2, beat)]
    tahr := k.tahr, posts := k.posts, refusals := k.refusals, held := k.held, edges := k.edges, wfovf := k.wfovf
    phase := 3, touched := k.touched, mkReq := k.mkReq, mkst := k.mkst, mmcount := k.mmcount, mmflash := k.mmcount
    msgid := k.msgid }

/-- Memory of a die outside its DRAM. -/
def State.zeroDie (s : State) (d : Nat) : State :=
  let s := (dieClusters d).foldl (fun s cl => (s.zeroLoc (sramKey cl 0) (2 ^ 21)).zeroLoc (accKey cl 0) (2 ^ 21)) s
  s.zeroLoc (0xE000000000000 + d * 2 ^ 27) (2 ^ 27)

/-- Phase 3: everything outside the always-on domain is reset, and the claims of the die's clusters are released, those of its saved jobs
too (R160). -/
def State.warmReset (s : State) (d : Nat) : State :=
  let s := ((s.die d).kept.filter (·.origin.isNone)).foldl (fun s m => s.snapMessage m.msgid false) s
  let s := (dieCores d).foldl (fun s c => s.updCore c fun k =>
    { CoreState.reset with offline := k.offline, resets := k.resets }) s
  let s := (dieClusters d).foldl (fun s c => s.updCluster c fun _ => ClusterState.reset) s
  let s := (s.zeroDie d).updDie d (·.warm s.beat.toNat)
  let s := (s.mod.saved.filter fun x => dieOf x.core.toNat == d).foldl (init := s) fun s x =>
    (s.releaseClaims x.ctx).updSaved x.id fun k => { k with ringK := { k.ringK with slots := k.ringK.slots.map fun (i, r) => (i, r.claimless) } }
  s.updMod fun m => { m with stgcfg := m.stgcfg.filter fun x => x.1 / 32 != d }

/-- Phase 2 ends: the counts are in flash (R265), and phase 3 resets the die. -/
def execDieWritebackDone (die : BitVec 2) (s : State) : Out :=
  .next (if s.phaseIs die.toNat 2 then s.warmReset die.toNat else s)

def execDieResetDone (die : BitVec 2) (s : State) : Out :=
  .next (if s.phaseIs die.toNat 3 then s.toPhase die.toNat 4 else s)

/-- Phase 4 ends: D's fabric ports are up again (R231, R426). -/
def execDieRetrainDone (die : BitVec 2) (s : State) : Out :=
  .next (if s.phaseIs die.toNat 4 then (s.portsOf die.toNat true).toPhase die.toNat 5 else s)

/-- Requests for the warm reset of a die that has been re-admitted are done. -/
def State.warmDone (s : State) (d : Nat) : State :=
  { s with dies := s.dies.map fun (i, k) =>
      (i, if k.mkReq.any (fun r => r.args == [1] && bitsOf r.value.toNat 0 4 == 3 && mkDie r.value == d) then
            { k with mkReq := none, mkst := 0 } else k) }

/-- Phase 5 ends: the die's links open, its cores become placeable, and the reset records are written. -/
def execDieReadmit (die : BitVec 2) (s : State) : Out :=
  let d := die.toNat
  if !s.phaseIs d 5 then .next s
  else
    let ts := (s.die d).touched
    let s := s.updDie d fun k => { k with phase := 0, touched := [] }
    let l := (s.die d).lost
    .next ((s.resetRecords { s.eventFrame 0x4A 6 0 0 with aux0 := l.1, aux1 := l.2.1, beat := l.2.2 } ts).warmDone d).noteReady

/-! ### Tenant reset (R234) -/

/-- Step 2: the tenant's objects and the waits registered on them (R178). A stream that waited, one of level M, executes its instruction
again and finds the handle stale (DESIGN CHOICE, log 16). -/
def State.freeObjects (s : State) (t : Nat) : State :=
  let freed (h : Nat) : Bool :=
    let x := s.slot (BitVec.ofNat 32 h)
    x.obj.isSome && x.tenant.toNat == t && x.gen == hChk (BitVec.ofNat 32 h)
  let waits := s.parkedStreams.filter fun (_, _, w) => w.registeredOn.any fun h => freed h.toNat
  let s : State := { s with dies := s.dies.map fun (i, d) =>
      (i, { d with edges := d.edges.filter fun e => e.granule || !freed e.obj
                   tahr := d.tahr.map fun (n, x) => (n, if x.obj.isSome && x.tenant.toNat == t then x.freed else x) }) }
  waits.foldl (fun s (c, l, _) => (s.updStr c l fun x => { x with wait := .none }).goesOn c l) s

/-- Step 3: its banks, which are zeroed, set `OFF` and given to tenant 0 with their formats as they were (R84), and the direct portions
of its staging slices. -/
def State.zeroBanks (s : State) (t : Nat) : State :=
  s.clusters.foldl (init := s) fun s (cl, c) =>
    c.banks.foldl (init := s) fun s (b, x) =>
      if x.tenant.toNat != t then s else (s.wipeBank cl b).updBank cl b fun x => { x with tenant := 0 }

def State.zeroStaging (s : State) (t : Nat) : State :=
  s.mod.stgcfg.foldl (init := s) fun s (g, cfg) =>
    if cfg.toNat / 2 ^ 8 != t then s
    else s.zeroLoc (0xE000000000000 + g * 2 ^ 22) (stgDirect cfg)

def clearEn (c : Word) : Word := c &&& ~~~1#64

/-- Steps 2 and 4, in the tenant itself. -/
def TenantState.emptied (x : TenantState) : TenantState :=
  { x with dir := x.dir.map fun (i, d) => (i, { DirSlot.reset with updates := (d.updates + 1) % 2 ^ 32 }), amoflags := 0, outbox := [], fqcfg := clearEn x.fqcfg
           lqs := x.lqs.map fun (q, l) => (q, { l with cfg := clearEn l.cfg }) }

def State.tenantReset (s : State) (t : Nat) : State :=
  let s := (s.cores.map (·.1)).foldl (fun s c => if (s.core c).job.any (·.tenant.toNat == t) then s.killJob c 14 none else s) s
  let s := (s.mod.saved.filter fun x => x.ctx.job.any (·.tenant.toNat == t)).foldl (fun s x => s.killSaved x 14) s
  let s := (((s.freeObjects t).zeroBanks t).zeroStaging t).updTenant t (·.emptied)
  s.updMod fun m => { m with keptStates := m.keptStates.filter (·.tenant.toNat != t) }

def execMkctlTenantReset (die : BitVec 2) (s : State) : Out :=
  match s.mkRequest die.toNat 4 with
  | none => .next s
  | some r => .next ((s.tenantReset (mkTenant r.value)).mkDone (some die.toNat))

/-! ### Module reset (R228) -/

/-- Only flash and what is in it survive; a controller boots the module next (R256). -/
def State.moduleReset (s : State) : State :=
  { State.reset with
    script := s.script, rotor := s.rotor, fresh := s.fresh, steps := s.steps
    mod := { ModuleState.reset with
      flashA := s.mod.flashA, flashB := s.mod.flashB, boot := s.mod.boot, bootCount := s.mod.bootCount
      bootClear := s.mod.bootClear, mmSaved := 0 }
    dies := s.dies.map fun (i, d) => (i, { DieState.reset with mmflash := d.mmflash, mmcount := d.mmflash }) }

end Sys2Proof.Machine
end

