-- ==== Sys2Proof/Machine/Hosting.lean ====
section
/-! DEFINITION. What reaches software outside a core: fault queues (R213-R215), the host's rings (R251-R254), boot (R255-R257)
and attestation (R258). -/

namespace Sys2Proof.Machine

/-! ### Frames (R113, R194, R213, R214) -/

def Status.bytes (t : Status) : List Nat :=
  [t.state, t.cause, t.fpfl.toNat, t.kflags.toNat] ++ bytesOf 4 t.mark ++ bytesOf 4 t.seq ++ bytesOf 4 t.kcount ++
    bytesOf 8 t.rmask.toNat ++ bytesOf 4 t.beat.toNat ++ [if t.popd then 1 else 0, 0, 0, 0]

def StreamBlock.bytes (b : StreamBlock) : List Nat :=
  bytesOf 8 b.line.toNat ++ [b.lane.toNat, b.wait, b.obj, b.flags.toNat, 0, 0, 0, 0]

/-- The deadlock record, or zeros. -/
def Frame.deadlock (f : Frame) : List Nat :=
  let l := [f.dlock.length % 256, f.cmdw, 0, 0, 0, 0, 0, 0] ++ f.dlock.flatMap fun p => bytesOf 4 p.1 ++ bytesOf 4 p.2
  (l ++ List.replicate 72 0).take 72

def Frame.bytes (f : Frame) : List Nat :=
  [f.cause, f.sub, f.src, boolBit f.addrValid 0 + 2 * f.level + 8 * f.access] ++ bytesOf 4 f.seq ++ bytesOf 4 f.corr ++
    bytesOf 2 f.gen ++ [f.cls % 16 + 16 * f.width, f.tenant] ++ bytesOf 8 f.addr.toNat ++ bytesOf 8 f.beat ++
    f.strc.bytes ++ f.stra.bytes ++ f.strx.bytes ++ bytesOf 4 f.aux0 ++ bytesOf 4 f.aux1 ++ f.deadlock ++
    ((f.cstat.map (·.bytes)).getD (List.replicate 32 0)) ++ bytesOf 8 f.fseq ++ bytesOf 2 f.core ++ List.replicate 54 0

/-! ### FAULT_QUEUE_COPY (R215) -/

/-- The copy waits because its slot is not writable: tenant 0 is told once. -/
def State.warnOnce (s : State) (t : Nat) : State :=
  if t == 0 || (s.tenant t).warned then s
  else (s.updTenant t fun x => { x with warned := true }).event 0 (s.eventFrame 0x53 0 0 t)

def execFaultQueueCopy (tenant : BitVec 6) (s : State) : Out :=
  let t := tenant.toNat
  let x := s.tenant t
  match x.outbox with
  | [] => .next s
  | f :: r =>
    if !cfgEn x.fqcfg || 2 ^ cfgSize x.fqcfg ≤ (x.fqtail + 2 ^ 32 - x.fqhead) % 2 ^ 32 then .next s
    else .next (s.writeThen (s.hwWho t) (cfgSlot x.fqcfg 256 x.fqtail) f.bytes (s.warnOnce t) fun s =>
      (s.updTenant t fun x =>
        { x with outbox := r, fqtail := (x.fqtail + 1) % 2 ^ 32, warned := false }).hwPost s.hwDie t 1 x.fqsig 1)

/-! ### HOST_COMPLETION_ENTRY (R254) -/

def HostEntry.bytes (e : HostEntry) (seq beat : Nat) : List Nat :=
  bytesOf 8 seq ++ [e.kind, e.code, e.lq, 0] ++ bytesOf 4 e.record ++ bytesOf 4 e.done.toNat ++ bytesOf 4 e.disc ++ bytesOf 8 beat

/-- The oldest entry is written; its core may be placed again. -/
def execHostCompletionEntry (tenant : BitVec 6) (s : State) : Out :=
  let t := tenant.toNat
  let x := s.tenant t
  match x.entries with
  | [] => .next s
  | e :: r =>
    if !cfgEn x.hcqcfg || (x.hcqtail + 2 ^ 64 - x.hcqhead) % 2 ^ 64 == 2 ^ cfgSize x.hcqcfg then .next s
    else
      let n := (x.hcqtail + 1) % 2 ^ 64
      .next (s.writeThen (s.hwWho t) (cfgSlot x.hcqcfg 32 n) (e.bytes n s.beat.toNat) s fun s =>
        let s := s.updTenant t fun x => { x with entries := r, hcqtail := n }
        match e.core with
        | some c => s.updCore c.toNat fun k => { k with awaitingHost := false }
        | none => s)

/-! ### Submissions (R252, R253) -/

def subOp (b : List Nat) : Nat := fieldOf b 8 1
def subAddr (b : List Nat) : Nat := fieldOf b 16 8
def subVal (b : List Nat) : Nat := fieldOf b 24 8

/-- An invalid op, or a reserved byte that is not zero. -/
def subBad (b : List Nat) : Bool :=
  let op := subOp b
  op == 0 || 3 < op || fieldOf b 9 7 != 0 || (op != 1 && subVal b != 0) || (op != 2 && fieldOf b 32 32 != 0)

def TenantState.failSub (x : TenantState) (n code : Nat) : TenantState :=
  { x with hserr := BitVec.ofNat 64 (n % 2 ^ 56 * 256 + code) }

/-- Acceptance in order: a wrong number stops it, an unreadable slot makes it wait. -/
def State.takeSubs (s : State) (t : Nat) : Nat → State
  | 0 => s
  | f + 1 =>
    let x := s.tenant t
    if x.hsqtail ≤ x.hsacc || x.hsStopped || !cfgEn x.hsqcfg then s
    else
      let n := x.hsacc + 1
      match s.readVa (s.hwWho t) (cfgSlot x.hsqcfg 64 n) 64 with
      | .error _ => s
      | .ok b =>
        if fieldOf b 0 8 != n then s.updTenant t fun x => { x.failSub n 1 with hsStopped := true }
        else (s.updTenant t fun x => { x with hsacc := n, hsHeld := x.hsHeld ++ [b] }).takeSubs t f

/-- A submission ends: code 0, or a failure with its completion entry. -/
def State.endSub (s : State) (t code : Nat) : State :=
  let n := (s.tenant t).hsdone + 1
  let s := s.updTenant t fun x => { x with hsdone := n, hsHeld := x.hsHeld.drop 1 }
  if code == 0 then s
  else (s.updTenant t (·.failSub n code)).addHostEntry t ⟨3, code, 0xFF, n % 2 ^ 32, 0, 0, none⟩

/-- Submissions are taken; the oldest accepted one is performed where its op is `op`, or fails where it is invalid. `body` gives the
state and code of a valid one, or no code where it waits. -/
def State.submission (s : State) (t op : Nat) (body : List Nat → State → State × Option Nat) : State :=
  let s := s.takeSubs t 4096
  match (s.tenant t).hsHeld with
  | [] => s
  | b :: _ =>
    if subBad b then s.endSub t 2
    else if subOp b != op then s
    else (body b s).2.elim (body b s).1 ((body b s).1.endSub t)

/-- Op 1. A refused write is code 3. -/
def execSubmitSysregWrite (tenant : BitVec 6) (s : State) : Out :=
  .next (s.submission tenant.toNat 1 fun b s =>
    match sysSpaceReg (subAddr b) with
    | none => (s, some 3)
    | some r =>
      match s.regWr (hostCaller tenant) r (BitVec.ofNat 64 (subVal b)) with
      | .error _ => (s, some 3)
      | .ok s => (s, some 0))

/-! ### Attestation (R258) -/

def byteVals (l : List Byte) : List Nat := l.map (·.toNat)

/-- The boot record (R257). -/
def ModuleState.bootRecord (m : ModuleState) : List Nat := (List.range 32).map m.bootByte

/-- Bytes 0-175 of a report. -/
def State.reportBody (s : State) (nonce : List Nat) : List Nat :=
  nonce ++ sha512 (byteVals s.mod.blob) ++ s.mod.bootRecord ++ [s.mod.present.toNat, 0] ++
    bytesOf 2 s.mod.podModule.toNat ++ [0, 0, 0, 0] ++ bytesOf 8 s.beat.toNat ++ identityPublic

def State.report (s : State) (nonce : List Nat) : List Nat :=
  let b := s.reportBody nonce
  b ++ edSign (bytesOf 32 Config.identitySecret.toNat) (sha512 b) ++ List.replicate 16 0

/-- Op 2; the report waits while a snapshot has still to copy its chunk (R260). -/
def execSubmitAttestation (tenant : BitVec 6) (s : State) : Out :=
  .next (s.submission tenant.toNat 2 fun b s =>
    if subAddr b % 256 != 0 then (s, some 4)
    else match s.writeVa (s.hwWho tenant.toNat) (subAddr b) (s.report ((b.drop 32).take 32)) with
      | .error _ => (s, some 4)
      | .ok t =>
        match s.heldVa (s.hwWho tenant.toNat) (subAddr b) 256 with
        | some k => (s.hurryChunk k, none)
        | none => (t, some 0))

/-! ### Boot (R255-R257, DESIGN CHOICE, log 12) -/

/-- The body of a valid blob. -/
def blobBody (flash : List Byte) : Option (List Byte) :=
  let b := byteVals flash
  let body := (flash.drop 128).take (fieldOf b 4 4)
  if flash.length < 128 + fieldOf b 4 4 || fieldOf b 72 56 != 0 ||
      !edVerify (bytesOf 32 Config.vendorKey.toNat) (sha512 (byteVals body)) ((b.drop 8).take 64) then none
  else some body

def ModuleState.step (m : ModuleState) (i : Nat) : Nat := (m.boot.at i 0).toNat % 4
def ModuleState.setStep (m : ModuleState) (i n : Nat) : ModuleState := { m with boot := m.boot.put i (BitVec.ofNat 8 n) }

/-- A step found started or failed counts as failed. -/
def ModuleState.failedBefore (m : ModuleState) (i : Nat) : Bool := m.step i == 1 || m.step i == 3

/-- What a step comes to when it runs. -/
inductive BootOutcome where
  | pass | fail | hang
  deriving DecidableEq, Repr

/-- How a boot goes on: with the next step, with another boot after a failure that has an alternative, or not at all. -/
inductive BootEnd where
  | on | again | halt
  deriving DecidableEq, Repr

/-- Step `i` + 1, with what it does and its alternative, if it has one (R256, R257). A step found started or failed counts as failed: its
alternative is taken. Else it is marked started, runs, and is marked passed or failed; one that hangs stays started. -/
def bootStep (i : Nat) (outcome : BootOutcome) (pass : State → State) (alt : State → Option State) (x : State × BootEnd) :
    State × BootEnd :=
  let halted (s : State) : State := s.updMod fun m => { m with halted := true }
  if x.2 != .on then x
  else if x.1.mod.failedBefore i then
    match alt x.1 with
    | some s => (s.updMod (·.setStep i 7), .on)
    | none => (halted (x.1.updMod (·.setStep i 3)), .halt)
  else match outcome with
    | .hang => (halted (x.1.updMod (·.setStep i 1)), .halt)
    | .pass => ((pass x.1).updMod (·.setStep i 2), .on)
    | .fail =>
      let s := x.1.updMod (·.setStep i 3)
      if (alt x.1).isSome then (s, .again) else (halted s, .halt)

/-- Pairs of dies that a UCIe link may join, and the links that a free value names as failing. -/
def linkPairs : List (BitVec 2 × BitVec 2) := [(0, 1), (0, 2), (0, 3), (1, 2), (1, 3), (2, 3)]

/-- The alternatives of steps 7 and 8: each failing link is down, each failing port stays down. Which fail is free. -/
def State.failLinks (s : State) : State :=
  let (v, s) := s.draw
  s.updMod fun m => { m with linkDown := (linkPairs.zipIdx.filter fun p => v.testBit p.2).map (·.1) }

def State.failPorts (s : State) : State :=
  let (v, s) := s.draw
  s.updMod fun m => { m with portsUp := m.portsUp &&& ~~~(BitVec.ofNat 32 v) }

def State.excludeDie (s : State) (d : Nat) : State :=
  s.updMod fun m =>
    { m with present := m.present &&& ~~~(BitVec.ofNat 4 (2 ^ d)), portsUp := m.portsUp &&& ~~~(BitVec.ofNat 32 (255 * 2 ^ (8 * d))) }

def State.useBlob (s : State) (b : List Byte) : State := s.updMod fun m => { m with blob := b, podModule := Config.blobPod b }

/-- Without die 0 and die 1 there is no host port. -/
def haltPortless (x : State × BootEnd) : State × BootEnd :=
  if x.2 != .on || x.1.mod.present.getLsbD 0 || x.1.mod.present.getLsbD 1 then x
  else (x.1.updMod fun m => { m with halted := true }, .halt)

/-- What the launch of the firmware would read in a launch record: its image and argument, and no more. -/
def firmwareRecord (f : Firmware) : List Nat := bytesOf 8 f.image ++ bytesOf 8 f.args ++ List.replicate 48 0

/-- The firmware of a blob body starts as a job of tenant 0 at level M, on the lowest core of the lowest die present (R256 step 9, R424); no
launch record stands behind it. How it comes into memory is the blob's (DESIGN CHOICE, log 12). -/
def State.runFirmware (s : State) (body : List Byte) : State :=
  let f := Config.firmware body
  let s := s.updMod fun m => { m with firmware := body }
  let s := s.updTenant 0 fun x => { x with maps := f.pages.map fun p => ⟨p.1, p.2, 4096, true, true, true⟩ }
  match s.maskCores (BitVec.allOnes 256), s.writeVa (s.hwWho 0) f.image (byteVals f.bytes) with
  | c :: _, .ok s =>
    match s.readVa (s.hwWho 0) f.image 64 with
    | .error _ => s
    | .ok d =>
      match s.readImage 0 noQueue 0 (firmwareRecord f) d (bytesOf 32 (2 ^ 256 - 1)) with
      | .error _ => s
      | .ok x => s.startJob c { launchJob 0 2 noQueue 0 (firmwareRecord f) x with placed := s.steps, start := s.beat.toNat } x
  | _, _ => s

/-- The firmware of the blob in use, and of the other slot's (R256 step 9). -/
def State.startFirmware (s : State) : State := s.runFirmware s.mod.blob
def State.otherFirmware (s : State) : Option State :=
  (blobBody (if s.mod.boot.at 0 0 == 7 then s.mod.flashA else s.mod.flashB)).map s.runFirmware

def bootOutcome (f : BootFaults) (i : Nat) : BootOutcome :=
  if f.hanging.getLsbD i then .hang else if f.failing.getLsbD i then .fail else .pass

/-- One boot, from a module right after reset. -/
def State.bootOnce (s : State) (f : BootFaults) : State × BootEnd :=
  let out := bootOutcome f
  let s := s.updMod fun m => { m with bootCount := m.bootCount + 1, boot := if m.bootClear then [] else m.boot, bootClear := false }
  let x := bootStep 0 (if out 0 == .pass && (blobBody s.mod.flashA).isNone then .fail else out 0)
    (fun s => s.useBlob ((blobBody s.mod.flashA).getD [])) (fun s => (blobBody s.mod.flashB).map s.useBlob) (s, .on)
  let x := bootStep 1 (out 1) id (fun _ => none) x
  let bringUp (x : State × BootEnd) (d : Nat) := bootStep (2 + d) (out (2 + d)) id (fun s => some (s.excludeDie d)) x
  let x := bringUp (bringUp (haltPortless (bringUp (bringUp x 0) 1)) 2) 3
  let x := bootStep 6 (out 6) id (fun s => some s.failLinks) x
  let x := bootStep 7 (out 7) id (fun s => some s.failPorts) x
  bootStep 8 (out 8) State.startFirmware State.otherFirmware x

/-- Boots of the module until one ends: a failure that has an alternative makes the controller boot again, and that boot takes the
alternative (DESIGN CHOICE, log 12). -/
def State.bootModule (f : BootFaults) : Nat → State → State
  | 0, s => s
  | n + 1, s =>
    let x := s.bootOnce f
    if x.2 == .again then State.bootModule f n x.1.moduleReset else x.1

/-- Each of the nine steps fails once at most. -/
def State.powerOn (s : State) (f : BootFaults) : State := State.bootModule f 10 s.moduleReset

def execPowerOnBoot (failing : BootFaults) (s : State) : Out := .next (s.powerOn failing)

/-- Op 5: the module is reset and boots, with what its boot record holds and no new failure (DESIGN CHOICE, log 12). -/
def execMkctlModuleReset (die : BitVec 2) (s : State) : Out :=
  match s.mkRequest die.toNat 5 with
  | none => .next s
  | some _ => .next (s.powerOn ⟨0, 0⟩)

end Sys2Proof.Machine
end

