-- ==== Sys2Proof/Machine/Checkpoint.lean ====
section
/-! DEFINITION. Checkpoints (R259-R262): snapshots to the buddy and to local slots, restore, and discard. -/

namespace Sys2Proof.Machine

/-! ### Regions and slots (R259) -/

def insertNat (x : Nat) : List Nat → List Nat
  | [] => [x]
  | y :: r => if x ≤ y then x :: y :: r else y :: insertNat x r

/-- Declared regions in use. -/
def State.regions (s : State) : List (Nat × Nat) :=
  (List.range 64).filterMap fun i =>
    let r := regionOf (s.mod.ckreg.at i 0)
    if r.2 == 0 then none else some r

/-- The regions' chunks in ascending order. -/
def regionChunks (l : List (Nat × Nat)) : List Nat :=
  (l.flatMap fun r => (List.range (r.2 / 65536)).map (r.1 / 65536 + ·)).foldr insertNat []

def disjoint : List (Nat × Nat) → Bool
  | [] => true
  | r :: l => l.all (fun x => !overlaps r.1 r.2 x.1 x.2) && disjoint l

/-- Base of a slot of the receive area here. -/
def State.slotBase (s : State) (k : Nat) : Nat := s.mod.ckarea.toNat + k * s.mod.ckslot * 65536

/-- The buddy is this module itself. -/
def State.ownBuddy (s : State) : Bool := [0, 1, 2, 3].any fun d => s.present d && (s.die d).fabid == s.mod.ckbuddy && s.mod.ckbuddy != 0xFFFF

/-- Base of a slot at the buddy, whose area only the buddy knows (DESIGN CHOICE, log 35). -/
def State.buddyBase (s : State) (k : Nat) : Nat :=
  if s.ownBuddy then s.slotBase k else Config.buddyArea s.mod.ckbuddy + k * s.mod.ckslot * 65536

/-- Regions that a snapshot can take; local slots lie in home memory (DESIGN CHOICE, log 35). -/
def State.regionsOk (s : State) : Bool :=
  let l := s.regions
  disjoint l && l.all (fun r => s.inHome r.1 r.2) && (regionChunks l).length + 1 ≤ s.mod.ckslot &&
    (!s.mod.cklocal || s.inHome (s.slotBase 2) (2 * s.mod.ckslot * 65536))

/-- A header's fields before its flag (DESIGN CHOICE, log 35): owner, step, chunks, CRC. -/
def headerFields (pod step chunks : Nat) (crc : Word) : List Nat :=
  bytesOf 4 pod ++ bytesOf 4 step ++ bytesOf 8 chunks ++ bytesOf 8 crc.toNat

/-- The place of the complete flag in a header. -/
def flagAt : Nat := 24

/-! ### Snapshots (R260, R261) -/

def State.updSnap (s : State) (f : Snapshot → Snapshot) : State := s.updMod fun m => { m with snap := m.snap.map f }

def State.failSnap (s : State) (code : Nat) : State := (s.updMod fun m => { m with snap := none, ckst := code }).performHeld

/-- One message to the buddy, of a chunk or of a header; where it may not leave, the buddy is unreachable. -/
def State.buddyMessage (s : State) (d : Nat) (chunk : Option Nat) (va : Nat) (data : List Nat) : State :=
  if s.mod.snap.isNone then s
  else if !s.mayLeave d 0 s.mod.ckbuddy then s.failSnap 4
  else
    let (id, s) := s.nextMsgid d
    let cls := s.mod.ckcls.toNat
    (s.updSnap fun p => { p with awaiting := p.awaiting ++ [(id, chunk)] }).sendMsg d
      { msgid := id, src := (s.die d).fabid, dst := s.mod.ckbuddy, pkey := s.tenantKey d 0, tenant := 0, corr := 0, va := BitVec.ofNat 64 va,
        cls := BitVec.ofNat 6 cls, data := data, m := s.rateM d cls, dl := s.rateDl d cls, sent := s.beat.toNat, retrans := false, origin := none }

/-- Bytes go to the buddy in messages of at most `kmax` fragments. -/
def State.sendBuddy (s : State) (chunk : Option Nat) (va : Nat) (data : List Nat) : State :=
  if s.mod.ckbuddy == 0xFFFF then s
  else match s.sendingDie with
    | none => s.failSnap 4
    | some d =>
      let n := s.rateKmax d s.mod.ckcls.toNat * 512
      (chunksOf n data.length data).zipIdx.foldl (fun s (b, i) => s.buddyMessage d chunk (va + i * n) b) s

/-- A snapshot starts: every chunk is pending, and the flag of the slot to be written is cleared. -/
def State.startSnapshot (s : State) : State :=
  if !s.regionsOk then s.updMod fun m => { m with ckst := 3 }
  else
    let (v, s) := s.draw
    let k := match s.mod.newestSlot with
      | some n => 1 - n
      | none => v % 2
    let l := regionChunks s.regions
    let s := s.updMod fun m =>
      { m with ckst := 1, snap := some ⟨m.ckstep, l, l, [], [], k, [], 0, []⟩ }
    let s := if s.mod.cklocal then s.writeLoc (s.slotBase (2 + k) + flagAt) [0] else s
    s.sendBuddy none (s.buddyBase k) (List.replicate 64 0)

/-- The request written to `ckctl`, where its op is `op`. -/
def State.ckRequest (s : State) (op : Nat) : Option Word := s.mod.ckReq.filter fun v => bitsOf v.toNat 0 4 == op

def State.ckDone (s : State) (code : Nat) : State := s.updMod fun m => { m with ckReq := none, ckst := code }

/-- Op 1; during a snapshot it is refused. -/
def execCkctlSnapshot (s : State) : Out :=
  match s.ckRequest 1 with
  | none => .next s
  | some _ => if s.mod.snap.isSome then .next (s.ckDone 1) else .next (s.ckDone 1).startSnapshot

/-- Submission op 3: of tenant 0 only. -/
def execSubmitPreemptionNotice (tenant : BitVec 6) (s : State) : Out :=
  .next (s.submission tenant.toNat 3 fun _ s =>
    if tenant != 0 then (s, some 3) else if s.mod.snap.isSome then (s, some 5) else (s.startSnapshot, some 0))

/-- What a pending chunk held when the snapshot started. -/
def State.chunkBytes (s : State) (p : Snapshot) (c : Nat) : List Nat :=
  memReads ((p.before.find c).getD s.mem) (c * 65536) 65536

/-- The place of a chunk in its slot, after the header chunk. -/
def Snapshot.place (p : Snapshot) (c : Nat) : Nat := 65536 * (1 + p.chunks.idxOf c)

/-- The next pending chunk is copied to every destination: it stays pending until the buddy, where there is one, holds it (R260). -/
def State.copyPending (s : State) (p : Snapshot) (c : Nat) : State :=
  let b := s.chunkBytes p c
  let alone := s.mod.ckbuddy == 0xFFFF
  let s := s.updSnap fun p =>
    { p with pending := if alone then p.pending.filter (· != c) else p.pending, sent := if alone then p.sent else p.sent ++ [c]
             before := p.before.del c, phase := 1, crcs := p.crcs.put c (crc64 0 b) }
  let s := if s.mod.cklocal then s.writeLoc (s.slotBase (2 + p.slot) + p.place c) b else s
  s.sendBuddy (some c) (s.buddyBase p.slot + p.place c) b

def execCheckpointChunkCopy (s : State) : Out :=
  match s.mod.snap with
  | none => .next s
  | some p =>
    match p.pending.find? fun c => !p.sent.contains c with
    | none => .next s
    | some c => if p.phase == 0 && !p.awaiting.isEmpty then .next s else .next (s.copyPending p c).performHeld

/-- The CRC of the shard, from those of its chunks. -/
def Snapshot.crc (p : Snapshot) : Word :=
  p.chunks.foldl (fun acc c => crc64 acc (List.replicate 65536 0) ^^^ p.crcs.at c 0) 0

def State.headerOf (s : State) (p : Snapshot) : List Nat := headerFields s.mod.podModule.toNat p.step.toNat p.chunks.length p.crc

/-- The local header, then its flag; the regions hold the step. -/
def State.finishSnapshot (s : State) (p : Snapshot) : State :=
  let base := s.slotBase (2 + p.slot)
  let s := if s.mod.cklocal then (s.writeLoc base (s.headerOf p)).writeLoc (base + flagAt) [1] else s
  s.updMod fun m => { m with snap := none, ckst := 0, ckclean := true, cleanStep := p.step, newestSlot := some p.slot }

/-- Every chunk has arrived: the header goes out, its flag with it, and then the snapshot completes. -/
def execSnapshotComplete (s : State) : Out :=
  match s.mod.snap with
  | none => .next s
  | some p =>
    if !p.pending.isEmpty || !p.awaiting.isEmpty then .next s
    else if p.phase == 2 || s.mod.ckbuddy == 0xFFFF then .next (s.finishSnapshot p)
    else .next ((s.updSnap fun p => { p with phase := 2 }).sendBuddy none (s.buddyBase p.slot) (s.headerOf p ++ [1] ++ List.replicate 39 0))

/-! ### Restore and discard (R262) -/

def ckOwner (v : Word) : Nat := bitsOf v.toNat 16 13
def ckStepOf (v : Word) : Nat := bitsOf v.toNat 32 32
def ckFromBuddy (v : Word) : Bool := v.getLsbD 4

def State.header (s : State) (k : Nat) : List Nat := s.readLoc (s.slotBase k) 32

/-- Slots here that hold a shard of an owner. -/
def State.slotsOf (s : State) (owner : Nat) : List Nat :=
  [0, 1, 2, 3].filter fun k =>
    s.inHome (s.slotBase k) (s.mod.ckslot * 65536) && fieldOf (s.header k) 0 4 == owner && fieldOf (s.header k) 8 8 != 0

/-- A slot holds a step completely, with its CRC. -/
def State.slotHolds (s : State) (k step chunks : Nat) : Bool :=
  let h := s.header k
  fieldOf h 4 4 == step && fieldOf h 8 8 == chunks && fieldOf h flagAt 1 == 1 &&
    BitVec.ofNat 64 (fieldOf h 16 8) == crc64 0 (s.readLoc (s.slotBase k + 65536) (chunks * 65536))

/-- The regions take the bytes of a shard, chunk by chunk. -/
def State.fillRegions (s : State) (from_ : Nat → State → List Nat × State) : State :=
  (regionChunks s.regions).zipIdx.foldl (init := s) fun s (c, i) =>
    let (b, s) := from_ i s
    s.writeLoc (c * 65536) b

/-- Bytes that come from the buddy: what it holds no one here can tell. -/
def State.freeChunk (s : State) : List Nat × State :=
  ((List.range 65536).map fun i => Config.freeNat (s.fresh + i) % 256, { s with fresh := s.fresh + 65536 })

/-- Restore from one of some slots here: the one that holds exactly the step. -/
def State.restoreFrom (s : State) (l : List Nat) (step : Nat) : State :=
  match l.find? fun k => s.slotHolds k step (regionChunks s.regions).length with
  | some k =>
    let base := s.slotBase k
    (s.fillRegions fun i s => (s.readLoc (base + 65536 * (1 + i)) 65536, s)).ckDone 0
  | none => s.ckDone (if l.isEmpty then 2 else 3)

/-- Discard: the flags of some slots here are cleared (DESIGN CHOICE, log 35). -/
def State.discardFrom (s : State) (l : List Nat) : State :=
  if l.isEmpty then s.ckDone 2 else (l.foldl (fun s k => s.writeLoc (s.slotBase k + flagAt) [0]) s).ckDone 0

/-- The buddy is reached. -/
def State.buddyReached (s : State) : Bool :=
  s.mod.ckbuddy != 0xFFFF && s.sendingDie.any fun d => s.mayLeave d 0 s.mod.ckbuddy

/-- Restore from the buddy: whether it is heard, holds the owner's shard, and of which step, only the buddy can tell: a free value says
(DESIGN CHOICE, log 35). -/
def State.restoreBuddy (s : State) (v : Word) : State :=
  if s.ownBuddy then s.restoreFrom ((s.slotsOf (ckOwner v)).filter (· < 2)) (ckStepOf v)
  else if !s.buddyReached then s.ckDone 4
  else
    let (x, s) := s.draw
    if x % 4 == 0 then (s.fillRegions fun _ s => s.freeChunk).ckDone 0 else s.ckDone (x % 4 + 1)

/-- Discard at the buddy: as a free value says, it was done, there was no such shard, or the buddy was not heard (DESIGN CHOICE, log
35). -/
def State.discardBuddy (s : State) (v : Word) : State :=
  if s.ownBuddy then s.discardFrom ((s.slotsOf (ckOwner v)).filter (· < 2))
  else if !s.buddyReached then s.ckDone 4
  else
    let (x, s) := s.draw
    s.ckDone (if x % 3 == 0 then 0 else if x % 3 == 1 then 2 else 4)

def execCkctlRestore (s : State) : Out :=
  match s.ckRequest 2 with
  | none => .next s
  | some v =>
    if ckFromBuddy v then .next (s.restoreBuddy v)
    else if s.mod.ckclean && s.mod.cleanStep.toNat == ckStepOf v then .next (s.ckDone 0)
    else .next (s.restoreFrom (s.slotsOf (ckOwner v)) (ckStepOf v))

/-- Op 3: the flags of the owner's slots are cleared, here or at the buddy. -/
def execCkctlDiscard (s : State) : Out :=
  match s.ckRequest 3 with
  | none => .next s
  | some v => .next (if ckFromBuddy v then s.discardBuddy v else s.discardFrom (s.slotsOf (ckOwner v)))

end Sys2Proof.Machine
end

