-- ==== Sys2Proof/Machine/Reliability.lean ====
section
/-! DEFINITION. Scrubbing (R263, R264), error counts (R265), the audit's replay (R267), throttling bubbles (R269) and the debugger's
halts as events (R271). -/

namespace Sys2Proof.Machine

/-! ### Scrubbing (R263-R265) -/

/-- A corrected error is counted for its sub-array. -/
def DieState.countError (d : DieState) (i : Nat) : DieState := { d with mmcount := d.mmcount.upd i 0 fun n => min (n + 1) 0xFFFFFFFF }

/-- A location lies in one of the memories of a die that are scrubbed: face-bonded DRAM, LPDDR-6, or cluster SRAM, accumulator memory
and staging slices (R263). -/
def inMemory (d m k : Nat) : Bool :=
  let at_ (base n : Nat) : Bool := base ≤ k && k < base + n
  match m with
  | 0 => at_ (d * 2 ^ 40) (2 ^ 36)
  | 1 => at_ (d * 2 ^ 40 + 2 ^ 39) (2 ^ 39)
  | _ => at_ (sramKey (16 * d) 0) (16 * 2 ^ 21) || at_ (accKey (16 * d) 0) (16 * 2 ^ 21) ||
      (at_ (0xE000000000000 + 32 * d * 2 ^ 22) (32 * 2 ^ 22) && k % 2 ^ 22 < 3 * 2 ^ 20)

/-- A run of locations joins those covered. -/
def addRun (r : Nat × Nat) (l : List (Nat × Nat)) : List (Nat × Nat) :=
  let near (x : Nat × Nat) : Bool := x.1 ≤ r.2 && r.1 ≤ x.2
  let ns := l.filter near
  (ns.foldl (fun a x => (min a.1 x.1, max a.2 x.2)) r) :: l.filter (!near ·)

/-- A word is covered; a full pass is counted, and one past its deadline noted; whether the scrubber is behind follows (R263, R264). -/
def DieState.cover (d : DieState) (m word beat : Nat) : DieState :=
  let bit := BitVec.ofNat 3 (2 ^ m)
  let note (d : DieState) (b : Bool) : DieState := { d with behind := if b then d.behind ||| bit else d.behind &&& ~~~bit }
  let d := note d (d.isBehind m beat)
  let d := { d with covered := d.covered.put m (addRun (word, word + 8) (d.covered.at m [])) }
  let d := if d.scrubbed m < passBytes m then d
    else { d with covered := d.covered.put m [], passes := d.passes.upd m 0 fun p => min (p + 1) 0xFFFFFFFF
                  passStart := d.passStart.put m beat
                  late := if passDeadline m < d.scrubTime m beat then d.late ||| bit else d.late }
  note d (d.isBehind m beat)

/-- What a finding says of a word of a Tahr store (log 34): of the first or the second copy of a slot that it is uncorrectable, or that
the copies differ. -/
def Slot.damage (x : Slot) (k : Nat) : Slot :=
  match k with
  | 0 => { x with bad := x.bad ||| 1 }
  | 1 => { x with bad := x.bad ||| 2 }
  | 2 => { x with differ := true }
  | _ => x

/-- The scrubber reads a word: it is sound, corrected, or left as found and counted. Errors that others find come by the same event:
in a copy of an object (memory 3: slot and copy), on a lane of a link or a port (memory 4), or in a word that a demand read corrects
(memory 5) (DESIGN CHOICE, log 34). -/
def execScrubWord (die : BitVec 2) (memory : BitVec 3) (addr : Nat) (finding : ScrubFinding) (s : State) : Out :=
  let d := die.toNat
  let m := memory.toNat
  let w := addr / 8 * 8
  if !s.dieUp d then .next s
  else if m < 3 then
    if !inMemory d m addr then .next s
    else
      let s := s.updDie d (·.cover m w s.beat.toNat)
      match finding with
      | .clean => .next s
      | .corrected => .next (s.updDie d (·.countError (Config.subArray m addr)))
      | .uncorrectable =>
        let s := s.updDie d fun k => { k with ue := k.ue.upd m 0 fun n => min (n + 1) 0xFFFF }
        let s : State := { s with damaged := s.damaged.filter (· != w) ++ [w] }
        .next (s.event 0 (s.eventFrame 0x53 0 0 0))
  else match finding with
    | .clean => .next s
    | .corrected =>
      let m := if m == 5 then [0, 1, 2].find? fun i => inMemory d i addr else some m
      .next (m.elim s fun m => s.updDie d (·.countError (Config.subArray m addr)))
    | .uncorrectable =>
      if m != 3 || 65536 ≤ addr / 4 then .next s
      else .next (s.updDie d fun k => { k with tahr := k.tahr.upd (addr / 4) Slot.reset fun x => x.damage (addr % 4) })

/-- The counts are saved to flash once a minute. -/
def execMismatchSave (s : State) : Out :=
  if s.mod.mmSaved + 240000000 ≤ s.beat.toNat then
    .next (({ s with dies := s.dies.map fun (i, d) => (i, { d with mmflash := d.mmcount }) } : State).updMod fun m =>
      { m with mmSaved := s.beat.toNat })
  else .next s

/-! ### Audit (R267) -/

/-- The next cluster of the die, after another in ascending order and wrapping, whose array is free; the replay asks for its lease at the
lowest priority, so that no core's request waits for it. -/
def State.auditCluster (s : State) (cl : Nat) : Option Nat :=
  ((List.range 15).map fun i => cl / 16 * 16 + (cl + 1 + i) % 16).find? fun c =>
    (s.cluster c).lease.holder.isNone && (s.leaseWinner c).isNone

/-- The first audit of a die that satisfies `p` is rewritten or, as its units are freed, dropped. -/
def firstAudit (p : AuditLog → Bool) (f : AuditLog → Option AuditLog) : List AuditLog → List AuditLog
  | [] => []
  | a :: r => if p a then (f a).toList ++ r else a :: firstAudit p f r

/-- What the area holds of a log. -/
def State.readAudit (s : State) (a : AuditLog) : List Nat := a.place.flatMap fun u => s.readLoc (a.base + u * 4096) 4096

/-- Memory with the logged bytes where they were read from. -/
def State.loggedMem (s : State) (a : AuditLog) : List Host.Cell :=
  (a.start.parts.foldl (init := (s.mem, (s.readAudit a).drop 256)) fun (m, bs) p =>
    (p.1.elim m fun k => memWrites m k (bs.take p.2), bs.drop p.2)).1

/-- The machine that a replay computes in: the logged inputs, entry and record, on a cluster as the log has it, whose lease the replay
holds, perhaps after its own run was cut off (R124). Nothing of it reaches the machine itself but the signature (R161). -/
def State.replayState (s : State) (a : AuditLog) (cut : Bool) : State :=
  let c := a.core.toNat
  let x := a.start
  let r := if cut && isMx (cmdKind x.record.cmd) then { x.record with st := { x.record.st with kflags := x.record.st.kflags ||| 1 } } else x.record
  let ring : Ring := { slots := [(a.seq % 512, r)], acc := a.seq, ret := a.seq - 1 }
  let s : State := { s with mem := s.loggedMem a, damaged := []
                            clusters := s.clusters.put (clusterOf c) { x.cluster with cells := none, lease := { x.cluster.lease with ending := false } } }
  let s := (s.updMod fun m => { m with snap := none, heldWrites := [] }).updTenant a.tenant.toNat fun y =>
    { y with maps := x.maps, dir := x.entry.elim y.dir fun e => y.dir.put e.1 e.2, trmask := 0 }
  let s := s.updDie (dieOf c) fun d =>
    { d with supervisors := [], missTable := [], audits := [{ a with crc := 0, pending := [], original := none }] }
  (s.setCore c { CoreState.reset with job := some { x.job with gateOpen := true } }).updCore c fun k => k.setRing a.ring ring

/-- Between the passes of a replay its walks complete, and what it pushes into FIFOs is taken from them. -/
def State.replayServe (s : State) (core : Nat) : State :=
  let ms := (s.die (dieOf core)).missTable.map fun m => (m.1, m.2.1)
  let s := (s.updDie (dieOf core) fun d => { d with missTable := [] }).updCore core fun k => { k with tlb := k.tlb ++ ms }
  s.updCluster (clusterOf core) fun c => { c with banks := c.banks.map fun (b, x) =>
    (b, if x.mode == 3 then { x with head := x.tail, rd := x.tail } else x) }

def outState (s : State) : Out → State
  | .next t => t
  | _ => s

/-- One pass of the engines over the record of a replay: the next boundary, and its mark. -/
def State.replayPass (s : State) (core : BitVec 8) (q : RingId) (kind : Nat) : State :=
  let s := s.replayServe core.toNat
  let s := outState s
    (if kind == kCopy then execCopy core q s else if kind == kGcopy then execGcopy core q s else if kind == kMxd then execMxd core s
     else if kind == kMxc then execMxc core s else if kind == kMxl then execMxl core s else if kind == kMxr then execMxr core s
     else execMxdrn core s)
  let s := outState s (execTileCommit core s)
  outState s (execProgressMark core q s)

/-- The engines run the record of a replay to its last boundary, which gives the signature; none where it does not get there in `fuel`
passes. -/
def State.replayRun (s : State) (core : BitVec 8) (q : RingId) : Nat → Option Word
  | 0 => none
  | fuel + 1 =>
    match ((s.core core.toNat).ring q).head, (s.die (dieOf core.toNat)).audits with
    | some r, a :: _ =>
      if r.st.state != 7 then none
      else if r.finished then some (a.sign (if r.lastMark == 1 then r.marked s else r).st)
      else (s.replayPass core q (cmdKind r.cmd)).replayRun core q fuel
    | _, _ => none

/-- Passes that a replay has: a boundary takes one, or as many as a FIFO needs to take its entries. -/
def replayFuel (r : Rec) : Nat := 1024 * (r.boundaries + 1)

/-- The signature that the auditor computes from a log. Whether its lease run was cut off, and a signature that the log does not let it
compute, are free values (DESIGN CHOICE, log 84). -/
def State.replayed (s : State) (a : AuditLog) : Word × State :=
  let (v, s) := s.draw
  (((s.replayState a (v.testBit 64)).replayRun a.core a.ring (replayFuel a.start.record)).getD (BitVec.ofNat 64 v), s)

/-- A retired record is replayed from its log (R267). -/
def execAuditReplay (die : BitVec 2) (s : State) : Out :=
  let d := die.toNat
  let ready (a : AuditLog) : Bool := a.original.isSome && a.replay.isNone
  match (s.die d).audits.find? ready with
  | none => .next s
  | some a =>
    match s.auditCluster (clusterOf a.core.toNat) with
    | none => .next s
    | some c =>
      let (w, s) := s.replayed a
      .next (s.updDie d fun k => { k with audits := firstAudit ready (fun a => some { a with replay := some (c, w) }) k.audits })

/-- The signatures are compared; a difference is event 0x50. -/
def execAuditCompare (die : BitVec 2) (s : State) : Out :=
  let d := die.toNat
  let done (a : AuditLog) : Bool := a.replay.isSome
  match (s.die d).audits.find? done with
  | none => .next s
  | some a =>
    let s := s.updDie d fun k => { k with audits := firstAudit done (fun _ => none) k.audits }
    match a.replay with
    | some (c, w) =>
      if a.original == some w then .next s
      else .next (s.event 0 { s.eventFrame 0x50 0 0 a.tenant.toNat with
        seq := a.seq, corr := a.corr, aux0 := clusterOf a.core.toNat, aux1 := c })
    | none => .next s

/-! ### Debugger halts (R271) -/

def execDbgSoftHalt (core : BitVec 8) (s : State) : Out := .next (s.haltCore core.toNat 1 0)
def execDbgHardHalt (core : BitVec 8) (s : State) : Out := .next (s.haltCore core.toNat 2 0)
def execDbgPreciseHalt (core : BitVec 8) (level : BitVec 4) (s : State) : Out := .next (s.haltCore core.toNat 3 level.toNat)
def execDbgResume (core : BitVec 8) (s : State) : Out := .next (s.unhaltCore core.toNat)

/-! ### Throttling (R269) -/

/-- Every core clock of the module stops for some cycles: `beat` runs on, `tick` does not. -/
def execThrottlingBubble (cycles : Nat) (s : State) : Out :=
  .next { s with beat := s.beat + BitVec.ofNat 64 ((s.cycle + cycles) / 300), cycle := (s.cycle + cycles) % 300 }

end Sys2Proof.Machine
end

