-- ==== Sys2Proof/Machine/Acts.lean ====
section
/-! DEFINITION. What a step does around `exec`: time passes (DESIGN CHOICE, log 2) and one agent is chosen (DESIGN CHOICE, log 1), from the script or, with no
script, in rotation among the acts that the state gives. -/

namespace Sys2Proof.Machine

/-- The acts of a command record and its ring, in the order of R110. -/
def recordActs (c : BitVec 8) (r : RingId) (kind : Nat) : List Choice :=
  [.event (.chainModeEnter c r), .event (.chainFetch c r), .event (.recordFetch c r), .event (.recordWaitsSatisfied c r),
   .event (.recordOrderSatisfied c r), .event (.permitGrant c r), .event (.recordTokenPop c r)] ++
  (match kind with
   | 0x3D => [.event (.null c r)]
   | 0x10 => [.event (.mxd c), .event (.tileCommit c)]
   | 0x11 => [.event (.mxc c), .event (.tileCommit c)]
   | 0x12 => [.event (.mxl c), .event (.tileCommit c)]
   | 0x13 => [.event (.mxr c), .event (.tileCommit c)]
   | 0x14 => [.event (.mxdrn c)]
   | 0x01 => [.event (.copy c r)]
   | 0x02 => [.event (.gcopy c r)]
   | 0x03 => [.event (.mcast c r)]
   | 0x30 => [.event (.coll c), .event (.collTimeout c)]
   | 0x3E => [.event (.link c r)]
   | 0x3F => [.event (.note c r)]
   | _ => []) ++ [.event (.progressMark c r), .event (.recordRetire c r), .event (.recordStallStop c r)]

/-- The acts that may come next on a core with a job. -/
def State.coreActs (s : State) (core : Nat) : List Choice :=
  let c := BitVec.ofNat 8 core
  let k := s.core core
  [.stream c .c, .stream c .a, .stream c .x] ++
    ([RingId.l, .k, .s, .g].flatMap fun r =>
      match (k.ring r).head with
      | some x => recordActs c r (vecBits (x.seg.getD x.bytes) 0 8)
      | none => if (k.chain r).mode || (k.chain r).link.isSome then [.event (.chainModeEnter c r), .event (.chainFetch c r)] else []) ++
    [.event (.pauseExpire c .c), .event (.pauseExpire c .a), .event (.idleTimeout c), .event (.mwaitTimeout c),
     .event (.fencescCompletion c .c), .event (.fencescCompletion c .a), .event (.fencescCompletion c .x),
     .event (.unregisteredRecheck c .c), .event (.unregisteredRecheck c .a), .event (.unregisteredRecheck c .x),
     .event (.addressQueueFault c), .event (.queueDeadlockTrap c), .event (.copyShareSplit c), .event (.jobComplete c),
     .event (.preempt c), .event (.preemptSave c), .event (.watchdogAlarm (.copy c)), .event (.watchdogAlarm (.vec c))]

/-- The acts of a cluster: its lease, its array, and modes that wait. -/
def clusterActs (cl : Nat) (x : ClusterState) : List Choice :=
  let c := BitVec.ofNat 6 cl
  [.event (.leaseRunTimeout c), .event (.leasePermitStall c), .event (.watchdogAlarm (.array c))] ++
    (x.banks.filter fun b => b.2.pend.isSome || !b.2.line.isEmpty).map fun b => .event (.bankmApply c (BitVec.ofNat 6 b.1))

/-- The scrub reset of an engine that has had none in its period (R226). -/
def State.scrubActs (s : State) (es : List EngineId) : List Choice :=
  (es.filter s.scrubDue).map fun e => .event (.scrubResetDue e)

/-- The engines of a die (R223). -/
def dieEngines (d : Nat) : List EngineId :=
  .coll (BitVec.ofNat 2 d) :: ((dieClusters d).map fun c => .array (BitVec.ofNat 6 c)) ++
    (dieCores d).flatMap fun c => [.copy (BitVec.ofNat 8 c), .vec (BitVec.ofNat 8 c)]

/-- The next idle engine that is due, of those that nothing has used yet with the others. -/
def State.idleScrub (s : State) : List Choice :=
  (((([0, 1, 2, 3].filter s.dieUp).flatMap dieEngines).find? fun e => (s.sup e).state == 0 && s.scrubDue e && s.engineIdle e).map fun e =>
    .event (.scrubResetDue e)).toList

/-- The acts of a reset under way. -/
def supActs (x : Supervisor) : List Choice :=
  match x.state with
  | 1 => [.event (.markhorDrainDone x.engine)]
  | 2 => [.event (.markhorHoldExpire x.engine)]
  | 3 => [.event (.markhorReload x.engine true)]
  | _ => []

/-- The acts that may come next on a die. -/
def dieActs (d : BitVec 2) (x : DieState) : List Choice :=
  [.event (.counterPostPerform d), .event (.postRefusalReturn d), .event (.tahrForward d), .event (.objAlloc d), .event (.objFree d),
   .event (.objRearm d), .event (.map d), .event (.unmap d), .event (.changePermissions d), .event (.mapShootdownDone d),
   .event (.tlbWalkComplete d), .event (.routeSwap d), .event (.auditReplay d), .event (.auditCompare d),
   .event (.mkctlEngineReset d), .event (.mkctlCoreReset d), .event (.mkctlDieWarmReset d), .event (.mkctlTenantReset d),
   .event (.mkctlModuleReset d), .event (.dieQuiesceDone d), .event (.dieWritebackDone d), .event (.dieResetDone d),
   .event (.dieRetrainDone d), .event (.dieReadmit d), .event (.watchdogAlarm (.coll d))] ++
    (x.supervisors.flatMap supActs) ++
    (x.ctxs.flatMap fun c => [.event (.recvNackDeadline d c.src c.msgid), .event (.recvAbandonDeadline d c.src c.msgid)]) ++
    x.kept.flatMap fun m => [.event (.sendRetransmitTimeout d m.msgid), .event (.sendLossTimeout d m.msgid)]

/-- The acts of a launch queue: presented records are placed, gates open or are cancelled. -/
def queueActs (t : BitVec 6) (q : Nat) (l : LaunchQueue) : List Choice :=
  (l.waiting ++ (l.progress.filter fun p => p.2.taken).map (·.1)).flatMap fun n =>
    let q := BitVec.ofNat 3 q
    let n := BitVec.ofNat 32 n
    [.event (.launchPlace t q n), .event (.gangGateOpen t q n), .event (.gangCancel t q n)]

/-- The acts that may come next for a tenant. -/
def tenantActs (t : Nat) (x : TenantState) : List Choice :=
  let w := BitVec.ofNat 6 t
  (x.lqs.flatMap fun (q, l) => queueActs w q l) ++
    (if x.outbox.isEmpty then [] else [.event (.faultQueueCopy w)]) ++
    (if x.entries.isEmpty then [] else [.event (.hostCompletionEntry w)]) ++
    if x.hsHeld.isEmpty && x.hsqtail ≤ x.hsacc then [] else
      [.event (.submitSysregWrite w), .event (.submitAttestation w), .event (.submitPreemptionNotice w)]

/-- The acts that may come next at the module. -/
def State.moduleActs (s : State) : List Choice :=
  [.event .portNotice, .event .mismatchSave] ++
    (if s.mod.ckReq.isSome then [.event .ckctlSnapshot, .event .ckctlRestore, .event .ckctlDiscard] else []) ++
    (if s.mod.snap.isSome then [.event .checkpointChunkCopy, .event .snapshotComplete] else []) ++
    s.mod.saved.flatMap fun x => (s.savedCores x).map fun c => .event (.restore x.id (BitVec.ofNat 8 c))

/-- Every act that the state itself gives; what comes from outside comes by the script. -/
def State.acts (s : State) : List Choice :=
  (s.cores.flatMap fun (c, k) =>
    (if k.job.isSome then s.coreActs c else []) ++ s.scrubActs [.copy (BitVec.ofNat 8 c), .vec (BitVec.ofNat 8 c)] ++
      if k.resetting.isSome then [.event (.coreResetComplete (BitVec.ofNat 8 c) true)] else []) ++
    (s.clusters.flatMap fun (c, x) => clusterActs c x ++ s.scrubActs [.array (BitVec.ofNat 6 c)]) ++
    ([0#2, 1#2, 2#2, 3#2].flatMap fun d =>
      if s.present d.toNat then dieActs d (s.die d.toNat) ++ s.scrubActs [.coll d] else []) ++
    (s.tenants.flatMap fun (t, x) => tenantActs t x) ++ s.idleScrub ++ s.moduleActs

/-- The next act: the head of the script, or, with no script, the acts in rotation, where there are any. -/
def State.choose (s : State) : Option Choice × State :=
  match s.script with
  | c :: r => (some c, { s with script := r })
  | [] =>
    let l := s.acts
    (l[s.rotor % l.length]?, { s with rotor := (s.rotor + 1) % l.length })

/-- A halted module boots, and answers the host with its boot record (R256). -/
def bootAnswer : Choice → Bool
  | .event (.powerOnBoot _) => true
  | .event (.systemSpaceAccess _ addr write _) =>
    !write && (sysSpaceReg addr.toNat).any fun r => r.space == 4 && 0x10 ≤ r.index && r.index ≤ 0x13
  | _ => false

/-- What a step comes to: an instruction, stage or event to execute, nothing more, or a halted module. -/
inductive Turn where
  | run (f : Fetched)
  | dead
  deriving DecidableEq, Repr

/-- An act of the chosen agent. -/
def State.turn (s : State) : Turn :=
  match s.elapse.choose with
  | (none, s) => if s.mod.halted then .dead else .run (.none s)
  | (some c, s) =>
    if s.mod.halted && !bootAnswer c then .dead
    else match c with
      | .stream c l => .run (s.fetch c l)
      | .event i => .run (if i.isLane then .none s else .instr i s)

end Sys2Proof.Machine
end

