-- ==== Sys2Proof/Machine/Dispatch.lean ====
section
/-! DEFINITION. One arm per instruction, command kind and event: a direct call of its meaning. -/

namespace Sys2Proof.Machine

/-- The effect of one instruction, record stage or event (R275, R102, R318). -/
def exec (i : Instr) (s : State) : Host.Outcome State Fault Refusal :=
  match i with
  | .add g d a b => Sys2Proof.Machine.execAdd g d a b s
  | .sub g d a b => Sys2Proof.Machine.execSub g d a b s
  | .and g d a b => Sys2Proof.Machine.execAnd g d a b s
  | .or g d a b => Sys2Proof.Machine.execOr g d a b s
  | .xor g d a b => Sys2Proof.Machine.execXor g d a b s
  | .andn g d a b => Sys2Proof.Machine.execAndn g d a b s
  | .shl g d a b => Sys2Proof.Machine.execShl g d a b s
  | .shr g d a b => Sys2Proof.Machine.execShr g d a b s
  | .sar g d a b => Sys2Proof.Machine.execSar g d a b s
  | .min g d a b => Sys2Proof.Machine.execMin g d a b s
  | .minn g d a b => Sys2Proof.Machine.execMinn g d a b s
  | .max g d a b => Sys2Proof.Machine.execMax g d a b s
  | .maxn g d a b => Sys2Proof.Machine.execMaxn g d a b s
  | .mov g d a => Sys2Proof.Machine.execMov g d a s
  | .clz g d a => Sys2Proof.Machine.execClz g d a s
  | .ctz g d a => Sys2Proof.Machine.execCtz g d a s
  | .popc g d a => Sys2Proof.Machine.execPopc g d a s
  | .sel g d a b => Sys2Proof.Machine.execSel g d a b s
  | .mul g d a b => Sys2Proof.Machine.execMul g d a b s
  | .mulh g d a b => Sys2Proof.Machine.execMulh g d a b s
  | .mulhn g d a b => Sys2Proof.Machine.execMulhn g d a b s
  | .div g d a b => Sys2Proof.Machine.execDiv g d a b s
  | .divn g d a b => Sys2Proof.Machine.execDivn g d a b s
  | .rem g d a b => Sys2Proof.Machine.execRem g d a b s
  | .remn g d a b => Sys2Proof.Machine.execRemn g d a b s
  | .addi g d a imm => Sys2Proof.Machine.execAddi g d a imm s
  | .andi g d a imm => Sys2Proof.Machine.execAndi g d a imm s
  | .ori g d a imm => Sys2Proof.Machine.execOri g d a imm s
  | .xori g d a imm => Sys2Proof.Machine.execXori g d a imm s
  | .shli g d a s1 => Sys2Proof.Machine.execShli g d a s1 s
  | .shri g d a s1 => Sys2Proof.Machine.execShri g d a s1 s
  | .sari g d a s1 => Sys2Proof.Machine.execSari g d a s1 s
  | .funl g d a b s1 => Sys2Proof.Machine.execFunl g d a b s1 s
  | .funr g d a b s1 => Sys2Proof.Machine.execFunr g d a b s1 s
  | .cmp g c t a b w k => Sys2Proof.Machine.execCmp g c t a b w k s
  | .cmpi g c t a k imm => Sys2Proof.Machine.execCmpi g c t a k imm s
  | .li g d imm => Sys2Proof.Machine.execLi g d imm s
  | .lui g d imm => Sys2Proof.Machine.execLui g d imm s
  | .plog g t a b e => Sys2Proof.Machine.execPlog g t a b e s
  | .adda g d a b => Sys2Proof.Machine.execAdda g d a b s
  | .mova g d a => Sys2Proof.Machine.execMova g d a s
  | .movs g d a => Sys2Proof.Machine.execMovs g d a s
  | .addai g d a imm => Sys2Proof.Machine.execAddai g d a imm s
  | .fadd g d a b t => Sys2Proof.Machine.execFadd g d a b t s
  | .fsub g d a b t => Sys2Proof.Machine.execFsub g d a b t s
  | .fmul g d a b t => Sys2Proof.Machine.execFmul g d a b t s
  | .fmin g d a b t => Sys2Proof.Machine.execFmin g d a b t s
  | .fmax g d a b t => Sys2Proof.Machine.execFmax g d a b t s
  | .fclass g d a t => Sys2Proof.Machine.execFclass g d a t s
  | .ffma g d a b t => Sys2Proof.Machine.execFfma g d a b t s
  | .fcmp g c u a b t k => Sys2Proof.Machine.execFcmp g c u a b t k s
  | .fcvt g d a s1 t y r => Sys2Proof.Machine.execFcvt g d a s1 t y r s
  | .br g l o => Sys2Proof.Machine.execBr g l o s
  | .jmp l o => Sys2Proof.Machine.execJmp l o s
  | .call g l o => Sys2Proof.Machine.execCall g l o s
  | .jmpi g a => Sys2Proof.Machine.execJmpi g a s
  | .ret g => Sys2Proof.Machine.execRet g s
  | .retA g => Sys2Proof.Machine.execRetA g s
  | .calli g a => Sys2Proof.Machine.execCalli g a s
  | .brx g l o => Sys2Proof.Machine.execBrx g l o s
  | .brq q n l o => Sys2Proof.Machine.execBrq q n l o s
  | .loop g imm s1 a st => Sys2Proof.Machine.execLoop g imm s1 a st s
  | .endl g imm m => Sys2Proof.Machine.execEndl g imm m s
  | .ld g d a c z o => Sys2Proof.Machine.execLd g d a c z o s
  | .lds g d a c z o => Sys2Proof.Machine.execLds g d a c z o s
  | .st g d a c z o => Sys2Proof.Machine.execSt g d a c z o s
  | .ldq g q a c o => Sys2Proof.Machine.execLdq g q a c o s
  | .stq g a c z o => Sys2Proof.Machine.execStq g a c z o s
  | .vadd k d a b t => Sys2Proof.Machine.execVadd k d a b t s
  | .vsub k d a b t => Sys2Proof.Machine.execVsub k d a b t s
  | .vmul k d a b t => Sys2Proof.Machine.execVmul k d a b t s
  | .vmin k d a b t => Sys2Proof.Machine.execVmin k d a b t s
  | .vmax k d a b t => Sys2Proof.Machine.execVmax k d a b t s
  | .vabs k d a t => Sys2Proof.Machine.execVabs k d a t s
  | .vneg k d a t => Sys2Proof.Machine.execVneg k d a t s
  | .vfma k d a b t => Sys2Proof.Machine.execVfma k d a b t s
  | .vshl k d a b t => Sys2Proof.Machine.execVshl k d a b t s
  | .vshr k d a b t => Sys2Proof.Machine.execVshr k d a b t s
  | .vsar k d a b t => Sys2Proof.Machine.execVsar k d a b t s
  | .lut3 m d a b imm => Sys2Proof.Machine.execLut3 m d a b imm s
  | .vfunl m d a b s1 => Sys2Proof.Machine.execVfunl m d a b s1 s
  | .vfunr m d a b s1 => Sys2Proof.Machine.execVfunr m d a b s1 s
  | .vcmp m d a b t c => Sys2Proof.Machine.execVcmp m d a b t c s
  | .vsel m d a b => Sys2Proof.Machine.execVsel m d a b s
  | .vcvt k d a s1 u y r => Sys2Proof.Machine.execVcvt k d a s1 u y r s
  | .vcvtbInto e d a t f r => Sys2Proof.Machine.execVcvtbInto e d a t f r s
  | .vcvtbOut d a t f r => Sys2Proof.Machine.execVcvtbOut d a t f r s
  | .vred m d a t o => Sys2Proof.Machine.execVred m d a t o s
  | .vscan k d a t o => Sys2Proof.Machine.execVscan k d a t o s
  | .vtopk m d a b t p => Sys2Proof.Machine.execVtopk m d a b t p s
  | .vperm k d a b t => Sys2Proof.Machine.execVperm k d a b t s
  | .vbcst k d a t => Sys2Proof.Machine.execVbcst k d a t s
  | .viota k d t => Sys2Proof.Machine.execViota k d t s
  | .vext d a b t => Sys2Proof.Machine.execVext d a b t s
  | .vins d a b t => Sys2Proof.Machine.execVins d a b t s
  | .vexp2 k d a t => Sys2Proof.Machine.execVexp2 k d a t s
  | .vlog2 k d a t => Sys2Proof.Machine.execVlog2 k d a t s
  | .vrcp k d a t => Sys2Proof.Machine.execVrcp k d a t s
  | .vrsq k d a t => Sys2Proof.Machine.execVrsq k d a t s
  | .vrnd k d => Sys2Proof.Machine.execVrnd k d s
  | .vpopc k d a t => Sys2Proof.Machine.execVpopc k d a t s
  | .vclz k d a t => Sys2Proof.Machine.execVclz k d a t s
  | .vmask k d a t => Sys2Proof.Machine.execVmask k d a t s
  | .vld k g d a c o => Sys2Proof.Machine.execVld k g d a c o s
  | .vst k g d a c o => Sys2Proof.Machine.execVst k g d a c o s
  | .kclr g k => Sys2Proof.Machine.execKclr g k s
  | .kset g k w s1 => Sys2Proof.Machine.execKset g k w s1 s
  | .ksetd g k w s1 => Sys2Proof.Machine.execKsetd g k w s1 s
  | .kget g k w s1 => Sys2Proof.Machine.execKget g k w s1 s
  | .kld g k s1 c => Sys2Proof.Machine.execKld g k s1 c s
  | .kst g k s1 c => Sys2Proof.Machine.execKst g k s1 c s
  | .kseti g k w imm => Sys2Proof.Machine.execKseti g k w imm s
  | .kpush g d a q => Sys2Proof.Machine.execKpush g d a q s
  | .knote g d a q => Sys2Proof.Machine.execKnote g d a q s
  | .qkick g a q => Sys2Proof.Machine.execQkick g a q s
  | .qlink g q a b => Sys2Proof.Machine.execQlink g q a b s
  | .qpop g d q t f => Sys2Proof.Machine.execQpop g d q t f s
  | .qpush g q a t f => Sys2Proof.Machine.execQpush g q a t f s
  | .qpeek g d q => Sys2Proof.Machine.execQpeek g d q s
  | .qstat g d a r => Sys2Proof.Machine.execQstat g d a r s
  | .bankm g a b => Sys2Proof.Machine.execBankm g a b s
  | .bankf g a b => Sys2Proof.Machine.execBankf g a b s
  | .accal g d a => Sys2Proof.Machine.execAccal g d a s
  | .accfr g a b => Sys2Proof.Machine.execAccfr g a b s
  | .accgive g a b => Sys2Proof.Machine.execAccgive g a b s
  | .bacq g d a => Sys2Proof.Machine.execBacq g d a s
  | .brel g a => Sys2Proof.Machine.execBrel g a s
  | .slotrel g a b => Sys2Proof.Machine.execSlotrel g a b s
  | .cflush g a => Sys2Proof.Machine.execCflush g a s
  | .pref g a => Sys2Proof.Machine.execPref g a s
  | .ruarm g d a => Sys2Proof.Machine.execRuarm g d a s
  | .ruinv g d a => Sys2Proof.Machine.execRuinv g d a s
  | .rustat g d a => Sys2Proof.Machine.execRustat g d a s
  | .scpost g a b => Sys2Proof.Machine.execScpost g a b s
  | .scread g d a => Sys2Proof.Machine.execScread g d a s
  | .scwait g d a b => Sys2Proof.Machine.execScwait g d a b s
  | .amo g d a c w r q o => Sys2Proof.Machine.execAmo g d a c w r q o s
  | .lock g d a => Sys2Proof.Machine.execLock g d a s
  | .unlock g d a => Sys2Proof.Machine.execUnlock g d a s
  | .bara g d a => Sys2Proof.Machine.execBara g d a s
  | .barw g d a q => Sys2Proof.Machine.execBarw g d a q s
  | .baraw g d a q => Sys2Proof.Machine.execBaraw g d a q s
  | .wreg g a => Sys2Proof.Machine.execWreg g a s
  | .wdereg g a => Sys2Proof.Machine.execWdereg g a s
  | .whold g a => Sys2Proof.Machine.execWhold g a s
  | .wholdRel g a => Sys2Proof.Machine.execWholdRel g a s
  | .mon g d a => Sys2Proof.Machine.execMon g d a s
  | .mwait g d a => Sys2Proof.Machine.execMwait g d a s
  | .rend => Sys2Proof.Machine.execRend s
  | .fence g m => Sys2Proof.Machine.execFence g m s
  | .fencesc g => Sys2Proof.Machine.execFencesc g s
  | .sysrd g d a => Sys2Proof.Machine.execSysrd g d a s
  | .syswr g a b => Sys2Proof.Machine.execSyswr g a b s
  | .trap g a => Sys2Proof.Machine.execTrap g a s
  | .eret g a b => Sys2Proof.Machine.execEret g a b s
  | .bkpt g => Sys2Proof.Machine.execBkpt g s
  | .time g d s1 => Sys2Proof.Machine.execTime g d s1 s
  | .pause g a => Sys2Proof.Machine.execPause g a s
  | .idle g => Sys2Proof.Machine.execIdle g s
  | .nop g => Sys2Proof.Machine.execNop g s
  | .gath g q a b w => Sys2Proof.Machine.execGath g q a b w s
  | .scat g a b w => Sys2Proof.Machine.execScat g a b w s
  | .ximm imm => Sys2Proof.Machine.execXimm imm s
  | .copy core ring => Sys2Proof.Machine.execCopy core ring s
  | .gcopy core ring => Sys2Proof.Machine.execGcopy core ring s
  | .mcast core ring => Sys2Proof.Machine.execMcast core ring s
  | .mxd core => Sys2Proof.Machine.execMxd core s
  | .mxc core => Sys2Proof.Machine.execMxc core s
  | .mxl core => Sys2Proof.Machine.execMxl core s
  | .mxr core => Sys2Proof.Machine.execMxr core s
  | .mxdrn core => Sys2Proof.Machine.execMxdrn core s
  | .coll core => Sys2Proof.Machine.execColl core s
  | .null core ring => Sys2Proof.Machine.execNull core ring s
  | .link core ring => Sys2Proof.Machine.execLink core ring s
  | .note core ring => Sys2Proof.Machine.execNote core ring s
  | .recordFetch core ring => Sys2Proof.Machine.execRecordFetch core ring s
  | .recordWaitsSatisfied core ring => Sys2Proof.Machine.execRecordWaitsSatisfied core ring s
  | .recordOrderSatisfied core ring => Sys2Proof.Machine.execRecordOrderSatisfied core ring s
  | .permitGrant core ring => Sys2Proof.Machine.execPermitGrant core ring s
  | .recordTokenPop core ring => Sys2Proof.Machine.execRecordTokenPop core ring s
  | .progressMark core ring => Sys2Proof.Machine.execProgressMark core ring s
  | .tileCommit core => Sys2Proof.Machine.execTileCommit core s
  | .recordRetire core ring => Sys2Proof.Machine.execRecordRetire core ring s
  | .chainModeEnter core ring => Sys2Proof.Machine.execChainModeEnter core ring s
  | .chainFetch core ring => Sys2Proof.Machine.execChainFetch core ring s
  | .copyShareSplit core => Sys2Proof.Machine.execCopyShareSplit core s
  | .leaseRunTimeout cluster => Sys2Proof.Machine.execLeaseRunTimeout cluster s
  | .leasePermitStall cluster => Sys2Proof.Machine.execLeasePermitStall cluster s
  | .jobComplete core => Sys2Proof.Machine.execJobComplete core s
  | .hostCompletionEntry tenant => Sys2Proof.Machine.execHostCompletionEntry tenant s
  | .queueDeadlockTrap core => Sys2Proof.Machine.execQueueDeadlockTrap core s
  | .addressQueueFault core => Sys2Proof.Machine.execAddressQueueFault core s
  | .tlbWalkComplete die => Sys2Proof.Machine.execTlbWalkComplete die s
  | .bankmApply cluster bank => Sys2Proof.Machine.execBankmApply cluster bank s
  | .counterPostPerform die => Sys2Proof.Machine.execCounterPostPerform die s
  | .postRefusalReturn die => Sys2Proof.Machine.execPostRefusalReturn die s
  | .unregisteredRecheck core lane => Sys2Proof.Machine.execUnregisteredRecheck core lane s
  | .tahrForward die => Sys2Proof.Machine.execTahrForward die s
  | .mwaitTimeout core => Sys2Proof.Machine.execMwaitTimeout core s
  | .idleTimeout core => Sys2Proof.Machine.execIdleTimeout core s
  | .pauseExpire core lane => Sys2Proof.Machine.execPauseExpire core lane s
  | .fencescCompletion core lane => Sys2Proof.Machine.execFencescCompletion core lane s
  | .objAlloc die => Sys2Proof.Machine.execObjAlloc die s
  | .objFree die => Sys2Proof.Machine.execObjFree die s
  | .objRearm die => Sys2Proof.Machine.execObjRearm die s
  | .map die => Sys2Proof.Machine.execMap die s
  | .unmap die => Sys2Proof.Machine.execUnmap die s
  | .changePermissions die => Sys2Proof.Machine.execChangePermissions die s
  | .mapShootdownDone die => Sys2Proof.Machine.execMapShootdownDone die s
  | .launchPlace tenant queue record => Sys2Proof.Machine.execLaunchPlace tenant queue record s
  | .preempt core => Sys2Proof.Machine.execPreempt core s
  | .preemptSave core => Sys2Proof.Machine.execPreemptSave core s
  | .restore saved core => Sys2Proof.Machine.execRestore saved core s
  | .gangGateOpen tenant queue record => Sys2Proof.Machine.execGangGateOpen tenant queue record s
  | .gangCancel tenant queue record => Sys2Proof.Machine.execGangCancel tenant queue record s
  | .recordStallStop core ring => Sys2Proof.Machine.execRecordStallStop core ring s
  | .faultQueueCopy tenant => Sys2Proof.Machine.execFaultQueueCopy tenant s
  | .watchdogAlarm engine => Sys2Proof.Machine.execWatchdogAlarm engine s
  | .markhorDrainDone engine => Sys2Proof.Machine.execMarkhorDrainDone engine s
  | .markhorHoldExpire engine => Sys2Proof.Machine.execMarkhorHoldExpire engine s
  | .markhorReload engine readable => Sys2Proof.Machine.execMarkhorReload engine readable s
  | .coreResetComplete core readable => Sys2Proof.Machine.execCoreResetComplete core readable s
  | .mkctlEngineReset die => Sys2Proof.Machine.execMkctlEngineReset die s
  | .mkctlCoreReset die => Sys2Proof.Machine.execMkctlCoreReset die s
  | .mkctlDieWarmReset die => Sys2Proof.Machine.execMkctlDieWarmReset die s
  | .mkctlTenantReset die => Sys2Proof.Machine.execMkctlTenantReset die s
  | .mkctlModuleReset die => Sys2Proof.Machine.execMkctlModuleReset die s
  | .dieQuiesceDone die => Sys2Proof.Machine.execDieQuiesceDone die s
  | .dieWritebackDone die => Sys2Proof.Machine.execDieWritebackDone die s
  | .dieResetDone die => Sys2Proof.Machine.execDieResetDone die s
  | .dieRetrainDone die => Sys2Proof.Machine.execDieRetrainDone die s
  | .dieReadmit die => Sys2Proof.Machine.execDieReadmit die s
  | .recvNackDeadline die src msgid => Sys2Proof.Machine.execRecvNackDeadline die src msgid s
  | .recvAbandonDeadline die src msgid => Sys2Proof.Machine.execRecvAbandonDeadline die src msgid s
  | .sendRetransmitTimeout die msgid => Sys2Proof.Machine.execSendRetransmitTimeout die msgid s
  | .sendLossTimeout die msgid => Sys2Proof.Machine.execSendLossTimeout die msgid s
  | .collTimeout core => Sys2Proof.Machine.execCollTimeout core s
  | .routeSwap die => Sys2Proof.Machine.execRouteSwap die s
  | .submitSysregWrite tenant => Sys2Proof.Machine.execSubmitSysregWrite tenant s
  | .submitAttestation tenant => Sys2Proof.Machine.execSubmitAttestation tenant s
  | .submitPreemptionNotice tenant => Sys2Proof.Machine.execSubmitPreemptionNotice tenant s
  | .auditReplay die => Sys2Proof.Machine.execAuditReplay die s
  | .auditCompare die => Sys2Proof.Machine.execAuditCompare die s
  | .parityAlarm engine => Sys2Proof.Machine.execParityAlarm engine s
  | .protocolAlarm engine => Sys2Proof.Machine.execProtocolAlarm engine s
  | .scrubResetDue engine => Sys2Proof.Machine.execScrubResetDue engine s
  | .ucieLinkDown d e => Sys2Proof.Machine.execUcieLinkDown d e s
  | .ucieLinkUp d e => Sys2Proof.Machine.execUcieLinkUp d e s
  | .fragmentDataReceive die frag => Sys2Proof.Machine.execFragmentDataReceive die frag s
  | .fragmentParityReceive die frag => Sys2Proof.Machine.execFragmentParityReceive die frag s
  | .ackReceive die frag => Sys2Proof.Machine.execAckReceive die frag s
  | .nackReceive die frag => Sys2Proof.Machine.execNackReceive die frag s
  | .lossReceive die frag => Sys2Proof.Machine.execLossReceive die frag s
  | .gangCancelReceive die frag => Sys2Proof.Machine.execGangCancelReceive die frag s
  | .portDown port => Sys2Proof.Machine.execPortDown port s
  | .portUp port => Sys2Proof.Machine.execPortUp port s
  | .edzanPortDown port => Sys2Proof.Machine.execEdzanPortDown port s
  | .edzanPortUp port => Sys2Proof.Machine.execEdzanPortUp port s
  | .powerOnBoot failing => Sys2Proof.Machine.execPowerOnBoot failing s
  | .hsqtailWrite who tenant value => Sys2Proof.Machine.execHsqtailWrite who tenant value s
  | .stgcfgCacheWrite tenant slice value => Sys2Proof.Machine.execStgcfgCacheWrite tenant slice value s
  | .lqtailWrite who tenant queue value => Sys2Proof.Machine.execLqtailWrite who tenant queue value s
  | .fqresWrite who tenant value => Sys2Proof.Machine.execFqresWrite who tenant value s
  | .rtswapWrite who die value => Sys2Proof.Machine.execRtswapWrite who die value s
  | .bootclrWrite who value => Sys2Proof.Machine.execBootclrWrite who value s
  | .mmclrWrite who die value => Sys2Proof.Machine.execMmclrWrite who die value s
  | .sysregWrite who number value => Sys2Proof.Machine.execSysregWrite who number value s
  | .systemSpaceAccess who addr write value => Sys2Proof.Machine.execSystemSpaceAccess who addr write value s
  | .hostMemoryAccess port addr write data => Sys2Proof.Machine.execHostMemoryAccess port addr write data s
  | .scrubWord die memory addr finding => Sys2Proof.Machine.execScrubWord die memory addr finding s
  | .dbgSoftHalt core => Sys2Proof.Machine.execDbgSoftHalt core s
  | .dbgHardHalt core => Sys2Proof.Machine.execDbgHardHalt core s
  | .dbgPreciseHalt core level => Sys2Proof.Machine.execDbgPreciseHalt core level s
  | .dbgResume core => Sys2Proof.Machine.execDbgResume core s
  | .throttlingBubble cycles => Sys2Proof.Machine.execThrottlingBubble cycles s
  | .portNotice => Sys2Proof.Machine.execPortNotice s
  | .ckctlSnapshot => Sys2Proof.Machine.execCkctlSnapshot s
  | .ckctlRestore => Sys2Proof.Machine.execCkctlRestore s
  | .ckctlDiscard => Sys2Proof.Machine.execCkctlDiscard s
  | .checkpointChunkCopy => Sys2Proof.Machine.execCheckpointChunkCopy s
  | .snapshotComplete => Sys2Proof.Machine.execSnapshotComplete s
  | .mismatchSave => Sys2Proof.Machine.execMismatchSave s

end Sys2Proof.Machine
end

