-- ==== Sys2Proof/Machine/Step.lean ====
section
/-! DEFINITION. One machine step: one act of one agent. A halted module runs nothing but its boot (R256). -/

namespace Sys2Proof.Machine

/-- One step. -/
def step (s : State) : Host.Outcome State Fault Refusal :=
  match s.turn with
  | .dead => .fault .moduleHalted
  | .run (.none s) => .next s
  | .run (.instr i s) => exec i s

/-- A lane word placed where the next step fetches (DESIGN CHOICE, log 5): the word of lane 1 of a line on a page of tenant 0, in a
job on core 0. Words of no bits place nothing. -/
def State.withFetchWord (s : State) (nbits w : Nat) : State :=
  if nbits == 0 then s else s.placeWord (BitVec.ofNat 32 (w % 2 ^ nbits))

end Sys2Proof.Machine
end

