-- ==== Sys2Proof/Safety.lean ====
section
/-! DEFINITION. What statements speak of: an instruction that passes the checks of R275 and executes, what an instruction's
meaning answers, and the invariant of every run. -/

namespace Sys2Proof

/-- The predicate that governs a lane instruction, for the forms that have one (R274, R277, R281). -/
def Instr.pred : Instr → Option Guard
  | .add g .. | .sub g .. | .and g .. | .or g .. | .xor g .. | .andn g .. | .shl g .. | .shr g .. | .sar g ..
  | .min g .. | .minn g .. | .max g .. | .maxn g .. | .mov g .. | .clz g .. | .ctz g .. | .popc g ..
  | .mul g .. | .mulh g .. | .mulhn g .. | .div g .. | .divn g .. | .rem g .. | .remn g .. | .addi g ..
  | .andi g .. | .ori g .. | .xori g .. | .shli g .. | .shri g .. | .sari g .. | .funl g .. | .funr g ..
  | .cmp g .. | .cmpi g .. | .li g .. | .lui g .. | .plog g .. | .adda g .. | .mova g .. | .movs g ..
  | .addai g .. | .fadd g .. | .fsub g .. | .fmul g .. | .fmin g .. | .fmax g .. | .fclass g .. | .ffma g ..
  | .fcmp g .. | .fcvt g .. | .br g .. | .call g .. | .jmpi g .. | .ret g .. | .retA g .. | .calli g ..
  | .loop g .. | .endl g .. | .ld g .. | .lds g .. | .st g .. | .ldq g .. | .stq g .. | .kclr g .. | .kset g ..
  | .ksetd g .. | .kget g .. | .kld g .. | .kst g .. | .kseti g .. | .kpush g .. | .knote g .. | .qkick g ..
  | .qlink g .. | .qpop g .. | .qpush g .. | .qpeek g .. | .qstat g .. | .bankm g .. | .bankf g ..
  | .accal g .. | .accfr g .. | .accgive g .. | .bacq g .. | .brel g .. | .slotrel g .. | .cflush g ..
  | .pref g .. | .ruarm g .. | .ruinv g .. | .rustat g .. | .scpost g .. | .scread g .. | .scwait g ..
  | .amo g .. | .lock g .. | .unlock g .. | .bara g .. | .barw g .. | .baraw g .. | .wreg g .. | .wdereg g ..
  | .whold g .. | .wholdRel g .. | .mon g .. | .mwait g .. | .fence g .. | .fencesc g .. | .sysrd g ..
  | .syswr g .. | .trap g .. | .eret g .. | .bkpt g .. | .time g .. | .pause g .. | .idle g .. | .nop g ..
  | .gath g .. | .scat g .. => some g  | _ => none

/-- The least privilege level of an instruction: ERET alone needs level S (R322). -/
def Instr.minLevel : Instr → Nat
  | .eret .. => 1
  | _ => 0

end Sys2Proof

namespace Sys2Proof.Machine

/-- The issuing stream executes the instruction: checks 5-8 of R275 pass and the predicate holds (R274). -/
def State.issues (s : State) (i : Instr) : Bool :=
  i.streams.contains s.focusLane && i.wellFormed && i.regsOk s.focusLane && decide (i.minLevel ≤ s.levelOf s.fcore) &&
    !(i.pred.any fun g => !s.me.guard g)

/-- The next instruction of the issuing stream after its program counter stands at `pc`, in line `l` as the stream will execute it, and
its word is `w` (R31, R33, R286). -/
def State.follower (s : State) (pc : Pc) (l : Line) (w : LaneWord) : Bool :=
  match s.seek s.me.pc with
  | .lane ln j l' =>
    l' == l && decide (ln < 2 ^ 64) && pc == ⟨BitVec.ofNat 64 ln, BitVec.ofNat 3 j, false⟩ && l.reserved == 0 &&
      l.tag j == laneTag s.focusLane && w == BitVec.ofNat 32 (l.word j)
  | _ => false

/-- Element `j` of width `w` bytes of a vector (R279). -/
def elemAt (v : Vec) (w j : Nat) : BitVec (8 * w) := v.extractLsb' (8 * w * j) (8 * w)

/-- The effect of an instruction with a vector destination (R279, R388): each element that the mask selects becomes `r`, the others
follow `z`; the flags of the selected ones are raised. -/
def State.vectorResult (s : State) (i : Instr) (k : MaskSel) (d : BitVec 5) (w : Nat) (r : Nat → BitVec (8 * w))
    (f : Nat → Flags) : Prop :=
  s.issues i = true → ∃ v fl,
    exec i s = .next (s.fpEnv.2.updMe fun t => ({ t.wv d v with fpflags := t.fpflags ||| fl } : StreamState).done) ∧
    (∀ j < 128 / w, elemAt v w j =
      if (s.me.rm k.m).getLsbD (w * j) then r j else if k.z then 0 else elemAt (s.me.rv d) w j) ∧
    ∀ b : Nat, fl.getLsbD b = true ↔ ∃ j < 128 / w, (s.me.rm k.m).getLsbD (w * j) = true ∧ (f j).getLsbD b = true

/-- A record of a core runs in a ring as its head, and its next boundary is to be performed; it waits for no second fetch (R106, R108). -/
def State.runsAsHead (s : State) (core : BitVec 8) (q : RingId) (kind n : Nat) (r : Rec) : Prop :=
  let ring := (s.core core.toNat).ring q
  s.engineRuns core.toNat q = true ∧ ring.ret < ring.acc ∧ ring.head = some r ∧ n = ring.ret + 1 ∧ r.st.state = 7 ∧
    cmdKind r.cmd = kind ∧ r.performed = false ∧ r.refetch = false

/-- The invariant of every step: memory and the tables of the state keep their canonical form, and a beat is 300 cycles
(R7). -/
structure State.Inv (s : State) : Prop where
  memory : Memory.wf s.mem = true
  cores : Tab.sorted s.cores = true
  clusters : Tab.sorted s.clusters = true
  dies : Tab.sorted s.dies = true
  tenants : Tab.sorted s.tenants = true
  cycle : s.cycle < 300

/-- A safe run of `n` steps: no step of it ends in a fault or a refusal. -/
def State.safeRun : Nat → State → Prop
  | 0, _ => True
  | n + 1, s => ∃ t, step s = .next t ∧ t.safeRun n

end Sys2Proof.Machine
end

