-- ==== Sys2Proof/Certificates/Slice0/Obligations.lean ====
section
/-! DEFINITION. The statements for the provers. `s.issues i` says that the stream that issues may execute `i`: checks 5-8 of
R275 pass and its predicate holds. -/

open Sys2Proof Sys2Proof.Machine

/-! ### Integer arithmetic -/

/-- R281, R291, R308, R320, R329, R350, R377: the result of every integer register and shift-immediate form; all else is as it
was, and the stream goes on. -/
def Parts.IntegerArithmeticResults : Prop :=
  ∀ (s : State) (g : Guard) (d a b : BitVec 5) (n : BitVec 6),
    let x := s.me.rs a
    let y := s.me.rs b
    let gives (i : Instr) (v : Word) : Prop := s.issues i → exec i s = .next (s.updMe fun t => (t.ws d v).done)
    gives (.add g d a b) (x + y) ∧ gives (.sub g d a b) (x - y) ∧ gives (.and g d a b) (x &&& y) ∧
    gives (.or g d a b) (x ||| y) ∧ gives (.xor g d a b) (x ^^^ y) ∧ gives (.andn g d a b) (x &&& ~~~y) ∧
    gives (.shl g d a b) (x <<< (y.toNat % 64)) ∧ gives (.shr g d a b) (x >>> (y.toNat % 64)) ∧
    gives (.sar g d a b) (x.sshiftRight (y.toNat % 64)) ∧
    gives (.min g d a b) (if x.toInt ≤ y.toInt then x else y) ∧ gives (.minn g d a b) (if x ≤ y then x else y) ∧
    gives (.max g d a b) (if x.toInt ≤ y.toInt then y else x) ∧ gives (.maxn g d a b) (if x ≤ y then y else x) ∧
    gives (.mov g d a) x ∧ gives (.sel g d a b) (if (s.me.rp g.p) ^^ g.n then x else y) ∧ gives (.mul g d a b) (x * y) ∧
    gives (.mulh g d a b) (BitVec.ofInt 64 (x.toInt * y.toInt / 2 ^ 64)) ∧
    gives (.mulhn g d a b) (BitVec.ofNat 64 (x.toNat * y.toNat / 2 ^ 64)) ∧
    gives (.div g d a b) (if y = 0 then -1 else BitVec.ofInt 64 (x.toInt.tdiv y.toInt)) ∧
    gives (.divn g d a b) (if y = 0 then -1 else BitVec.ofNat 64 (x.toNat / y.toNat)) ∧
    gives (.rem g d a b) (if y = 0 then x else BitVec.ofInt 64 (x.toInt.tmod y.toInt)) ∧
    gives (.remn g d a b) (if y = 0 then x else BitVec.ofNat 64 (x.toNat % y.toNat)) ∧
    gives (.shli g d a n) (x <<< n.toNat) ∧ gives (.shri g d a n) (x >>> n.toNat) ∧
    gives (.sari g d a n) (x.sshiftRight n.toNat) ∧
    gives (.funl g d a b n) (((x ++ y) <<< n.toNat).extractLsb' 64 64) ∧
    gives (.funr g d a b n) (((x ++ y) >>> n.toNat).extractLsb' 0 64)

/-- R308: CLZ and CTZ count the leading and the trailing zero bits, 64 for zero, in their encodings, in streams C, A and X. -/
def Obligations.ClzAndCtzCountZeros : Prop :=
  ∀ (s : State) (g : Guard) (d a : BitVec 5),
    decodeWord (0x01#6 ++ g.p ++ BitVec.ofBool g.n ++ d ++ a ++ 0#5 ++ 0x0E#7) = .ok (.clz g d a) ∧
    decodeWord (0x01#6 ++ g.p ++ BitVec.ofBool g.n ++ d ++ a ++ 0#5 ++ 0x0F#7) = .ok (.ctz g d a) ∧
    decodeWord 0x0406400E = .ok (.clz ⟨0, false⟩ 3 4) ∧ decodeWord 0x0406400F = .ok (.ctz ⟨0, false⟩ 3 4) ∧
    (Instr.clz g d a).streams = [.c, .a, .x] ∧ (Instr.ctz g d a).streams = [.c, .a, .x] ∧
    (s.issues (.clz g d a) → ∃ n ≤ 64, exec (.clz g d a) s = .next (s.updMe fun t => (t.ws d (BitVec.ofNat 64 n)).done) ∧
      (∀ i < n, (s.me.rs a).getLsbD (63 - i) = false) ∧ (n < 64 → (s.me.rs a).getLsbD (63 - n) = true)) ∧
    (s.issues (.ctz g d a) → ∃ n ≤ 64, exec (.ctz g d a) s = .next (s.updMe fun t => (t.ws d (BitVec.ofNat 64 n)).done) ∧
      (∀ i < n, (s.me.rs a).getLsbD i = false) ∧ (n < 64 → (s.me.rs a).getLsbD n = true))

/-- R350: POPC counts the one bits. -/
def Parts.PopcCountsOnes : Prop :=
  ∀ (s : State) (g : Guard) (d a : BitVec 5), s.issues (.popc g d a) →
    exec (.popc g d a) s = .next (s.updMe fun t =>
      (t.ws d (BitVec.ofNat 64 ((List.range 64).countP fun i => (s.me.rs a).getLsbD i))).done)

/-- R292, R293, R343, R366: the immediate forms, alone. -/
def Parts.ImmediateResults : Prop :=
  ∀ (s : State) (g : Guard) (d a : BitVec 5) (i : BitVec 12) (j : BitVec 17),
    let x := s.me.rs a
    let gives (i : Instr) (v : Word) : Prop := s.issues i → exec i s = .next (s.updMe fun t => (t.ws d v).done)
    gives (.addi g d a i) (x + i.signExtend 64) ∧ gives (.andi g d a i) (x &&& i.signExtend 64) ∧
    gives (.ori g d a i) (x ||| i.signExtend 64) ∧ gives (.xori g d a i) (x ^^^ i.signExtend 64) ∧
    gives (.li g d j) (j.signExtend 64) ∧ gives (.lui g d j) (j.signExtend 64 <<< 15) ∧
    (s.issues (.addai g d a i) →
      exec (.addai g d a i) s = .next (s.updMe fun t => (t.wa d (s.me.ra a + i.signExtend 64)).done))

/-- R33, R52, R286: an XIMM and the instruction after it execute as one, with the immediate composed of both fields; control goes on
after the follower, or at the target, and the lanes of the follower's line that come next run as the line was read for it. -/
def Parts.XimmComposesTheImmediate : Prop :=
  ∀ (s : State) (x : BitVec 26) (pc : Pc) (ll : Line) (u : LaneWord) (g : Guard) (d a : BitVec 5) (i : BitVec 12) (j : BitVec 17)
    (k : BitVec 3) (w : BitVec 5) (m : BitVec 14) (l : BitVec 3) (o : BitVec 19),
    let line := pc.line + (x ++ o).signExtend 64 <<< 5
    let gives (i : Instr) (f : StreamState → StreamState) : Prop :=
      s.issues (.ximm x) → s.follower pc ll u → majorAcceptsXimm u → decodeWord u = .ok i → s.issues i →
        exec (.ximm x) s = .next ((s.updMe f).keepLine pc.line.toNat ll)
    gives (.addi g d a i) (fun t => (t.ws d (t.rs a + (x ++ i).signExtend 64)).doneAt pc) ∧
    gives (.andi g d a i) (fun t => (t.ws d (t.rs a &&& (x ++ i).signExtend 64)).doneAt pc) ∧
    gives (.ori g d a i) (fun t => (t.ws d (t.rs a ||| (x ++ i).signExtend 64)).doneAt pc) ∧
    gives (.xori g d a i) (fun t => (t.ws d (t.rs a ^^^ (x ++ i).signExtend 64)).doneAt pc) ∧
    gives (.addai g d a i) (fun t => (t.wa d (t.ra a + (x ++ i).signExtend 64)).doneAt pc) ∧
    gives (.li g d j) (fun t => (t.ws d ((x ++ j).signExtend 64)).doneAt pc) ∧
    gives (.lui g d j) (fun t => (t.ws d ((x ++ j).signExtend 64 <<< 15)).doneAt pc) ∧
    gives (.br g l o) (fun t => t.goto line l) ∧ gives (.jmp l o) (fun t => t.goto line l) ∧
    gives (.kseti g k w m) (fun t => (t.wk k (vecSet (t.rk k) (32 * w.toNat) 32 ((x ++ m).signExtend 64).toNat)).doneAt pc)

/-- R286, R303-R305: an XIMM before CALL, BRX or BRQ: the branch's offset is composed. The link is to the instruction after the follower.
BRX and BRQ wait as they do alone. -/
def Parts.XimmBeforeCallsAndQueues : Prop :=
  ∀ (s : State) (x : BitVec 26) (pc : Pc) (ll : Line) (u : LaneWord) (g : Guard) (q l : BitVec 3) (n : Bool) (o : BitVec 19) (v ln j : Nat),
    let line := pc.line + (x ++ o).signExtend 64 <<< 5
    let link : BitVec 5 := if s.focusLane = .a then 15 else 31
    let c := s.me.guard g
    let pair (i : Instr) : Prop :=
      s.issues (.ximm x) = true ∧ s.follower pc ll u = true ∧ majorAcceptsXimm u = true ∧ decodeWord u = .ok i ∧ s.issues i = true
    let gives (t : State) : Prop := exec (.ximm x) s = .next (t.keepLine pc.line.toNat ll)
    let goes (b : Bool) (s : State) : State := s.updMe fun t => if b then t.goto line l else t.doneAt pc
    (pair (.call g l o) → s.successor s.fcore s.focusLane pc = .lane ln j →
      gives (s.updMe fun t => (t.ws link (BitVec.ofNat 64 ln ||| BitVec.ofNat 64 j)).goto line l)) ∧
    (pair (.call g l o) → s.successor s.fcore s.focusLane pc = .past → gives (s.trap causeIllegal 2)) ∧
    (pair (.brx g l o) → s.focusLane = .a → gives (if s.branchFull 2 then s.stall (.branchQueue 2) else goes c (s.pushBranch 2 c))) ∧
    (pair (.brx g l o) → s.focusLane = .c → gives (if s.branchFull 0 then s.stall (.branchQueue 0)
      else if s.branchFull 1 then s.stall (.branchQueue 1) else goes c ((s.pushBranch 0 c).pushBranch 1 c))) ∧
    (pair (.brq q n l o) → (s.myCore.branch q.toNat).peek = some v →
      gives (goes ((v == 1) ^^ n)
        (((s.updMyCore fun k => { k.setBranch q.toNat (k.branch q.toNat).pop with lastChange := s.tick.toNat }).updMe fun t =>
          { t with pops := t.pops.put (8 + q.toNat) ((s.myCore.branch q.toNat).rd + 1) })))) ∧
    (pair (.brq q n l o) → (s.myCore.branch q.toNat).peek = none → gives (s.stall (.branchQueue q.toNat)))

/-- R276, R286: the XIMM itself traps where its follower accepts none (subcode 1) or the image ends (subcode 2), and waits for the walk of
the follower's page (R100). The model's choices and readings: log 24. -/
def Parts.XimmWithoutFollowerTraps : Prop :=
  ∀ (s : State) (x : BitVec 26), s.issues (.ximm x) →
    (s.seek s.me.pc = .past → exec (.ximm x) s = .next (s.trap causeIllegal 2)) ∧
    (∀ va, s.seek s.me.pc = .miss va → exec (.ximm x) s = .next ((s.noteMiss s.fcore va).stall .stall)) ∧
    (∀ (pc : Pc) (l : Line) (w : LaneWord), s.follower pc l w → majorAcceptsXimm w = false →
      exec (.ximm x) s = .next (s.trap causeIllegal 1))

/-! ### Predicates, compares, addresses -/

/-- R309, R310, R326, R367: compares combine into the target predicate, PLOG is a table of two predicates; a target of `p0`, or of
`p4`-`p7` in a `.sp` loop, discards the result. FCMP also raises its flag. -/
def Parts.CompareResults : Prop :=
  ∀ (s : State) (g : Guard) (c : BitVec 2) (t u v : BitVec 3) (a b : BitVec 5) (w : BitVec 2) (k : BitVec 4) (i : BitVec 8)
    (e : BitVec 4) (ty fk : BitVec 3),
    let n := 8 * 2 ^ w.toNat
    let x := (s.me.rs a).toNat % 2 ^ n
    let y := (s.me.rs b).toNat % 2 ^ n
    let sx := toSigned n x
    let sy := toSigned n y
    let cond := [x = y, x ≠ y, sx < sy, sx ≤ sy, sy < sx, sy ≤ sx, x < y, x ≤ y, y < x, y ≤ x].getD k.toNat False
    let im := (i.signExtend 64).toInt
    let q := (s.me.rs a).toInt
    let un := (s.me.rs a).toNat
    let um := (i.signExtend 64).toNat
    let condi := [q = im, q ≠ im, q < im, q ≤ im, im < q, im ≤ q, un < um, un ≤ um, um < un, um ≤ un].getD k.toNat False
    let comb (new : Prop) : Prop := [new, s.me.rp t = true ∧ new, s.me.rp t = true ∨ new].getD c.toNat False
    (s.issues (.cmp g c t a b w k) → ∃ r : Bool, (r = true ↔ comb cond) ∧
      exec (.cmp g c t a b w k) s = .next (s.updMe fun m => (m.wp t r).done)) ∧
    (s.issues (.cmpi g c t a k i) → ∃ r : Bool, (r = true ↔ comb condi) ∧
      exec (.cmpi g c t a k i) s = .next (s.updMe fun m => (m.wp t r).done)) ∧
    (s.issues (.plog g t u v e) → exec (.plog g t u v e) s = .next (s.updMe fun m =>
      (m.wp t (e.getLsbD ((s.me.rp u).toNat * 2 + (s.me.rp v).toNat))).done)) ∧
    (s.issues (.fcmp g c t a b ty fk) →
      let f := scalarFmt ty
      let r := fcond fk.toNat (f.decode ((s.me.rs a).toNat % 2 ^ f.width)) (f.decode ((s.me.rs b).toNat % 2 ^ f.width))
      ∃ p : Bool, (p = true ↔ comb (r.1 = true)) ∧ exec (.fcmp g c t a b ty fk) s =
        .next (s.updMe fun m => (({ m with fpflags := m.fpflags ||| r.2 } : StreamState).wp t p).done))

/-- R26, R348: what a write of a predicate does: `p0` reads true and ignores writes; `p4`-`p7` ignore them while a `.sp` loop is
active; a write of one predicate leaves the others. -/
def Parts.PredicateWrites : Prop :=
  ∀ (t : StreamState) (p q : BitVec 3) (b : Bool),
    t.rp 0 = true ∧
    (t.wp p b).rp q = (if p = q ∧ p ≠ 0 ∧ ¬ (4 ≤ p.toNat ∧ ∃ e ∈ t.loops, e.sp = true) then b else t.rp q) ∧
    { t.wp p b with p := t.p } = t

/-- R354: MOVA and MOVS copy between scalar and address registers, whatever the value, in their encodings, in streams C and A at any
level. -/
def Obligations.MovaAndMovsCopy : Prop :=
  ∀ (s : State) (g : Guard) (d a : BitVec 5),
    (s.issues (.mova g d a) → exec (.mova g d a) s = .next (s.updMe fun t => (t.wa d (t.rs a)).done)) ∧
    (s.issues (.movs g d a) → exec (.movs g d a) s = .next (s.updMe fun t => (t.ws d (t.ra a)).done)) ∧
    (Instr.mova g d a).streams = [.c, .a] ∧ (Instr.movs g d a).streams = [.c, .a] ∧
    (Instr.mova g d a).minLevel = 0 ∧ (Instr.movs g d a).minLevel = 0 ∧
    decodeWord (0x0D#6 ++ g.p ++ BitVec.ofBool g.n ++ d ++ a ++ 0#5 ++ 0x01#7) = .ok (.mova g d a) ∧
    decodeWord (0x0D#6 ++ g.p ++ BitVec.ofBool g.n ++ d ++ a ++ 0#5 ++ 0x02#7) = .ok (.movs g d a) ∧
    decodeWord 0x34021001 = .ok (.mova ⟨0, false⟩ 1 1) ∧ decodeWord 0x34043002 = .ok (.movs ⟨0, false⟩ 2 3)

/-- R291: ADDA adds a scalar to an address register modulo 2^64. -/
def Parts.AddaResult : Prop :=
  ∀ (s : State) (g : Guard) (d a b : BitVec 5), s.issues (.adda g d a b) →
    exec (.adda g d a b) s = .next (s.updMe fun t => (t.wa d (t.ra a + t.rs b)).done)

/-! ### Scalar floating point -/

/-- R63-R68, R323, R324, R327, R328: the scalar floating-point forms write their rounded result with the upper bits zero and OR their flags
into `fpflags`; FMIN and FMAX do not round. The rounding mode and the seed are those of `fpEnv`. The model's choices and readings: log 38.
-/
def Parts.ScalarFloatResults : Prop :=
  ∀ (s : State) (g : Guard) (d a b : BitVec 5) (t : BitVec 3) (src dst : BitVec 4) (sat : Bool) (rm : BitVec 3),
    let f := scalarFmt t
    let e := s.fpEnv
    let r := rsBits e.1.2 (s.me.ctr d.toNat 0)
    let arg (x : BitVec 5) : Sys2Proof.Machine.Num := f.decode ((s.me.rs x).toNat % 2 ^ f.width)
    let writes (s : State) (v : Word) (fl : Flags) : State :=
      s.updMe fun m => ({ m.ws d v with fpflags := m.fpflags ||| fl } : StreamState).done
    let rounded (i : Instr) (v : Nat × Flags) : Prop := s.issues i → exec i s = .next (writes e.2 (BitVec.ofNat 64 v.1) v.2)
    rounded (.fadd g d a b t) (f.add e.1.1 r (arg a) (arg b)) ∧
    rounded (.fsub g d a b t) (f.add e.1.1 r (arg a) (arg b).neg) ∧
    rounded (.fmul g d a b t) (f.mul e.1.1 r (arg a) (arg b)) ∧
    rounded (.ffma g d a b t) (f.fma e.1.1 r (arg a) (arg b) (arg d)) ∧
    (s.issues (.fmin g d a b t) → exec (.fmin g d a b t) s =
      .next (writes s (BitVec.ofNat 64 (f.minmax false (arg a) (arg b)).1) (f.minmax false (arg a) (arg b)).2)) ∧
    (s.issues (.fmax g d a b t) → exec (.fmax g d a b t) s =
      .next (writes s (BitVec.ofNat 64 (f.minmax true (arg a) (arg b)).1) (f.minmax true (arg a) (arg b)).2)) ∧
    (s.issues (.fcvt g d a src sat dst rm) →
      let v := convertType src.toNat dst.toNat (if rm = 5 then e.1.1 else rm.toNat) r sat (s.me.rs a).toNat
      exec (.fcvt g d a src sat dst rm) s = .next (writes e.2
        (if 6 ≤ dst.toNat ∧ dst.toNat ≤ 9 then BitVec.ofInt 64 (toSigned (8 * typeWidth dst.toNat) v.1) else BitVec.ofNat 64 v.1)
        v.2)) ∧
    (s.fpEarly 0 = none → s.fpEarly 2 = none → e = ((s.me.fpctl.toNat, s.me.seed.toNat), s.updMe StreamState.useFp)) ∧
    ((s.focusLane ≠ .x ∨ s.myCore.xfp = []) → s.fpEarly 0 = none ∧ s.fpEarly 2 = none)

/-- R325: FCLASS writes a mask with exactly one bit set, by the class of its operand, and no flag. -/
def Obligations.FclassNamesOneClass : Prop :=
  ∀ (s : State) (g : Guard) (d a : BitVec 5) (t : BitVec 3), s.issues (.fclass g d a t) →
    let f := scalarFmt t
    let x := (s.me.rs a).toNat % 2 ^ f.width
    let man := x % 2 ^ f.mbits
    let ex := x / 2 ^ f.mbits % 2 ^ f.ebits
    let neg := x / 2 ^ (f.mbits + f.ebits) % 2 = 1
    let last := 2 ^ f.ebits - 1
    let cls : Nat :=
      if ex = last ∧ man = 0 then (if neg then 0 else 7)
      else if ex = last then (if man < 2 ^ (f.mbits - 1) then 8 else 9)
      else if ex = 0 ∧ man = 0 then (if neg then 3 else 4)
      else if ex = 0 then (if neg then 2 else 5)
      else (if neg then 1 else 6)
    exec (.fclass g d a t) s = .next (s.updMe fun m => (m.ws d (BitVec.ofNat 64 (2 ^ cls))).done)

/-- R76: the counter mixer. -/
def Obligations.CounterMixer : Prop :=
  ∀ key ctr : Word,
    let x := key ^^^ (ctr * 0x9E3779B97F4A7C15)
    let x := (x ^^^ (x >>> 31)) * 0xD6E8FEB86659FD93
    let x := x ^^^ (x >>> 29)
    let x := x * 0x8CB92BA72F3D8DD7
    cmx key.toNat ctr.toNat = (x ^^^ (x >>> 32)).toNat

/-- R67-R69: a value that a format holds rounds to itself, exactly and with no flag, in every rounding mode. -/
def Parts.RoundingKeepsRepresentableValues : Prop :=
  ∀ (t : BitVec 3) (x mode r16 : Nat) (sat : Bool),
    let f := scalarFmt t
    x < 2 ^ f.width → (f.decode x).isNan = false → (f.decode x).isInf = false →
      f.convert mode r16 sat (f.decode x) = (x, 0)

/-! ### Control transfer and loops -/

/-- R277, R280, R301, R303-R306, R336: branches, jumps and calls continue at their target line and lane; a call leaves the code
pointer of its successor in the link register, `s31`, or `s15` in stream A. The model's choices and readings: log 24. -/
def Parts.JumpsAndCalls : Prop :=
  ∀ (s : State) (g : Guard) (l : BitVec 3) (o : BitVec 19) (a : BitVec 5) (ln j : Nat),
    let line := s.me.pc.line + o.signExtend 64 <<< 5
    let link : BitVec 5 := if s.focusLane = .a then 15 else 31
    let at_ (p : Word) (t : StreamState) : StreamState := t.goto (p &&& ~~~7) (p.setWidth 3)
    let goes (i : Instr) (f : StreamState → StreamState) : Prop := s.issues i → exec i s = .next (s.updMe f)
    goes (.br g l o) (·.goto line l) ∧ goes (.jmp l o) (·.goto line l) ∧
    goes (.jmpi g a) (fun t => at_ (t.rs a) t) ∧ goes (.ret g) (fun t => at_ (t.rs 31) t) ∧
    goes (.retA g) (fun t => at_ (t.rs 15) t) ∧
    (s.successor s.fcore s.focusLane s.me.pc = .lane ln j →
      goes (.call g l o) (fun t => (t.ws link (BitVec.ofNat 64 ln ||| BitVec.ofNat 64 j)).goto line l) ∧
      goes (.calli g a) (fun t => at_ (s.me.rs a) (t.ws link (BitVec.ofNat 64 ln ||| BitVec.ofNat 64 j))))

/-- R40, R45, R303, R304: BRX exports its condition to `bq0` and `bq1` from C and to `bq2` from A, then branches on it; BRQ pops an
outcome and branches on it; each waits where a queue is full or empty. -/
def Parts.BranchOutcomeQueues : Prop :=
  ∀ (s : State) (g : Guard) (q : BitVec 3) (n : Bool) (l : BitVec 3) (o : BitVec 19) (v : Nat),
    let line := s.me.pc.line + o.signExtend 64 <<< 5
    let c := s.me.guard g
    let goes (b : Bool) (s : State) : State := s.updMe fun t => if b then t.goto line l else t.done
    (s.issues (.brx g l o) → s.focusLane = .a → s.branchFull 2 = false →
      exec (.brx g l o) s = .next (goes c (s.pushBranch 2 c))) ∧
    (s.issues (.brx g l o) → s.focusLane = .c → s.branchFull 0 = false → s.branchFull 1 = false →
      exec (.brx g l o) s = .next (goes c ((s.pushBranch 0 c).pushBranch 1 c))) ∧
    (s.issues (.brx g l o) → s.focusLane = .a → s.branchFull 2 = true → exec (.brx g l o) s = .next (s.stall (.branchQueue 2))) ∧
    (s.issues (.brx g l o) → s.focusLane = .c → s.branchFull 0 = true → exec (.brx g l o) s = .next (s.stall (.branchQueue 0))) ∧
    (s.issues (.brx g l o) → s.focusLane = .c → s.branchFull 0 = false → s.branchFull 1 = true →
      exec (.brx g l o) s = .next (s.stall (.branchQueue 1))) ∧
    (s.issues (.brq q n l o) → (s.myCore.branch q.toNat).peek = some v →
      exec (.brq q n l o) s = .next (goes ((v == 1) ^^ n)
        (((s.updMyCore fun k => { k.setBranch q.toNat (k.branch q.toNat).pop with lastChange := s.tick.toNat }).updMe fun t =>
          { t with pops := t.pops.put (8 + q.toNat) ((s.myCore.branch q.toNat).rd + 1) })))) ∧
    (s.issues (.brq q n l o) → (s.myCore.branch q.toNat).peek = none →
      exec (.brq q n l o) s = .next (s.stall (.branchQueue q.toNat)))

/-- R348: LOOP opens its level, replacing an entry of the same id with those above it, which are left: n iterations, n + stages - 1 with
`.sp`, whose stage predicates it sets; with no iterations the stream goes on after the matching ENDL. A precise halt stops the stream where
its level is left (R271). -/
def Parts.LoopOpensALevel : Prop :=
  ∀ (s : State) (g : Guard) (i : BitVec 4) (sp : Bool) (a : BitVec 5) (n : BitVec 3) (gone r : List LoopEntry) (ln j : Nat) (l : Line),
    let count := (s.me.rs a).toNat % 2 ^ 32
    let stages := if sp then max n.toNat 1 else 1
    let t := s.me.popLoops gone.length
    let u := (s.loopsExit s.fcore s.focusLane gone).updMe fun _ => t
    let left (n : Nat) : Bool := hasLevel s.me.loops n && !hasLevel r n
    s.issues (.loop g i sp a n) → (s.myCore.loopRow i.toNat).kind = 1 → s.me.loops = gone ++ r →
    (gone = [] ∧ (∀ e ∈ r, e.id ≠ i) ∨ ∃ above e, gone = above ++ [e] ∧ e.id = i ∧ ∀ x ∈ above, x.id ≠ i) →
      ((r.length = 8 ∨ sp = true ∧ ∃ e ∈ r, e.sp = true) → exec (.loop g i sp a n) s = .next (s.trap causeIllegal 4)) ∧
      (r.length ≠ 8 → (sp = true → ∀ e ∈ r, e.sp = false) →
        t.loops = r ∧
        (count ≠ 0 → ∃ p : BitVec 8, exec (.loop g i sp a n) s = .next ((u.updMe fun _ =>
          ({ t with p := p, loops := { id := i, start := { t.pc with after := true }, left := count + stages - 1, iter := 0, sp := sp,
                                       stages := stages, n := count, saved := t.p } :: r } : StreamState).done).preciseStop left) ∧
          (sp = false → p = t.p) ∧
          (sp = true → ∀ b < 8, p.getLsbD b = if b < 4 then t.p.getLsbD b else decide (b = 4))) ∧
        (count = 0 →
          u.skipLoop s.fcore s.focusLane i lineFuel s.me.pc.line.toNat (s.me.pc.lane.toNat + 1)
            (s.me.pc.line.toNat, s.me.pc.lane.toNat) = .found ln j →
          u.unwalked s.me.pc.line.toNat ln = none → u.lineFor s.fcore s.focusLane ln = .ok l →
          exec (.loop g i sp a n) s = .next (((u.holdLine ln l).updMe fun t =>
            t.doneAt ⟨BitVec.ofNat 64 ln, BitVec.ofNat 3 j, false⟩).preciseStop left)))

/-- R271: a precise halt stops the stream that it let go on once its level has been left or its ENDL executed; no other halt does, and
nothing else changes. -/
def Parts.PreciseHaltStops : Prop :=
  ∀ (s : State) (hit : Nat → Bool),
    (s.myCore.halt = none → s.preciseStop hit = s) ∧
    (∀ h, s.myCore.halt = some h → s.preciseStop hit =
      if h.op = 3 ∧ hit h.level = true then s.updMe fun t => { t with halted := true } else s)

/-- R39, R348: LOOP traps (illegal-instruction, 4) on a level that is not temporal, beyond depth 8, and on a second `.sp`; ENDL on a
level that is not active, not temporal, or whose mark flag differs. The model's choices and readings: log 55. -/
def Parts.LoopChecksTrap : Prop :=
  ∀ (s : State) (g : Guard) (i : BitVec 4) (sp m : Bool) (a : BitVec 5) (n : BitVec 3),
    (s.issues (.loop g i sp a n) →
      ((s.myCore.loopRow i.toNat).kind ≠ 1 ∨
        (∀ e ∈ s.me.loops, e.id ≠ i) ∧ (s.me.loops.length = 8 ∨ sp = true ∧ s.me.spActive = true)) →
      exec (.loop g i sp a n) s = .next (s.trap causeIllegal 4)) ∧
    (s.issues (.endl g i m) →
      ((∀ e ∈ s.me.loops, e.id ≠ i) ∨ (s.myCore.loopRow i.toNat).kind ≠ 1 ∨ (s.myCore.loopRow i.toNat).mark ≠ m) →
      exec (.endl g i m) s = .next (s.trap causeIllegal 4))

/-- R44, R270, R271, R348: ENDL of an active level discards the levels above it, which are left, and starts the level's next iteration, or
leaves it, restoring `p4`-`p7` of a `.sp` level; ENDL.m commits a mark that resumes where the stream then stands, and is traced, waiting
first for the stream's earlier accesses. -/
def Parts.EndlClosesAnIteration : Prop :=
  ∀ (s : State) (g : Guard) (i : BitVec 4) (m : Bool) (above : List LoopEntry) (e : LoopEntry) (r : List LoopEntry),
    let row := s.myCore.loopRow i.toNat
    let e' : LoopEntry := { e with iter := e.iter + 1, left := e.left - 1 }
    let t := s.me.popLoops above.length
    let next (_ : StreamState) : StreamState :=
      { t with loops := e' :: r, pc := e.start, wait := .none,
               p := if e.sp then stagePreds t.p e.stages e.n (e.iter + 1) else t.p }
    let leave (_ : StreamState) : StreamState :=
      ({ t with loops := r, p := if e.sp then (t.p &&& 0x0F) ||| (e.saved &&& 0xF0) else t.p } : StreamState).done
    let u := s.loopsExit s.fcore s.focusLane above
    let marks (v : State) : State :=
      (v.commitMark s.fcore s.focusLane row.live).trace s.fcore s.focusLane (laneTag s.focusLane) 2 0 0 0
    let hit (n : Nat) : Bool := i.toNat == n || (hasLevel s.me.loops n && !hasLevel (e :: r) n)
    s.issues (.endl g i m) → s.me.loops = above ++ e :: r → (∀ x ∈ above, x.id ≠ i) → e.id = i → row.kind = 1 → row.mark = m →
      t.loops = e :: r ∧
      (m = false → 1 < e.left → exec (.endl g i m) s = .next ((u.updMe next).preciseStop hit)) ∧
      (m = false → e.left ≤ 1 → exec (.endl g i m) s = .next (((u.updMe leave).loopExit s.fcore s.focusLane i).preciseStop hit)) ∧
      (m = true → s.settled = false → exec (.endl g i m) s = .next (s.stall .stall)) ∧
      (m = true → s.settled = true → 1 < e.left → exec (.endl g i m) s = .next ((marks (u.updMe next)).preciseStop hit)) ∧
      (m = true → s.settled = true → e.left ≤ 1 → exec (.endl g i m) s =
        .next ((marks ((u.updMe leave).loopExit s.fcore s.focusLane i)).preciseStop hit)) ∧
      (above = [] → u = s ∧ t = s.me)

/-- R37, R44, R45: what a committed mark holds: the stream's place, loops, predicates, masks and floating-point registers, the
registers that `live` names and zeros elsewhere, and its push and pop counts; its number is one more than the last. -/
def Parts.MarkHoldsTheStream : Prop :=
  ∀ (s : State) (core : Nat) (l : Lane) (live : Word),
    let t := s.str core l
    ∃ m, ((s.commitMark core l live).str core l).mark = some m ∧ m.seq = (t.mark.map (·.seq)).getD 0 + 1 ∧ m.pc = t.pc ∧
      m.loops = t.loops ∧ m.p = t.p ∧ m.m = t.m ∧ m.fpctl = t.fpctl ∧ m.fpflags = t.fpflags ∧ m.seed = t.seed ∧
      m.pops = t.pops ∧ m.pushes = t.pushes ∧
      (∀ i (h : i < 32), m.s[i] = if live.getLsbD i then t.s[i] else 0) ∧
      (∀ i (h : i < 16), m.a[i] = if live.getLsbD (32 + i) then t.a[i] else 0) ∧
      (∀ i (h : i < 32), m.v[i] = if i < 16 ∧ live.getLsbD (48 + i) then t.v[i] else 0)

/-- R348: the stage predicates of a `.sp` level: for stage j below the stage count, `p`(4 + j) is true in iteration t exactly when
0 ≤ t - j < n; for the others it is false; `p1`-`p3` keep. -/
def Parts.StagePredicates : Prop :=
  ∀ (p : BitVec 8) (stages n t b : Nat), stages ≤ 4 →
    (stagePreds p stages n t).getLsbD b =
      if b < 4 then p.getLsbD b else decide (b < 8 ∧ b - 4 < stages ∧ b - 4 ≤ t ∧ t < n + (b - 4))

/-- R281, R363, R385: NOP goes on; TIME reads `tick` or `beat`; PAUSE goes on after min(`sA`[31:0], 65536) cycles of `tick`. -/
def Parts.NopTimeAndPause : Prop :=
  ∀ (s : State) (g : Guard) (d a : BitVec 5) (b : Bool),
    let n := min ((s.me.rs a).toNat % 2 ^ 32) 65536
    (s.issues (.nop g) → exec (.nop g) s = .next (s.updMe StreamState.done)) ∧
    (s.issues (.time g d b) → exec (.time g d b) s = .next (s.updMe fun t => (t.ws d (if b then s.beat else s.tick)).done)) ∧
    (s.issues (.pause g a) → n ≠ 0 →
      exec (.pause g a) s = .next (s.updMe fun t => { t.done with wait := .pause (s.tick.toNat + n) })) ∧
    (s.issues (.pause g a) → n = 0 → exec (.pause g a) s = .next (s.updMe StreamState.done))

/-! ### Memory -/

/-- R340, R341, R379, R338: a load or store whose address is aligned and whose place is readable or writable completes: a load
gives the bytes, extended, a store writes the low bytes; KLD and KST move 128 bytes. `spot` says where the address lands. The
load is of memory or of a window, in a class that no `CWAY` bank serves. The model's choices and readings: log 3. -/
def Parts.LoadsAndStoresComplete : Prop :=
  ∀ (s : State) (g : Guard) (d a : BitVec 5) (k : BitVec 3) (c : BitVec 4) (z : BitVec 2) (o : BitVec 6) (t : Target),
    let n := 2 ^ z.toNat
    let va := s.me.ra a + BitVec.ofNat 64 n * o.signExtend 64
    let word := s.focusLane == .c && (n == 4 || n == 8)
    let w := s.who s.fcore
    let value := ofBytes (s.readLoc t.key n)
    let memory : Prop := (∀ pa, t ≠ .sys pa) ∧ s.performed s.fcore s.focusLane
    let plain (va : Word) : Prop := memory ∧ (classCway s.myCore.clsattr c.toNat = false ∨ 2 ^ 56 ≤ va.toNat)
    (s.issues (.ld g d a c z o) → va.toNat % n = 0 → s.spot w .read word va.toNat n = .at t → plain va →
      exec (.ld g d a c z o) s = .next (s.updMe fun m => (m.ws d (BitVec.ofNat 64 value)).done)) ∧
    (s.issues (.lds g d a c z o) → va.toNat % n = 0 → s.spot w .read word va.toNat n = .at t → plain va →
      exec (.lds g d a c z o) s = .next (s.updMe fun m =>
        (m.ws d (BitVec.ofInt 64 (toSigned (8 * n) value))).done)) ∧
    (s.issues (.st g d a c z o) → va.toNat % n = 0 → s.spot w .write word va.toNat n = .at t → memory →
      exec (.st g d a c z o) s = .next ((s.updMe StreamState.done).storeAt (s.fcore / 4) t (bytesOf n (s.me.rs d).toNat))) ∧
    (s.issues (.kld g k a c) → (s.me.ra a).toNat % 128 = 0 → s.spot w .read false (s.me.ra a).toNat 128 = .at t →
      plain (s.me.ra a) → exec (.kld g k a c) s = .next (s.updMe fun m =>
        (m.wk k (BitVec.ofNat 1024 (ofBytes (s.readLoc t.key 128)))).done)) ∧
    (s.issues (.kst g k a c) → (s.me.ra a).toNat % 128 = 0 → s.spot w .write false (s.me.ra a).toNat 128 = .at t →
      memory → exec (.kst g k a c) s =
        .next ((s.updMe StreamState.done).storeAt (s.fcore / 4) t (bytesOf 128 (s.me.rk k).toNat)))

/-- R167: in a class whose reads `CWAY` banks may serve, a load of user memory gives what memory holds or what the cluster's held
line does, and stores nothing. The model's choices and readings: log 9. -/
def Parts.CachedLoadsGiveMemoryOrTheHeldLine : Prop :=
  ∀ (s : State) (g : Guard) (d a : BitVec 5) (c : BitVec 4) (z : BitVec 2) (o : BitVec 6) (t : Target),
    let n := 2 ^ z.toNat
    let va := s.me.ra a + BitVec.ofNat 64 n * o.signExtend 64
    s.issues (.ld g d a c z o) → va.toNat % n = 0 → va.toNat < 2 ^ 56 → s.performed s.fcore s.focusLane →
    s.spot (s.who s.fcore) .read (s.focusLane == .c && (n == 4 || n == 8)) va.toNat n = .at t → (∀ pa, t ≠ .sys pa) →
    classCway s.myCore.clsattr c.toNat = true →
      ∃ u bs, exec (.ld g d a c z o) s = .next u ∧ u.me.rs d = BitVec.ofNat 64 (ofBytes bs) ∧ u.mem = s.mem ∧
        (bs = s.readLoc t.key n ∨ ∃ l ∈ (s.cluster (s.fcore / 4)).cway, l.pa = t.key / 128 * 128 ∧
          bs = ((bytesOf 128 l.data.toNat).drop (t.key - l.pa)).take n)

/-- R340, R217, R100, R260: a misaligned access takes the alignment fault, wherever its address lies; an address that translation or its
window turns away takes the fault named, with the address in the frame, and nothing is loaded or stored; a bank that changes mode or is
busy makes the stream wait, as does a page that no TLB holds, whose walk is asked for whether or not the page is mapped, and, a store, a
chunk that a snapshot has still to copy. The model's choices and readings: log 10, 35, 68. -/
def Parts.LoadAndStoreFaults : Prop :=
  ∀ (s : State) (g : Guard) (d a : BitVec 5) (c : BitVec 4) (z : BitVec 2) (o : BitVec 6) (f : AccFault),
    let n := 2 ^ z.toNat
    let va := s.me.ra a + BitVec.ofNat 64 n * o.signExtend 64
    let word := s.focusLane == .c && (n == 4 || n == 8)
    let w := s.who s.fcore
    let fault (kind : AccKind) (f : AccFault) : State := s.stopCore s.fcore
      { cause := f.cause, sub := f.sub, src := laneTag s.focusLane, addr := some f.addr, access := kind.code, cls := c.toNat,
        width := n.log2 }
    (s.issues (.ld g d a c z o) → va.toNat % n ≠ 0 → exec (.ld g d a c z o) s = .next (fault .read ⟨0x17, 0, va.toNat⟩)) ∧
    (s.issues (.st g d a c z o) → va.toNat % n ≠ 0 → exec (.st g d a c z o) s = .next (fault .write ⟨0x17, 0, va.toNat⟩)) ∧
    (s.issues (.ld g d a c z o) → va.toNat % n = 0 → s.performed s.fcore s.focusLane →
      s.spot w .read word va.toNat n = .fault f → exec (.ld g d a c z o) s = .next (fault .read f)) ∧
    (s.issues (.st g d a c z o) → va.toNat % n = 0 → s.performed s.fcore s.focusLane →
      s.spot w .write word va.toNat n = .fault f → exec (.st g d a c z o) s = .next (fault .write f)) ∧
    (s.issues (.ld g d a c z o) → va.toNat % n = 0 → s.performed s.fcore s.focusLane →
      s.spot w .read word va.toNat n = .wait → exec (.ld g d a c z o) s = .next (s.stall .stall)) ∧
    (s.issues (.ld g d a c z o) → va.toNat % n = 0 → s.performed s.fcore s.focusLane → s.tlbHit w.tenant w.core va.toNat = false →
      exec (.ld g d a c z o) s = .next ((s.noteMiss s.fcore va.toNat).stall .stall)) ∧
    (s.issues (.st g d a c z o) → va.toNat % n = 0 → s.performed s.fcore s.focusLane →
      (s.tlbHit w.tenant w.core va.toNat = false ∨
        ∃ t p, s.translate w .write va.toNat = .ok t ∧ s.mod.snap = some p ∧ t.key / 65536 ∈ p.pending) →
      exec (.st g d a c z o) s = .next ((s.noteMiss s.fcore va.toNat).stall .stall))

/-- R338, R379, the frame of ST and KST: every byte outside the stored ones reads as before, the stored ones read as stored; the issuing stream
keeps every register and goes on; no other stream but C's parked at a wait on a watch changes; clusters keep all but held lines
of `CWAY` banks. The model's choices and readings: log 3. -/
def Obligations.StoreFrame : Prop :=
  ∀ (s : State) (g : Guard) (d a : BitVec 5) (k : BitVec 3) (c : BitVec 4) (z : BitVec 2) (o : BitVec 6) (t : Target) (u : State),
    let n := 2 ^ z.toNat
    let va := s.me.ra a + BitVec.ofNat 64 n * o.signExtend 64
    let w := s.who s.fcore
    let frame (bs : List Nat) : Prop :=
      (∀ x, ¬ (t.key ≤ x ∧ x < t.key + bs.length) → memRead u.mem x = memRead s.mem x) ∧
      (∀ i (h : i < bs.length), memRead u.mem (t.key + i) = BitVec.ofNat 8 bs[i]) ∧
      u.me = s.me.done ∧
      (∀ core l, (core ≠ s.fcore ∨ l ≠ s.focusLane) → (l ≠ .c ∨ (s.core core).watch = none) → u.str core l = s.str core l) ∧
      (∀ core, (u.core core).job = (s.core core).job ∧ (u.core core).q = (s.core core).q ∧ (u.core core).bq = (s.core core).bq ∧
        (u.core core).fifo = (s.core core).fifo ∧ (u.core core).stop = (s.core core).stop ∧ (u.core core).gen = (s.core core).gen ∧
        (u.core core).ringL = (s.core core).ringL ∧ (u.core core).ringK = (s.core core).ringK ∧
        (u.core core).ringS = (s.core core).ringS ∧ (u.core core).ringG = (s.core core).ringG) ∧
      (∀ cl, (u.cluster cl).banks = (s.cluster cl).banks ∧ (u.cluster cl).acc = (s.cluster cl).acc ∧
        (u.cluster cl).brings = (s.cluster cl).brings) ∧
      u.tick = s.tick ∧ u.beat = s.beat
    Memory.wf s.mem → (∀ pa, t ≠ .sys pa) → s.performed s.fcore s.focusLane →
      (s.issues (.st g d a c z o) → va.toNat % n = 0 →
        s.spot w .write (s.focusLane == .c && (n == 4 || n == 8)) va.toNat n = .at t →
        exec (.st g d a c z o) s = .next u → frame (bytesOf n (s.me.rs d).toNat)) ∧
      (s.issues (.kst g k a c) → (s.me.ra a).toNat % 128 = 0 → s.spot w .write false (s.me.ra a).toNat 128 = .at t →
        exec (.kst g k a c) s = .next u → frame (bytesOf 128 (s.me.rk k).toNat))

/-- R176, R184, R185, R295: AMO reads the old value into `sD`, zero-extended, and writes the new one, unless a cas fails; fadd rounds
to nearest, and its flags go to the tenant and, in C, to the stream. -/
def Obligations.AmoResults : Prop :=
  ∀ (s : State) (g : Guard) (d a : BitVec 5) (c : BitVec 4) (wide r q : Bool) (o : BitVec 4) (t : Target),
    let n := if wide then 8 else 4
    let va := (s.me.ra a).toNat
    let old := ofBytes (s.readLoc t.key n)
    let x := (s.me.rs d).toNat % 2 ^ (8 * n)
    let y := (s.me.rs (d + 1)).toNat % 2 ^ (8 * n)
    let sg := toSigned (8 * n)
    let new : Nat := [(old + x) % 2 ^ (8 * n), old &&& x, old ||| x, old ^^^ x, if sg old ≤ sg x then old else x,
      if sg old ≤ sg x then x else old, Nat.min old x, Nat.max old x, x, y].getD o.toNat 0
    s.issues (.amo g d a c wide r q o) → va % n = 0 → s.performed s.fcore s.focusLane → s.amoSpot va n = .ok t →
      (o.toNat ≤ 9 → (o.toNat = 9 → old = x) → exec (.amo g d a c wide r q o) s =
        .next (((s.storeAt (s.fcore / 4) t (bytesOf n new)).amoFlags 0).updMe fun m => (m.ws d (BitVec.ofNat 64 old)).done)) ∧
      (o.toNat = 9 → old ≠ x → exec (.amo g d a c wide r q o) s =
        .next ((s.amoFlags 0).updMe fun m => (m.ws d (BitVec.ofNat 64 old)).done)) ∧
      (o.toNat = 10 →
        let f := if wide then fF64 else fF32
        let v := f.add 0 0 (f.decode old) (f.decode x)
        exec (.amo g d a c wide r q o) s = .next (((s.storeAt (s.fcore / 4) t (bytesOf n v.1)).amoFlags v.2).updMe fun m =>
          (m.ws d (BitVec.ofNat 64 old)).done))

/-- R217, R330, R331, R342: LDQ puts a read, and GATH a gather, of one entry into an empty address queue that has a place for it;
where it performs, the entry stands at the end of the data queue and the stream has gone on. The model's choices and readings: log 3. -/
def Parts.QueueReadsComplete : Prop :=
  ∀ (s : State) (g : Guard) (q : BitVec 2) (a b : BitVec 5) (c : BitVec 4) (w : BitVec 2) (o : BitVec 6) (bs : List Nat)
    (s1 : State),
    let va := s.me.ra a + 128 * o.signExtend 64
    let counted := s.updMe fun t => { t with pushes := t.pushes.put q.toNat (t.pushes.at q.toNat 0 + 1) }
    let held (e : AqEntry) : State := counted.updMyCore fun k => { k with aq := [e] }
    let room : Prop := s.myCore.aq = [] ∧ (s.myCore.queue q.toNat).accepted ≤ s.me.pushed q.toNat ∧
      (s.myCore.queue q.toNat).entries.length < 8
    let pushed (s : State) : State := (s.updMyCore fun k =>
      ({ k.setQueue q.toNat ((k.queue q.toNat).append (ofBytes bs)) with lastChange := s.tick.toNat } : CoreState).aqPop []).updMe
        StreamState.done
    (s.issues (.ldq g q a c o) → va.toNat % 128 = 0 → room →
      (held (.read q.toNat va c)).readAs s.fcore false c.toNat va.toNat 128 = .ok (bs, s1) → s1.focusCore = s.focusCore →
      s1.focusLane = s.focusLane → exec (.ldq g q a c o) s = .next (pushed s1)) ∧
    (s.issues (.gath g q a b w) → (s.me.ra b).toNat % 4 = 0 → room →
      (let h := held (.gather q.toNat (s.me.ra a) (s.me.ra b) (2 ^ w.toNat) none)
       let list := indexAddrs (s.me.ra b) (128 / 2 ^ w.toNat)
       h.mustWait s.fcore .read (list.map (·, 4)) = none ∧ ∃ s2 ix, h.readEach s.fcore 4 list = (s2, .ok ix) ∧
        s2.gatherElems s.fcore (2 ^ w.toNat) ((wordsOf ix).map fun i => (s.me.ra a + BitVec.ofNat 64 (2 ^ w.toNat) *
          BitVec.ofInt 64 (toSigned 32 i)).toNat) = (s1, .ok bs)) → s1.focusCore = s.focusCore →
      s1.focusLane = s.focusLane → exec (.gath g q a b w) s = .next (pushed s1))

/-- R375, R380: STQ takes the entry of `q4` at the read position, SCAT sixteen of them, and where the address queue is empty the
write performs at once; with too few entries each waits. The model's choices and readings: log 3. -/
def Parts.QueueWritesComplete : Prop :=
  ∀ (s : State) (g : Guard) (a b : BitVec 5) (c : BitVec 4) (z w : BitVec 2) (o : BitVec 6) (v : Nat) (l : List Nat) (s1 : State),
    let n := 2 ^ z.toNat
    let va := s.me.ra a + BitVec.ofNat 64 n * o.signExtend 64
    let taken (m : Nat) : State :=
      let rd := (s.myCore.queue 4).rd + m
      (s.updMyCore fun k => { k.setQueue 4 { k.queue 4 with rd := rd } with lastChange := s.tick.toNat }).updMe fun t =>
        { t with pops := t.pops.put 4 rd }
    let held (m : Nat) (e : AqEntry) : State := (taken m).updMyCore fun k => { k with aq := [e] }
    let done (s : State) : State := (s.updMyCore fun k => k.aqPop []).updMe StreamState.done
    (s.issues (.stq g a c z o) → va.toNat % n = 0 → s.dataAhead 1 = none → exec (.stq g a c z o) s = .next (s.stall (.queue 4))) ∧
    (s.issues (.stq g a c z o) → va.toNat % n = 0 → s.dataAhead 1 = some [v] → s.myCore.aq = [] →
      (held 1 (.write va n v c)).writeAs s.fcore false va.toNat (bytesOf n v) = .ok s1 → s1.focusCore = s.focusCore →
      s1.focusLane = s.focusLane → exec (.stq g a c z o) s = .next (done s1)) ∧
    (s.issues (.scat g a b w) → s.dataAhead 16 = none →
      exec (.scat g a b w) s = .next (s.stall (.queue 4))) ∧
    (s.issues (.scat g a b w) → (s.me.ra b).toNat % 4 = 0 → s.dataAhead 16 = some l → s.myCore.aq = [] →
      (let data := ofBytes (l.flatMap (bytesOf 8))
       let h := held 16 (.scatter (s.me.ra a) (s.me.ra b) (2 ^ w.toNat) data none)
       let list := indexAddrs (s.me.ra b) (128 / 2 ^ w.toNat)
       h.mustWait s.fcore .read (list.map (·, 4)) = none ∧ ∃ s2 ix, h.readEach s.fcore 4 list = (s2, .ok ix) ∧
        s2.scatterElems s.fcore (2 ^ w.toNat) ((wordsOf ix).map fun i => (s.me.ra a + BitVec.ofNat 64 (2 ^ w.toNat) *
          BitVec.ofInt 64 (toSigned 32 i)).toNat) (bytesOf 128 data) = (s1, .done)) →
      s1.focusCore = s.focusCore → s1.focusLane = s.focusLane → exec (.scat g a b w) s = .next (done s1))

/-- R100, R307, R368: PREF fills the line of a user address that it may read where a bank is a way; CFLUSH drops the line that a page maps
a user address to, whoever may access the page; another address has no effect; both go on, once a TLB holds the page. -/
def Parts.PrefAndCflushComplete : Prop :=
  ∀ (s : State) (g : Guard) (a : BitVec 5),
    let va := (s.me.ra a).toNat
    let w := s.who s.fcore
    let goesOn (i : Instr) (t : State) : Prop := s.issues i → exec i s = .next t
    (s.tlbHit w.tenant w.core va = false → goesOn (.pref g a) ((s.noteMiss s.fcore va).stall .stall) ∧
      goesOn (.cflush g a) ((s.noteMiss s.fcore va).stall .stall)) ∧
    (s.tlbHit w.tenant w.core va = true →
      (∀ t, s.translate w .read va = .ok t → va < 2 ^ 56 → t.isMemory →
        goesOn (.pref g a) ((s.fillLine (s.fcore / 4) (t.key / 128 * 128)).updMe StreamState.done)) ∧
      ((∀ t, s.translate w .read va = .ok t → 2 ^ 56 ≤ va ∨ t.isMemory = false) → goesOn (.pref g a) (s.updMe StreamState.done)) ∧
      (∀ m, va < 2 ^ 56 → s.mapping w.tenant va = some m → goesOn (.cflush g a) ((s.updCluster (s.fcore / 4) fun c =>
        { c with cway := c.cway.filter fun x => x.pa != (m.pa + (va - m.va)) / 128 * 128 }).updMe StreamState.done)) ∧
      ((2 ^ 56 ≤ va ∨ s.mapping w.tenant va = none) → goesOn (.cflush g a) (s.updMe StreamState.done)))

/-! ### Queues, tokens and command registers -/

/-- R40, R41, R43, R66, R371, R372: QPEEK and QPOP read the entry at the read position, into a vector from `q0`-`q3` and into a scalar
from the others, and QPOP moves on; QPUSH puts a scalar at the end of a queue that has room; each waits otherwise. With a token, QPOP
pops one first and QPUSH pushes one. -/
def Parts.QueuePopsAndPushes : Prop :=
  ∀ (s : State) (g : Guard) (d a : BitVec 5) (q : BitVec 3) (t : Bool) (f : BitVec 2) (v : Nat),
    let qr := s.myCore.queue q.toNat
    let entry (m : StreamState) : StreamState :=
      if q.toNat < 4 then m.wv d (BitVec.ofNat 1024 v) else m.ws d (BitVec.ofNat 64 v)
    let token : State := if t then s.popToken s.fcore f.toNat 2 else s
    (s.issues (.qpeek g d q) → qr.peek = some v → exec (.qpeek g d q) s = .next (s.updMe fun m => (entry m).done)) ∧
    (s.issues (.qpeek g d q) → qr.peek = none → exec (.qpeek g d q) s = .next (s.stall (.queue q.toNat))) ∧
    (s.issues (.qpop g d q t f) → (t = true → (s.myCore.tokens (4 * f.toNat + 2)).some) → qr.peek = some v →
      exec (.qpop g d q t f) s = .next ((token.updMyCore fun k =>
        let k := { k.setQueue q.toNat { qr with rd := qr.rd + 1 } with lastChange := s.tick.toNat }
        if q = 6 then k.applyXfp qr.rd else k).updMe fun m =>
          ({ entry m with pops := m.pops.put q.toNat (qr.rd + 1) } : StreamState).done)) ∧
    (s.issues (.qpop g d q t f) → (t = true → (s.myCore.tokens (4 * f.toNat + 2)).some) → qr.peek = none →
      exec (.qpop g d q t f) s = .next (s.stall (.queue q.toNat))) ∧
    (s.issues (.qpop g d q true f) → (s.myCore.tokens (4 * f.toNat + 2)).some = false →
      exec (.qpop g d q true f) s = .next (s.stall (.token f.toNat 2))) ∧
    (s.issues (.qpush g q a t f) → qr.tryPush (s.me.pushed q.toNat) (if q.toNat < 4 then 8 else 16) ≠ .full →
      (t = true → s.tokenBlocked f.toNat = false) →
      exec (.qpush g q a t f) s = .next ((if t then (s.pushQueue q.toNat (s.me.rs a).toNat).pushTokenX f.toNat
        else s.pushQueue q.toNat (s.me.rs a).toNat).updMe StreamState.done)) ∧
    (s.issues (.qpush g q a t f) → qr.tryPush (s.me.pushed q.toNat) (if q.toNat < 4 then 8 else 16) = .full →
      exec (.qpush g q a t f) s = .next (s.stall (.queue q.toNat)))

/-- R41, R45: a push that the queue has already is discarded, one more is appended where there is room, and either is counted; a
queue holds what its consumer has popped since its last mark. -/
def Parts.PushesAreCountedAndDiscardedOnce : Prop :=
  ∀ (s : State) (q v : Nat),
    let qr := s.myCore.queue q
    let n := s.me.pushed q
    let u := s.pushQueue q v
    u.me.pushed q = n + 1 ∧
    (n < qr.base + qr.entries.length → (u.myCore.queue q) = qr) ∧
    (qr.base + qr.entries.length ≤ n → qr.entries.length < queueDepth q →
      (u.myCore.queue q) = { qr with entries := qr.entries ++ [v] }) ∧
    (qr.tryPush n (queueDepth q) = .full ↔ qr.base + qr.entries.length ≤ n ∧ queueDepth q ≤ qr.entries.length)

/-- R373, R113: QSTAT returns the selected word of the status of the record that a ring's slot still holds, else all ones. -/
def Parts.QstatResult : Prop :=
  ∀ (s : State) (g : Guard) (d a : BitVec 5) (r : BitVec 2), s.issues (.qstat g d a r) →
    let ring := s.myCore.ring (ringOfCode r)
    let n := (s.me.rs a).toNat % 2 ^ 32
    let sel := (s.me.rs a).toNat / 2 ^ 32 % 4
    (∀ x, 1 ≤ n → n ≤ ring.acc → ring.acc < n + 512 → ring.slots.find (n % 512) = some x →
      exec (.qstat g d a r) s = .next (s.updMe fun m => (m.ws d (
        if sel = 0 then BitVec.ofNat 64 (x.st.state + x.st.cause * 2 ^ 8 + x.st.fpfl.toNat * 2 ^ 16 + x.st.kflags.toNat * 2 ^ 24 +
          x.st.kcount % 2 ^ 32 * 2 ^ 32)
        else if sel = 1 then x.st.rmask
        else if sel = 2 then BitVec.ofNat 64 (x.st.mark % 2 ^ 32 + x.st.beat.toNat * 2 ^ 32)
        else if x.st.popd then 1 else 0)).done)) ∧
    (n = 0 ∨ ring.acc < n ∨ n + 512 ≤ ring.acc → exec (.qstat g d a r) s = .next (s.updMe fun m => (m.ws d (-1)).done))

/-- R285, R337: the command-register instructions: KCLR clears, KSET and KSETI write a 32-bit word, KSETD two, KGET reads one; every
other word keeps. -/
def Parts.CommandRegisterWords : Prop :=
  ∀ (s : State) (g : Guard) (k : BitVec 3) (w r : BitVec 5) (i : BitVec 14),
    let word (v : Vec) (j : Nat) : BitVec 32 := v.extractLsb' (32 * j) 32
    let writes (i : Instr) (n : Nat) (x : Word) : Prop := s.issues i → ∃ v, exec i s = .next (s.updMe fun t => (t.wk k v).done) ∧
      (∀ j < n, word v (w.toNat + j) = x.extractLsb' (32 * j) 32) ∧
      (∀ j < 32, j < w.toNat ∨ w.toNat + n ≤ j → word v j = word (s.me.rk k) j)
    (s.issues (.kclr g k) → exec (.kclr g k) s = .next (s.updMe fun t => (t.wk k 0).done)) ∧
    writes (.kset g k w r) 1 (s.me.rs r) ∧ writes (.ksetd g k w r) 2 (s.me.rs r) ∧ writes (.kseti g k w i) 1 (i.signExtend 64) ∧
    (s.issues (.kget g k w r) → exec (.kget g k w r) s =
      .next (s.updMe fun t => (t.ws r ((word (s.me.rk k) w.toNat).setWidth 64)).done))

/-- R105-R107, R114, R171, R339: KPUSH and KNOTE put a record into a ring that is in ring mode and has room: its sequence number is one
more than the ring's, written with `gen` into it, and returned in `sD`; it waits for the entries of stream A's address queue of its
class; a chain-mode ring raises the queue-mode fault, a full one makes the stream wait, and a push that the ring has already is
discarded, but tells a record that a rolled-back stream A has to push again what it waits for. A push of a number beyond the next raises
the queue-sequence fault, and one beyond 2^30 - 1 records the queue-limit fault. -/
def Parts.RecordPushes : Prop :=
  ∀ (s : State) (g : Guard) (d a : BitVec 5) (q : BitVec 2) (i : Instr) (bytes : Vec),
    let r := ringOfCode q
    let ring := s.myCore.ring r
    let n := s.me.pushed (12 + q.toNat) + 1
    let stamped := stampRec bytes n (s.myCore.gen.toNat % 65536)
    let rel := s.myCore.releaseOf r (bytes.extractLsb' 24 4)
    let new := { Rec.make stamped n s.beat.toNat s.tick.toNat s.steps false false with after := some rel }
    let told (x : Rec) : Rec := if x.st.seq = n ∧ x.after = none then { x with after := some rel } else x
    let out (s : State) : State := s.updMe fun t =>
      ({ t with pushes := t.pushes.put (12 + q.toNat) n } : StreamState).ws d (BitVec.ofNat 64 n) |>.done
    (i = .kpush g d a q ∧ bytes = s.me.rk (a.setWidth 3) ∨ i = .knote g d a q ∧ bytes = noteRec (s.me.rs a) false) →
    s.issues i →
      ((s.myCore.chain r).mode = true → exec i s = .next (s.trap 0x33 0)) ∧
      ((s.myCore.chain r).mode = false → ring.occupancy = 512 → exec i s = .next (s.stall (.ringFull r))) ∧
      ((s.myCore.chain r).mode = false → ring.occupancy ≠ 512 → n ≤ ring.acc → exec i s =
        .next (out (s.updMyCore fun k => k.setRing r { ring with slots := ring.slots.map fun p =>
          (p.1, if p.1 = n % 512 then told p.2 else p.2) }))) ∧
      ((s.myCore.chain r).mode = false → ring.occupancy ≠ 512 → n = ring.acc + 1 → ring.acc < 2 ^ 30 - 1 → exec i s =
        .next (out (s.updMyCore fun k => (k.setRing r ⟨ring.slots.put (n % 512) new, n, ring.ret⟩).noteOldest r))) ∧
      ((s.myCore.chain r).mode = false → ring.occupancy ≠ 512 → ring.acc + 1 < n → exec i s = .next (s.trap 0x32 0)) ∧
      ((s.myCore.chain r).mode = false → ring.occupancy ≠ 512 → n = ring.acc + 1 → 2 ^ 30 - 1 ≤ ring.acc →
        exec i s = .next (s.trap 0x31 0))

/-- R114, R115, R369, R370: QKICK adds to the kicks of a chain, QLINK starts one once the ring is empty, and returns to ring mode with
a count of zero; QKICK of a ring raises the queue-mode fault. The model's choices and readings: log 23. -/
def Parts.ChainInstructions : Prop :=
  ∀ (s : State) (g : Guard) (a b : BitVec 5) (q : Bool),
    let r : RingId := if q then .s else .l
    let c := s.myCore.chain r
    let ch := if q then 33 else 32
    let kicks := s.me.pushed ch + (s.me.rs a).toNat % 2 ^ 32
    let n := (s.me.rs b).toNat
    (s.issues (.qkick g a q) → c.mode = false → exec (.qkick g a q) s = .next (s.trap 0x33 0)) ∧
    (s.issues (.qkick g a q) → c.mode = true → exec (.qkick g a q) s =
      .next ((s.updMyCore fun k => k.setChain r { c with kicks := max c.kicks kicks }).updMe fun t =>
        ({ t with pushes := t.pushes.put ch kicks } : StreamState).done)) ∧
    (s.issues (.qlink g q a b) → 65536 < n → exec (.qlink g q a b) s = .next (s.trap causeIllegal 4)) ∧
    (s.issues (.qlink g q a b) → n ≤ 65536 → (s.me.ra a).toNat % 128 = 0 → s.repeated = none → (s.myCore.ring r).occupancy = 0 →
      exec (.qlink g q a b) s = .next ((s.updMyCore fun k => { k.setChain r
        { c with mode := n != 0, addr := s.me.ra a, left := n, fetched := if n != 0 then c.kicks else c.fetched, link := none } with
          log := k.log ++ [0] }).updMe fun t => (t.addPush 40 1).done)) ∧
    (s.issues (.qlink g q a b) → n ≤ 65536 → (s.me.ra a).toNat % 128 = 0 → s.repeated = none → (s.myCore.ring r).occupancy ≠ 0 →
      exec (.qlink g q a b) s =
        .next ((s.updMyCore fun k => k.setChain r { c with link := some (s.me.ra a, n) }).stall (.ringFull r)))

/-- R35, R374: REND ends the stream once its accesses and posts have performed; X pushes nothing, C pushes a final NOTE into K
and G and A one into L and S. Its loops are left, and its instruction buffer is discarded. -/
def Parts.RendEndsTheStream : Prop :=
  ∀ s : State, s.issues .rend →
    let ends (s : State) : State :=
      ((s.loopsExit s.fcore s.focusLane s.me.loops).updMe fun t =>
        { t with ended := true, wait := .ended, loops := [], ibuf := [] }).updMyCore fun k => { k with lastChange := s.tick.toNat }
    (s.settled = false → exec .rend s = .next (s.stall .stall)) ∧
    (s.settled = true → s.focusLane = .x → exec .rend s = .next (ends s)) ∧
    (∀ l q1 q2 s1 s2, s.settled = true → (l = .c ∧ q1 = .k ∧ q2 = .g ∨ l = .a ∧ q1 = .l ∧ q2 = .s) → s.focusLane = l →
      s.finalPush q1 = .ok (some s1) → s1.finalPush q2 = .ok (some s2) → s2.focusCore = s.focusCore → s2.focusLane = l →
      exec .rend s = .next (ends s2))

/-! ### Vectors -/

/-- R388, R389, R396: element arithmetic, modulo 2^(8w) on integers, rounded by `fpctl.rm` on floating-point values. -/
def Parts.VectorArithmetic : Prop :=
  ∀ (s : State) (k : MaskSel) (d a b : BitVec 5) (t : BitVec 4),
    let w := typeWidth t.toNat
    let x (j : Nat) := elemAt (s.me.rv a) w j
    let y (j : Nat) := elemAt (s.me.rv b) w j
    let z (j : Nat) := elemAt (s.me.rv d) w j
    let signed : Bool := 6 ≤ t.toNat && t.toNat ≤ 9
    let gives (i : Instr) (r : Nat → BitVec (8 * w)) : Prop := s.vectorResult i k d w r fun _ => 0
    (typeFloat t.toNat = none →
      gives (.vadd k d a b t) (fun j => x j + y j) ∧ gives (.vsub k d a b t) (fun j => x j - y j) ∧
      gives (.vmul k d a b t) (fun j => x j * y j) ∧
      gives (.vmin k d a b t) (fun j => if (if signed then (x j).sle (y j) else (x j).ule (y j)) then x j else y j) ∧
      gives (.vmax k d a b t) (fun j => if (if signed then (x j).sle (y j) else (x j).ule (y j)) then y j else x j) ∧
      gives (.vabs k d a t) (fun j => if (x j).msb then -(x j) else x j) ∧ gives (.vneg k d a t) (fun j => -(x j))) ∧
    (∀ f, typeFloat t.toNat = some f →
      let rm := s.fpEnv.1.1
      let rs (j : Nat) : Nat := rsBits s.fpEnv.1.2 (s.me.ctr d.toNat j)
      let vx (j : Nat) := f.decode (x j).toNat
      let vy (j : Nat) := f.decode (y j).toNat
      let rounds (i : Instr) (r : Nat → Nat × Flags) : Prop :=
        s.vectorResult i k d w (fun j => BitVec.ofNat _ (r j).1) fun j => (r j).2
      rounds (.vadd k d a b t) (fun j => f.add rm (rs j) (vx j) (vy j)) ∧
      rounds (.vsub k d a b t) (fun j => f.add rm (rs j) (vx j) (vy j).neg) ∧
      rounds (.vmul k d a b t) (fun j => f.mul rm (rs j) (vx j) (vy j)) ∧
      rounds (.vmin k d a b t) (fun j => f.minmax false (vx j) (vy j)) ∧
      rounds (.vmax k d a b t) (fun j => f.minmax true (vx j) (vy j)) ∧
      rounds (.vfma k d a b t) (fun j => f.fma rm (rs j) (vx j) (vy j) (f.decode (z j).toNat)) ∧
      rounds (.vabs k d a t) (fun j => signOp (fun _ => false) f (x j).toNat) ∧
      rounds (.vneg k d a t) (fun j => signOp (fun n => !n) f (x j).toNat))

/-- R349, R397, R402, R391: shifts by the low bits of an element, funnel shifts of 64-bit elements, tables of three bits, bit counts
and VMASK. -/
def Parts.VectorBitOperations : Prop :=
  ∀ (s : State) (k : MaskSel) (m e : BitVec 3) (d a b : BitVec 5) (t : BitVec 4) (i : BitVec 8) (n : BitVec 6),
    let w := typeWidth t.toNat
    let x (j : Nat) := elemAt (s.me.rv a) w j
    let y (j : Nat) := elemAt (s.me.rv b) w j
    let gives (i : Instr) (r : Nat → BitVec (8 * w)) : Prop := s.vectorResult i k d w r fun _ => 0
    let amount (j : Nat) : Nat := (y j).toNat % (8 * w)
    let both (j : Nat) : BitVec 128 := (s.me.rv a).extractLsb' (64 * j) 64 ++ (s.me.rv b).extractLsb' (64 * j) 64
    gives (.vshl k d a b t) (fun j => x j <<< amount j) ∧ gives (.vshr k d a b t) (fun j => x j >>> amount j) ∧
    gives (.vsar k d a b t) (fun j => (x j).sshiftRight (amount j)) ∧
    gives (.vpopc k d a t) (fun j => BitVec.ofNat _ ((List.range (8 * w)).countP fun c => (x j).getLsbD c)) ∧
    gives (.vclz k d a t) (fun j => BitVec.ofNat _ (if (x j).toNat = 0 then 8 * w else 8 * w - 1 - (x j).toNat.log2)) ∧
    gives (.vmask k d e t) (fun j => if (s.me.rm e).getLsbD (w * j) then -1 else 0) ∧
    s.vectorResult (.vfunl m d a b n) ⟨m, false⟩ d 8 (fun j => ((both j) <<< n.toNat).extractLsb' 64 64) (fun _ => 0) ∧
    s.vectorResult (.vfunr m d a b n) ⟨m, false⟩ d 8 (fun j => ((both j) >>> n.toNat).extractLsb' 0 64) (fun _ => 0) ∧
    (s.issues (.lut3 m d a b i) → ∃ v : Vec,
      exec (.lut3 m d a b i) s = .next (s.fpEnv.2.updMe fun t => (t.wv d v).done) ∧
      ∀ c < 1024, v.getLsbD c = if (s.me.rm m).getLsbD (c / 8) then
          i.getLsbD (4 * ((s.me.rv d).getLsbD c).toNat + 2 * ((s.me.rv a).getLsbD c).toNat + ((s.me.rv b).getLsbD c).toNat)
        else (s.me.rv d).getLsbD c)

/-- R401: VSEL takes each byte from `vA` where the mask bit is set and from `vB` elsewhere, in its encoding, in stream X. -/
def Obligations.VselSelectsBytes : Prop :=
  ∀ (s : State) (m : BitVec 3) (d a b : BitVec 5),
    decodeWord (0x26#6 ++ m ++ 0#1 ++ d ++ a ++ b ++ 0#7) = .ok (.vsel m d a b) ∧
    (∀ (z : BitVec 1) (fn : BitVec 7), (z ≠ 0 ∨ fn ≠ 0) → decodeWord (0x26#6 ++ m ++ z ++ d ++ a ++ b ++ fn) = .error (.field [.x])) ∧
    decodeWord 0x99061100 = .ok (.vsel 2 3 1 2) ∧ (Instr.vsel m d a b).streams = [.x] ∧
    (s.issues (.vsel m d a b) → ∃ v, exec (.vsel m d a b) s = .next (s.updMe fun t => (t.wv d v).done) ∧
      (∀ j < 128, elemAt v 1 j = if (s.me.rm m).getLsbD j then elemAt (s.me.rv a) 1 j else elemAt (s.me.rv b) 1 j) ∧
      (m = 0 → v = s.me.rv a))

/-- R390: permutation, broadcast, index and single elements; an index is taken modulo the number of elements. -/
def Parts.VectorMoves : Prop :=
  ∀ (s : State) (k : MaskSel) (d a b : BitVec 5) (t : BitVec 4),
    let w := typeWidth t.toNat
    let n := 128 / w
    let x (j : Nat) := elemAt (s.me.rv a) w j
    let gives (i : Instr) (r : Nat → BitVec (8 * w)) : Prop := s.vectorResult i k d w r fun _ => 0
    gives (.vperm k d a b t) (fun j => x ((elemAt (s.me.rv b) w j).toNat % n)) ∧
    gives (.vbcst k d a t) (fun _ => (s.me.rs a).setWidth _) ∧
    gives (.viota k d t) (fun j => BitVec.ofNat _ j) ∧
    (s.issues (.vext d a b t) → exec (.vext d a b t) s = .next (s.updMe fun q => (q.ws d
      (if 6 ≤ t.toNat ∧ t.toNat ≤ 9 then (x ((s.me.rs b).toNat % n)).signExtend 64
        else (x ((s.me.rs b).toNat % n)).setWidth 64)).done)) ∧
    (s.issues (.vins d a b t) → ∃ v, exec (.vins d a b t) s = .next (s.updMe fun q => (q.wv d v).done) ∧
      ∀ j < n, elemAt v w j = if j = (s.me.rs b).toNat % n then (s.me.rs a).setWidth _ else elemAt (s.me.rv d) w j)

/-- R392: VCMP writes the whole destination mask: every bit of a selected element has the condition, the others are 0. -/
def Parts.VcmpWritesAMask : Prop :=
  ∀ (s : State) (m d : BitVec 3) (a b : BitVec 5) (t : BitVec 4) (c : BitVec 3), s.issues (.vcmp m d a b t c) →
    let w := typeWidth t.toNat
    let r (j : Nat) : Bool × Flags := vcond t.toNat c.toNat (elemAt (s.me.rv a) w j).toNat (elemAt (s.me.rv b) w j).toNat
    ∃ (v : Mask) (fl : Flags), exec (.vcmp m d a b t c) s =
        .next (s.updMe fun q => ({ q.wm d v with fpflags := q.fpflags ||| fl } : StreamState).done) ∧
      (∀ c < 128, v.getLsbD c = ((s.me.rm m).getLsbD (w * (c / w)) && (r (c / w)).1)) ∧
      ∀ b : Nat, fl.getLsbD b = true ↔ ∃ j < 128 / w, (s.me.rm m).getLsbD (w * j) = true ∧ (r j).2.getLsbD b = true

/-- R393: VCVT converts the first elements into the width of the destination and zeroes the bytes above them. -/
def Parts.VcvtConverts : Prop :=
  ∀ (s : State) (k : MaskSel) (d a : BitVec 5) (src : BitVec 4) (sat : Bool) (dst : BitVec 4) (rm : BitVec 3),
    s.issues (.vcvt k d a src sat dst rm) →
    let ws := typeWidth src.toNat
    let wd := typeWidth dst.toNat
    let n := 128 / max ws wd
    let e := s.fpEnv
    let r (j : Nat) : Nat × Flags := convertElem src.toNat dst.toNat (if rm = 5 then e.1.1 else rm.toNat)
      (rsBits e.1.2 (s.me.ctr d.toNat j)) sat (elemAt (s.me.rv a) ws j).toNat
    ∃ v fl, exec (.vcvt k d a src sat dst rm) s =
        .next (e.2.updMe fun t => ({ t.wv d v with fpflags := t.fpflags ||| fl } : StreamState).done) ∧
      (∀ j < n, elemAt v wd j = if (s.me.rm k.m).getLsbD (wd * j) then BitVec.ofNat _ (r j).1
        else if k.z then 0 else elemAt (s.me.rv d) wd j) ∧
      (∀ c < 128, n * wd ≤ c → elemAt v 1 c = 0) ∧
      ∀ b : Nat, fl.getLsbD b = true ↔ ∃ j < n, (s.me.rm k.m).getLsbD (wd * j) = true ∧ (r j).2.getLsbD b = true

/-- R394: VCVTB packs one or two groups of 32 elements into blocks from byte 0, the rest zero, and unpacks them. The model's choices and
readings: log 25. -/
def Parts.VcvtbConvertsBlocks : Prop :=
  ∀ (s : State) (e : BitVec 3) (d a : BitVec 5) (t : BitVec 4) (f : BitVec 2) (rm : BitVec 3),
    let w := typeWidth t.toNat
    let g := if t = 0 then 1 else 2
    let fm := 10 + f.toNat
    let mode := if rm = 5 then s.fpEnv.1.1 else rm.toNat
    let rs (j : Nat) : Nat := rsBits s.fpEnv.1.2 (s.me.ctr d.toNat j)
    let xs := (List.range (32 * g)).map fun j => typeDecode t.toNat (elemAt (s.me.rv a) w j).toNat
    let into := encodeElems fm e.toNat mode rs false xs
    let out := (decodeElems fm (bytesOf (g * [34, 18, 17, 16].getD f.toNat 0) (s.me.rv a).toNat)).zipIdx.map fun x =>
      ((typeFloat t.toNat).getD fF32).convert mode (rs x.2) false x.1
    let writes (v : Vec) (fl : Flags) : State :=
      s.fpEnv.2.updMe fun q => ({ q.wv d v with fpflags := q.fpflags ||| fl } : StreamState).done
    (s.issues (.vcvtbInto e d a t f rm) →
      exec (.vcvtbInto e d a t f rm) s = .next (writes (BitVec.ofNat 1024 (ofBytes into.1)) into.2)) ∧
    (s.issues (.vcvtbOut d a t f rm) → ∃ v fl, exec (.vcvtbOut d a t f rm) s = .next (writes v fl) ∧
      (∀ j (h : j < out.length), elemAt v w j = BitVec.ofNat _ out[j].1) ∧
      ∀ b : Nat, fl.getLsbD b = true ↔ ∃ r ∈ out, r.2.getLsbD b = true)

/-- R399: VRED reduces the selected elements to a scalar; VSCAN gives each selected element the result over those up to it. -/
def Parts.ReductionsAndScans : Prop :=
  ∀ (s : State) (k : MaskSel) (m : BitVec 3) (d a : BitVec 5) (t : BitVec 4) (o : BitVec 3),
    let w := typeWidth t.toNat
    let picked (m : BitVec 3) (n : Nat) : List Nat :=
      ((List.range n).filter fun j => (s.me.rm m).getLsbD (w * j)).map fun j => (elemAt (s.me.rv a) w j).toNat
    let r (m : BitVec 3) (n c : Nat) : Nat × Flags :=
      reduce t.toNat o.toNat s.fpEnv.1.1 (rsBits s.fpEnv.1.2 (s.me.ctr d.toNat c)) (picked m n)
    let v := r m (128 / w) 0
    (s.issues (.vred m d a t o) → exec (.vred m d a t o) s = .next (s.fpEnv.2.updMe fun q =>
      ({ q.ws d (if 6 ≤ t.toNat ∧ t.toNat ≤ 9 then BitVec.ofInt 64 (toSigned (8 * w) v.1) else BitVec.ofNat 64 v.1) with
          fpflags := q.fpflags ||| v.2 } : StreamState).done)) ∧
    s.vectorResult (.vscan k d a t o) k d w (fun j => BitVec.ofNat _ (r k.m (j + 1) j).1) fun j => (r k.m (j + 1) j).2

/-- R399: the reductions themselves: sums modulo 2^(8w), the greatest and the least, and bitwise; the exact sum of floating-point
values; and the results over no element. -/
def Parts.ReductionOfNothingAndOfIntegers : Prop :=
  (∀ (t rm rs : Nat) (xs : List Nat), 6 ≤ t → t ≤ 13 →
    let n := 8 * typeWidth t
    (reduce t 0 rm rs xs).1 = (xs.foldl (fun x y => x + BitVec.ofNat n y) (0 : BitVec n)).toNat ∧
    (reduce t 3 rm rs []).1 = 2 ^ n - 1 ∧ (reduce t 4 rm rs []).1 = 0 ∧ (reduce t 5 rm rs []).1 = 0 ∧
    (∀ x ∈ xs, intValue t x ≤ intValue t (reduce t 1 rm rs xs).1 ∧ intValue t (reduce t 2 rm rs xs).1 ≤ intValue t x) ∧
    (reduce t 0 rm rs xs).2 = 0) ∧
  (∀ (t rm rs : Nat) (f : FFmt), t = 0 ∨ t = 2 ∨ t = 3 → typeFloat t = some f →
    reduce t 0 rm rs [] = (0, 0) ∧ reduce t 1 rm rs [] = (f.signBit true + f.infPat, 0) ∧ reduce t 2 rm rs [] = (f.infPat, 0))

/-- R403: VTOPK writes the eligible elements by rank, bit for bit, and their indices beside them; zeros and 0xFFFF follow. -/
def Parts.VtopkSelectsByRank : Prop :=
  ∀ (s : State) (m : BitVec 3) (d a b : BitVec 5) (t : BitVec 4) (p : BitVec 2), s.issues (.vtopk m d a b t p) →
    let w := typeWidth t.toNat
    let n := 128 / w
    let x (j : Nat) : Nat := (elemAt (s.me.rv a) w j).toNat
    let el := (List.range n).filter fun j => (s.me.rm m).getLsbD (w * j) && eligible t.toNat p.toNat (x j)
    let c := min (min (min (s.me.rs b).toNat n) 64) el.length
    ∃ (top : List (Nat × Nat)) (v i : Vec), (ranked (keyLess t.toNat p.toNat) (el.map fun j => (x j, j))).take c = top ∧
      exec (.vtopk m d a b t p) s = .next (s.updMe fun q => ((q.wv d v).wv (d + 1) i).done) ∧ top.length = c ∧
      (∀ j (h : j < top.length), elemAt v w j = BitVec.ofNat _ top[j].1 ∧ elemAt i 2 j = BitVec.ofNat _ top[j].2) ∧
      (∀ j < n, c ≤ j → elemAt v w j = 0) ∧ ∀ j < 64, c ≤ j → elemAt i 2 j = 0xFFFF

/-- R395, R400, R76, R77: the functions of one operand, rounded once, and the draws of VRND. The model's choices and readings: log 21. -/
def Parts.VectorFunctions : Prop :=
  ∀ (s : State) (k : MaskSel) (d a : BitVec 5) (t : BitVec 4),
    let w := typeWidth t.toNat
    let rs (j : Nat) : Nat := rsBits s.fpEnv.1.2 (s.me.ctr d.toNat j)
    let r (f : FFmt) (o j : Nat) : Nat × Flags := f.special o s.fpEnv.1.1 (rs j) (f.decode (elemAt (s.me.rv a) w j).toNat)
    let gives (f : FFmt) (i : Instr) (o : Nat) : Prop :=
      s.vectorResult i k d w (fun j => BitVec.ofNat _ (r f o j).1) fun j => (r f o j).2
    (∀ f, typeFloat t.toNat = some f → gives f (.vexp2 k d a t) 0 ∧ gives f (.vlog2 k d a t) 1 ∧ gives f (.vrcp k d a t) 2 ∧
      gives f (.vrsq k d a t) 3) ∧
    s.vectorResult (.vrnd k d) k d 4 (fun j => BitVec.ofNat 32 (cmx s.fpEnv.1.2 (s.me.iter * 65536 + d.toNat * 256 + j)))
      fun _ => 0

/-! ### Stream X's memory, banks, the accumulator, buffer rings, reuse entries -/

/-- R43, R89, R398: VLD and VST move 128 bytes between a vector and memory; VLD of a `FIFO` bank takes its oldest entry. With
`fwait` VLD pops a token first, with `fsig` VST pushes one after; each waits where it cannot. The model's choices and readings: log 3, 9, 41. -/
def Obligations.VectorLoadsAndStores : Prop :=
  ∀ (s : State) (k : Bool) (g : BitVec 2) (d a : BitVec 5) (c : BitVec 4) (o : BitVec 6) (t : Target),
    let va := s.me.rs a + 128 * o.signExtend 64
    let w := s.who s.fcore
    let tokens := s.myCore.tokens (8 + g.toNat)
    let has : Prop := (s.myCore.tokens (4 * g.toNat + 2)).rd < (s.myCore.tokens (4 * g.toNat + 2)).acc
    let room : Prop := s.me.pushed (24 + g.toNat) < tokens.acc ∨ tokens.acc - tokens.base < 15
    let popped (u : State) : State := if k then u.popToken s.fcore g.toNat 2 else u
    let reads (i : Instr) : Prop := s.issues i = true ∧ va.toNat % 128 = 0 ∧ s.xOverlap s.fcore va.toNat false = none ∧
      (k = true → has)
    (s.issues (.vld k g d a c o) → k = true → ¬ has → exec (.vld k g d a c o) s = .next (s.stall (.token g.toNat 2))) ∧
    (reads (.vld k g d a c o) → s.inFifo s.fcore va.toNat = false → s.spot w .read true va.toNat 128 = .at t →
      (∀ pa, t ≠ .sys pa) → (classCway s.myCore.clsattr c.toNat = false ∨ 2 ^ 56 ≤ va.toNat) →
      exec (.vld k g d a c o) s = .next ((popped s).updMe fun m =>
        (m.wv d (BitVec.ofNat 1024 (ofBytes (s.readLoc t.key 128)))).done)) ∧
    (reads (.vld k g d a c o) → s.inFifo s.fcore va.toNat = true →
      let b := (va.toNat - 0x1F0000000000000) / 32768
      let x := (s.cluster (s.fcore / 4)).bank b
      let key := sramKey (s.fcore / 4) (b * 32768 + x.rd % 256 * 128)
      x.pend = none → x.tenant.toNat = w.tenant → (x.rd = x.head ∨ x.consumer = some s.fcore) → s.ecc .read key 128 va.toNat = none →
      (x.rd = x.tail → exec (.vld k g d a c o) s = .next (s.stall .stall)) ∧
      (x.rd ≠ x.tail → exec (.vld k g d a c o) s = .next
        ((popped (s.updBank (s.fcore / 4) b fun q => { q with rd := q.rd + 1, consumer := some s.fcore })).updMe fun m =>
          (m.wv d (BitVec.ofNat 1024 (ofBytes (s.readLoc key 128)))).done))) ∧
    (s.issues (.vst k g d a c o) → va.toNat % 128 = 0 → s.xOverlap s.fcore va.toNat true = none →
      s.spot w .write true va.toNat 128 = .at t → (∀ pa, t ≠ .sys pa) →
      let u := s.storeAt (s.fcore / 4) t (bytesOf 128 (s.me.rv d).toNat)
      ((k = true → room) → exec (.vst k g d a c o) s = .next ((if k then u.pushTokenX g.toNat else u).updMe StreamState.done)) ∧
      (k = true → ¬ room → exec (.vst k g d a c o) s = .next (s.stall (.token 2 g.toNat))))

/-- R86, R297, R298: BANKM of the mode a bank has goes on, of another asks for the change and waits; while another change of the bank is
pending, or a core that came before waits for one, it joins the line; BANKF sets the format; a bank or code that is none traps
(illegal-instruction, 4), a bank of another tenant takes the cross-tenant fault. -/
def Parts.BankModeAndFormat : Prop :=
  ∀ (s : State) (g : Guard) (a b : BitVec 5),
    let n := (s.me.rs a).toNat
    let v := (s.me.rs b).toNat
    let x := (s.cluster (s.fcore / 4)).bank n
    let mine : Prop := x.tenant.toNat = s.tenantOf s.fcore ∨ s.levelOf s.fcore = 2
    let fmt : Prop := v ∈ [0, 2, 3, 4, 5, 6, 10, 11, 12, 13, 15]
    let me := s.fcore % 4
    (s.issues (.bankm g a b) →
      (64 ≤ n ∨ 4 ≤ v → exec (.bankm g a b) s = .next (s.trap 0x01 4)) ∧
      (n < 64 → v < 4 → ¬ mine → exec (.bankm g a b) s = .next (s.trap 0x20 0)) ∧
      (n < 64 → v < 4 → mine → s.bankTaken s.fcore n = true → exec (.bankm g a b) s = .next ((s.joinLine s.fcore n).stall .stall)) ∧
      (n < 64 → mine → s.bankTaken s.fcore n = false → v = x.mode.toNat →
        exec (.bankm g a b) s = .next ((s.leaveLine s.fcore n).updMe StreamState.done)) ∧
      (n < 64 → v < 4 → mine → s.bankTaken s.fcore n = false → v ≠ x.mode.toNat → exec (.bankm g a b) s = .next
        ((s.updBank (s.fcore / 4) n fun y => { y with pend := some (BitVec.ofNat 2 v), line := me :: y.line.erase me }).updMe fun t =>
          { t with wait := .bank n })) ∧
      (x.pend ≠ none → s.bankTaken s.fcore n = true) ∧ (x.pend = none → x.line.head? = some me → s.bankTaken s.fcore n = false) ∧
      (x.pend = none → x.line = [] → s.bankTaken s.fcore n = false ∧ s.leaveLine s.fcore n = s)) ∧
    (s.issues (.bankf g a b) →
      (64 ≤ n ∨ ¬ fmt → exec (.bankf g a b) s = .next (s.trap 0x01 4)) ∧
      (n < 64 → fmt → ¬ mine → exec (.bankf g a b) s = .next (s.trap 0x20 0)) ∧
      (n < 64 → fmt → mine → exec (.bankf g a b) s = .next
        ((s.updBank (s.fcore / 4) n fun y => { y with fmt := BitVec.ofNat 4 v }).updMe StreamState.done)))

/-- R58, R88: a pending change of a bank's mode applies once a `FIFO` is empty: the pointers are zero, format and tenant stay, and the core
that asked for it leaves the line; the bytes are zero in `SCR` from `CWAY` or `OFF` and stay into `OFF` or `CWAY` and from `FIFO` into
`SCR`; nothing else in memory changes; a stream C that waited for it goes on; then launches on the cluster's cores write what of their bank
tables has waited, as they do where no change is pending. The model's choices and readings: log 42. -/
def Parts.BankModeApplies : Prop :=
  ∀ (s : State) (cl b : BitVec 6) (m : BitVec 2),
    let x := (s.cluster cl.toNat).bank b.toNat
    let lo := sramKey cl.toNat (b.toNat * 32768)
    (x.pend = none → exec (.bankmApply cl b) s = .next ([0, 1, 2, 3].foldl (fun u i => u.settleBanks (4 * cl.toNat + i)) s)) ∧
    (x.pend = some m → x.mode = 3 → ¬ (x.head = x.tail ∧ x.rd = x.head) → exec (.bankmApply cl b) s = .next s) ∧
    (x.pend = some m → x.mode ≠ m → (x.mode = 3 → x.head = x.tail ∧ x.rd = x.head) →
      ∃ t, exec (.bankmApply cl b) s = .next ([0, 1, 2, 3].foldl (fun u i => u.settleBanks (4 * cl.toNat + i)) t) ∧
        ((∀ i < 4, ∀ j, (s.core (4 * cl.toNat + i)).job = some j → j.banksDue = []) → exec (.bankmApply cl b) s = .next t) ∧
        (t.cluster cl.toNat).bank b.toNat = { x with mode := m, pend := none, head := 0, tail := 0, rd := 0, consumer := none,
                                                                  line := x.line.tail } ∧
        (∀ k, ¬ (lo ≤ k ∧ k < lo + 32768) → memRead t.mem k = memRead s.mem k) ∧
        (∀ k, lo ≤ k → k < lo + 32768 → (m = 1 → x.mode ≠ 3 → memRead t.mem k = 0) ∧
          (m = 0 ∨ m = 2 ∨ m = 1 ∧ x.mode = 3 → memRead t.mem k = memRead s.mem k)) ∧
        (∀ i < 4, (s.core (4 * cl.toNat + i)).c.wait = .bank b.toNat →
          t.str (4 * cl.toNat + i) .c = (s.str (4 * cl.toNat + i) .c).done) ∧
        ∀ core l, (l ≠ .c ∨ (s.core core).c.wait ≠ .bank b.toNat) → t.str core l = s.str core l)

/-- R129, R288: ACCAL takes the least run of `n` free banks, gives the core ownership of them, zeroes them and returns the first;
where there is none, or `n` is not 1 to 64, it returns all ones and takes nothing. -/
def Parts.AccalTakesTheLeastRun : Prop :=
  ∀ (s : State) (g : Guard) (d a : BitVec 5) (b : Nat), s.issues (.accal g d a) → s.repeated = none →
    let n := (s.me.rs a).toNat
    let cl := s.fcore / 4
    let free (i : Nat) : Prop := ((s.cluster cl).accb i).alloc = false
    let run (b : Nat) : Prop := b + n ≤ 64 ∧ ∀ j < n, free (b + j)
    let me := BitVec.ofNat 2 (s.fcore % 4)
    (1 ≤ n → run b → (∀ c < b, ¬ run c) → ∃ t, exec (.accal g d a) s = .next t ∧ t.me.rs d = BitVec.ofNat 64 b ∧
      (∀ i, (t.cluster cl).accb i = if b ≤ i ∧ i < b + n then ⟨0, BitVec.ofNat 6 (s.tenantOf s.fcore), false, true, me, me⟩
        else (s.cluster cl).accb i) ∧
      (∀ k, memRead t.mem k = if accKey cl (b * 32768) ≤ k ∧ k < accKey cl ((b + n) * 32768) then 0 else memRead s.mem k)) ∧
    (n < 1 ∨ 64 < n ∨ (∀ c, ¬ run c) → exec (.accal g d a) s = .next ((s.logPush (-1)).updMe fun t => (t.ws d (-1)).done))

/-- R131, R289, R290: ACCFR frees and ACCGIVE gives away banks that the caller owns, once its K records have retired; a bank that is free
takes the acc-free fault, one of another core the acc-owner fault, at the bank's first row. -/
def Parts.AccumulatorOwnership : Prop :=
  ∀ (s : State) (g : Guard) (a b : BitVec 5) (i : Instr) (lo n : Nat), s.issues i → s.kRetired = true → s.repeated = none →
    let v := (s.me.rs b).toNat
    let cl := s.fcore / 4
    let acc (s : State) (j : Nat) := (s.cluster cl).accb j
    let owned (j : Nat) : Prop := (acc s j).alloc = true ∧ (acc s j).owner.toNat = s.fcore % 4
    let runs : Prop := (s.core (4 * cl + v)).job.any (·.tenant.toNat == s.tenantOf s.fcore) = true
    let fault (c j : Nat) : State := s.stopCore s.fcore { cause := c, src := 1, addr := some (0x1F1000000000000 + j * 32768) }
    (s.me.rs a).toNat = lo → lo + n ≤ 64 → 1 ≤ n → (i = .accfr g a b ∧ v = n ∨ i = .accgive g a b ∧ v < 4 ∧ n = 1) →
      ((∀ j < n, owned (lo + j)) → i = .accfr g a b → ∃ t, exec i s = .next t ∧ t.me = (s.countOther.me).done ∧ t.mem = s.mem ∧
        ∀ j, acc t j = if lo ≤ j ∧ j < lo + n then { acc s j with alloc := false } else acc s j) ∧
      (owned lo → i = .accgive g a b → runs → v ≠ s.fcore % 4 → exec i s =
        .next (((s.updAcc cl lo fun q => { q with owner := BitVec.ofNat 2 v }).logPush 0).updMe StreamState.done)) ∧
      (owned lo → i = .accgive g a b → v = s.fcore % 4 → exec i s = .next ((s.logPush 0).updMe StreamState.done)) ∧
      (owned lo → i = .accgive g a b → ¬ runs → v ≠ s.fcore % 4 → exec i s = .next (fault 0x26 lo)) ∧
      (∀ j < n, (acc s (lo + j)).alloc = false → (∀ h < j, (acc s (lo + h)).alloc = true) → exec i s = .next (fault 0x23 (lo + j))) ∧
      (∀ j < n, (∀ h < n, (acc s (lo + h)).alloc = true) → ¬ owned (lo + j) → (∀ h < j, owned (lo + h)) →
        exec i s = .next (fault 0x24 (lo + j)))

/-- R117, R118, R296, R302, R378: BACQ takes the next buffer of a ring of the caller's and returns its address, waiting where all are
busy; BREL frees the oldest; each binds its side of the ring to the stream; SLOTREL returns a slot to its sender; a ring that may not
be used, an empty one, or a slot that is not taken faults. A sender whose job has been saved gets the slot back in its saved context. The
model's choices and readings: log 19. -/
def Parts.BufferRingsAndSlots : Prop :=
  ∀ (s : State) (g : Guard) (d a b : BitVec 5),
    let i := (s.me.rs a).toNat
    let r := (s.cluster (s.fcore / 4)).ring i
    let tag := BitVec.ofNat 2 (laneTag s.focusLane)
    let usable (bound : BitVec 2) : Prop := i < 16 ∧ r.valid = true ∧ r.owner.toNat = s.fcore % 4 ∧ (bound = 0 ∨ bound = tag)
    let address := BitVec.ofNat 64 (0x1F0000000000000 + (r.base + r.acqTotal % r.count * r.stride) * 256)
    (s.issues (.bacq g d a) → usable r.acqs → s.me.pushed (64 + 2 * i) = r.acqTotal →
      (r.busy = r.count → exec (.bacq g d a) s = .next (s.stall .stall)) ∧
      (r.busy ≠ r.count → exec (.bacq g d a) s = .next
        ((s.updRing i fun q => { q with acqs := tag, acq := (q.acq + 1) % q.count, busy := q.busy + 1, acqTotal := q.acqTotal + 1 }).updMe
          fun t => ((t.addPush (64 + 2 * i) 1).wa d address).done))) ∧
    (s.issues (.bacq g d a) → ¬ usable r.acqs → exec (.bacq g d a) s = .next (s.trap 0x27 0)) ∧
    (s.issues (.brel g a) → usable r.rels → s.me.pushed (64 + 2 * i + 1) = r.relTotal →
      (r.busy = 0 → exec (.brel g a) s = .next (s.trap 0x27 0)) ∧
      (r.busy ≠ 0 → exec (.brel g a) s = .next
        ((s.updRing i fun q => { q with rels := tag, rel := (q.rel + 1) % q.count, busy := q.busy - 1, relTotal := q.relTotal + 1 }).updMe
          fun t => (t.addPush (64 + 2 * i + 1) 1).done))) ∧
    (s.issues (.brel g a) → ¬ usable r.rels → exec (.brel g a) s = .next (s.trap 0x27 0)) ∧
    (s.issues (.slotrel g a b) →
      let ch := (s.me.rs b).toNat
      let free := (s.core i).slotsFree ch s.fcore
      (256 ≤ i ∨ 4 ≤ ch ∨ i / 64 ≠ s.fcore / 64 → exec (.slotrel g a b) s = .next (s.trap 0x01 4)) ∧
      (i < 256 → ch < 4 → i / 64 = s.fcore / 64 → s.repeated = none → s.savedSender i ch s.fcore = none →
        (8 ≤ free → exec (.slotrel g a b) s = .next (s.trap 0x28 0)) ∧
        (free < 8 → exec (.slotrel g a b) s = .next
          (((s.updCore i fun k => k.setSlots ch s.fcore (free + 1)).logPush 0).updMe StreamState.done))) ∧
      (∀ id, i < 256 → ch < 4 → i / 64 = s.fcore / 64 → s.repeated = none → s.savedSender i ch s.fcore = some id →
        exec (.slotrel g a b) s = .next (((s.updMod fun m => { m with saved := m.saved.map fun x =>
          if x.id = id then { x with ctx := x.ctx.setSlots ch s.fcore (x.ctx.slotsFree ch s.fcore + 1) } else x }).logPush 0).updMe
            StreamState.done)))

/-- R143-R149: RUARM of a descriptor within its limits, whose regions are apart and whose weights are mapped, arms the layer's
slot with the next version and returns it; a failing check returns its code with bit 63; RUINV disarms; RUSTAT reads the entry, or 0. A
misaligned descriptor fails with code 1, and one that cannot be read takes the fault of its access. The model's choices are: the slot that a
new layer takes (log 73), which code is returned where several checks fail (log 74), what of an entry RUINV keeps (log 75), and log 43. -/
def Obligations.ReuseInstructions : Prop :=
  ∀ (s : State) (g : Guard) (d a : BitVec 5) (bs : List Nat) (s1 : State) (i : Nat),
    let t := s.tenantOf s.fcore
    let va := s.me.ra a
    let desc := BitVec.ofNat 512 (ofBytes bs)
    let layer := (s.me.rs a).toNat % 2 ^ 32
    let base := (desc.extractLsb' 320 64).toNat
    let ext := (desc.extractLsb' 384 64).toNat
    let gives (i : Instr) (s : State) (v : Word) : Prop := exec i s = .next ((s.logPush v).updMe fun m => (m.ws d v).done)
    let fails (c : Nat) : Prop := exec (.ruarm g d a) s = .next ((s1.logPush (BitVec.ofNat 64 (2 ^ 63 + c))).updMe fun m =>
      (m.ws d (BitVec.ofNat 64 (2 ^ 63 + c))).done)
    (s.issues (.ruarm g d a) → s.kRetired = true → s.repeated = none → (va.toNat < 2 ^ 56 ∨ 2 ^ 57 ≤ va.toNat) → va.toNat % 64 = 0 →
      s.readAs s.fcore false 0 va.toNat 64 = .ok (bs, s1) → s.layerClaimed t (desc.extractLsb' 0 32).toNat = false →
      (descOk desc = false → fails 1) ∧
      (descOk desc = true → (s1.tenant t).slotFor (desc.extractLsb' 0 32).toNat = none → fails 2) ∧
      (descOk desc = true → (s1.tenant t).slotFor (desc.extractLsb' 0 32).toNat = some i →
        (regionsOk desc = false → fails 3) ∧
        (regionsOk desc = true → s1.wholeMapped t base ext = false → fails 4) ∧
        (regionsOk desc = true → s1.wholeMapped t base ext = true → ∃ u, exec (.ruarm g d a) s = .next u ∧
          let old := s1.dirSlot t i
          let v := old.version % 65535 + 1
          let e := u.dirSlot t i
          u.mem = s1.mem ∧ e.layer = (desc.extractLsb' 0 32).toNat ∧ e.desc = desc ∧ e.state = 1 ∧ e.version = v ∧ e.steps = 0 ∧
            e.side = false ∧ e.invals = 0 ∧ e.claim = none ∧ e.armed = true ∧ e.watch = s1.watchOf t i base ext ∧
            ∀ j, j ≠ i → u.dirSlot t j = s1.dirSlot t j))) ∧
    (s.issues (.ruarm g d a) → s.kRetired = true → s.repeated = none →
      (va.toNat % 64 ≠ 0 → gives (.ruarm g d a) s (BitVec.ofNat 64 (2 ^ 63 + 1))) ∧
      (va.toNat % 64 = 0 → 2 ^ 56 ≤ va.toNat → va.toNat < 2 ^ 57 → exec (.ruarm g d a) s =
        .next (s.trapAccess ⟨causeWindow, 0, va.toNat⟩ .read 0 64)) ∧
      (∀ f, va.toNat % 64 = 0 → (va.toNat < 2 ^ 56 ∨ 2 ^ 57 ≤ va.toNat) → s.readAs s.fcore false 0 va.toNat 64 = .fault f →
        exec (.ruarm g d a) s = .next (s.trapAccess f .read 0 64))) ∧
    (s.issues (.ruinv g d a) → s.kRetired = true → s.repeated = none → s.layerClaimed t layer = false →
      ((s.tenant t).slotOf layer = none → gives (.ruinv g d a) s 0) ∧
      ((s.tenant t).slotOf layer = some i →
        let e := s.dirSlot t i
        (e.state = 0 → gives (.ruinv g d a) s (BitVec.ofNat 64 e.version)) ∧
        (e.state ≠ 0 → let v := e.version % 65535 + 1
          exec (.ruinv g d a) s = .next (((s.setDir t i
            { e with state := 0, version := v, coarse := false, watch := [], updates := (e.updates + 1) % 2 ^ 32 }).logPush
              (BitVec.ofNat 64 v)).updMe fun m => (m.ws d (BitVec.ofNat 64 v)).done)))) ∧
    (s.issues (.rustat g d a) →
      ((s.tenant t).slotOf layer = none → exec (.rustat g d a) s = .next (s.updMe fun m => (m.ws d 0).done)) ∧
      ((s.tenant t).slotOf layer = some i →
        let e := s.dirSlot t i
        exec (.rustat g d a) s = .next (s.updMe fun m => (m.ws d (BitVec.ofNat 64 (e.invals % 2 ^ 32 + e.claim.isSome.toNat * 2 ^ 35 +
          e.coarse.toNat * 2 ^ 36 + e.side.toNat * 2 ^ 37 + e.state % 4 * 2 ^ 38 + e.steps % 256 * 2 ^ 40 +
          e.version % 65536 * 2 ^ 48))).done)))

/-! ### The Tahr store -/

/-- R17, R177, R179, R180, R376: SCPOST sends its increment to the store of the counter's die; SCREAD reads; SCWAIT returns the value that
reaches its threshold, clears `wstat`, or parks with an edge. `u` is the state once the stream's own posts to the handle have performed
and both copies of the object have been read. A handle that is stale, foreign or of another type faults (0x38), a poisoned object (0x39),
and a die to which no way leads (home-offline), before anything is posted. The model's choices and readings: log 79. -/
def Parts.CounterInstructions : Prop :=
  ∀ (s : State) (g : Guard) (d a b : BitVec 5) (v : Nat) (s1 : State),
    let h : BitVec 32 := (s.me.rs a).setWidth 32
    let n := s.me.rs b
    let t := s.tenantOf s.fcore
    let l := s.levelOf s.fcore
    let f := s.flushPosts s.fcore s.focusLane h
    let u := f.readCopies h
    let job := (s.myCore.job.map fun j => (j.queue, j.record, j.inst)).getD (0, 0, 0)
    let p : Post := ⟨some s.focusCore, laneTag s.focusLane, job, BitVec.ofNat 6 t, BitVec.ofNat 2 l, h, n.toNat, 0⟩
    let edge : Edge := ⟨4 * s.fcore + laneTag s.focusLane, false, h.toNat, none⟩
    (s.issues (.scpost g a b) → s.performed s.fcore s.focusLane → s.present (hDie h) = true →
      (s.dieUp (hDie h) = true → s.reaches (s.fcore / 64) (hDie h) = true → exec (.scpost g a b) s =
        .next ((s.updDie (hDie h) fun x => { x with posts := x.posts ++ [p] }).updMe StreamState.done)) ∧
      (s.dieUp (hDie h) = true → s.reaches (s.fcore / 64) (hDie h) = false → exec (.scpost g a b) s = .next (s.trap 0x15 0)) ∧
      (s.dieUp (hDie h) = false → exec (.scpost g a b) s =
        .next ((s.updDie (s.fcore / 64) fun x => { x with held := x.held ++ [p] }).updMe StreamState.done))) ∧
    (f.focusCore = s.focusCore → f.focusLane = s.focusLane → f.dieUp (hDie h) = true → f.reaches (s.fcore / 64) (hDie h) = true →
      u.object (u.tenantOf u.fcore) (u.levelOf u.fcore) h [0] = .ok (.counter v) →
      (s.issues (.scread g d a) → exec (.scread g d a) s = .next (u.updMe fun m => (m.ws d (BitVec.ofNat 64 v)).done)) ∧
      (s.issues (.scwait g d a b) → n.toNat ≤ v → ∃ x, exec (.scwait g d a b) s = .next x ∧
        x.me = { (u.me.ws d (BitVec.ofNat 64 v)).done with wstat := false } ∧ ∀ e ∈ x.edges, e ≠ edge) ∧
      (s.issues (.scwait g d a b) → v < n.toNat →
        (u.insertEdge edge = .registered s1 → exec (.scwait g d a b) s =
          .next (s1.updMe fun m => { m with wait := .counter d h n true 0 0, wstat := false })) ∧
        (u.insertEdge edge = .full s1 → exec (.scwait g d a b) s =
          .next (s1.updMe fun m => { m with wait := .counter d h n false 64 (s1.tick.toNat + 64), wstat := true })))) ∧
    (∀ c, f.focusCore = s.focusCore → f.dieUp (hDie h) = true → f.reaches (s.fcore / 64) (hDie h) = true →
      u.object (u.tenantOf u.fcore) (u.levelOf u.fcore) h [0] = .error c →
      (s.issues (.scread g d a) → exec (.scread g d a) s = .next (u.trap c 0)) ∧
      (s.issues (.scwait g d a b) → exec (.scwait g d a b) s = .next (u.trap c 0))) ∧
    (f.focusCore = s.focusCore → f.dieUp (hDie h) = true → f.reaches (s.fcore / 64) (hDie h) = false →
      (s.issues (.scread g d a) → exec (.scread g d a) s = .next (f.trap 0x15 0)) ∧
      (s.issues (.scwait g d a b) → exec (.scwait g d a b) s = .next (f.trap 0x15 0)))

/-- R177, R179: which operations on an object pass its checks, and which fault they meet otherwise: an object is poisoned where neither
of its two copies is to be trusted; one copy that is makes the other whole. The model's choices and readings: that a bad handle is reported
before poison (log 28), and what an operation does with two bad copies (log 34, 54). -/
def Parts.ObjectChecks : Prop :=
  ∀ (s : State) (t l : Nat) (h : BitVec 32) (types : List Nat),
    let x := s.slot h
    let names (o : Obj) : Prop := x.obj = some o ∧ s.present (hDie h) = true ∧ x.gen = h.setWidth 8 ∧
      (x.tenant.toNat = t ∨ l = 2) ∧ o.type ∈ types
    let lost : Prop := x.poisoned = true ∨ x.bad = 3 ∨ x.differ = true
    let y := (s.readCopies h).slot h
    (∀ o, s.object t l h types = .ok o ↔ names o ∧ ¬ lost) ∧
    (s.object t l h types = .error 0x38 ↔ ∀ o, ¬ names o) ∧
    (s.object t l h types = .error 0x39 ↔ ∃ o, names o ∧ lost) ∧
    (s.readCopies h).object t l h types = s.object t l h types ∧
    (x.obj.isSome = true → (y.poisoned = true ↔ lost) ∧ (x.poisoned = false → y.bad = 0 ∧ y.differ = false))

/-- R180: the oldest post to a counter performs: the value rises by the increment, up to all ones, and every stream parked on a
threshold that it reaches goes on with the value; a refused post goes back to its core, which takes the fault; a refusal waits while the job
that posted is saved, or its core is stopped or being reset, and is dropped once that job has ended. The model's choices and readings: log
1, 79. -/
def Parts.PostsPerform : Prop :=
  ∀ (s : State) (die : BitVec 2) (p : Post) (r : List Post) (v : Nat), s.Inv →
    let h := p.handle
    let v' := min (v + p.inc) (2 ^ 64 - 1)
    ((s.die die.toNat).posts = p :: r → hDie h = die.toNat → s.dieUp die.toNat = true →
      s.object p.tenant.toNat p.level.toNat h [0] = .ok (.counter v) → ∃ t, exec (.counterPostPerform die) s = .next t ∧
        (t.slot h).obj = some (.counter v') ∧ (t.die die.toNat).posts = r ∧
        (∀ c l d thr g e, (s.str c l).wait = .counter d h thr true g e → thr.toNat ≤ v' →
          t.str c l = ((s.str c l).ws d (BitVec.ofNat 64 v')).done) ∧
        ∀ c l, (∀ d thr g e, (s.str c l).wait = .counter d h thr true g e → v' < thr.toNat) → t.str c l = s.str c l) ∧
    (∀ c k, (s.die die.toNat).posts = p :: r → s.dieUp die.toNat = true → p.core = some k →
      s.object p.tenant.toNat p.level.toNat h [0] = .error c → ∃ t, exec (.counterPostPerform die) s = .next t ∧
        (t.die (k.toNat / 64)).refusals = (s.die (k.toNat / 64)).refusals ++ [{ p with cause := c }] ∧ t.cores = s.cores) ∧
    (let back (q : Post) : Prop := (∀ x ∈ s.mod.saved, ∀ j, x.ctx.job = some j → q.ofJob j = false) ∧
        ∀ k, s.postCore q = some k → (s.core k).stop = none ∧ (s.core k).resetting = none
      let taken := s.updDie die.toNat fun x => { x with refusals := x.refusals.erase p }
      ((∀ q ∈ (s.die die.toNat).refusals, ¬ back q) → exec (.postRefusalReturn die) s = .next s) ∧
      (∀ older younger, (s.die die.toNat).refusals = older ++ p :: younger → back p → (∀ q ∈ older, ¬ back q) →
        (∀ k, s.postCore p = some k →
          exec (.postRefusalReturn die) s = .next (taken.stopCore k { cause := p.cause, src := p.lane })) ∧
        (s.postCore p = none → exec (.postRefusalReturn die) s = .next taken))) ∧
    (∀ k, s.postCore p = some k → ∃ j, (s.core k).job = some j ∧ p.ofJob j = true) ∧
    (s.dieUp die.toNat = true → ∃ t, exec (.tahrForward die) s = .next t ∧
      (∀ d, s.reaches d die.toNat = true → ∀ q ∈ (t.die d).held, hDie q.handle ≠ die.toNat) ∧
      (∀ d, s.reaches d die.toNat = true → ∀ q ∈ (s.die d).held, hDie q.handle = die.toNat → q ∈ (t.die die.toNat).posts) ∧
      (∀ d, s.reaches d die.toNat = false → (t.die d).held = (s.die d).held) ∧
      (∀ q ∈ (s.die die.toNat).posts, q ∈ (t.die die.toNat).posts) ∧
      ∀ c l, t.str c l = if (s.str c l).wait = .tahrHeld die.toNat then { s.str c l with wait := .none } else s.str c l)

/-- R190, R203, R346, R387: LOCK takes a free lock, telling whether its last holder abandoned it, and parks on a held one; UNLOCK by the
holder frees it or grants it to the waiter next in line, who goes on, or finds the grant when it executes its LOCK again; by another stream
it returns `nowner` and changes nothing. `r` is the state once both copies of the lock have been read. -/
def Parts.Locks : Prop :=
  ∀ (s : State) (g : Guard) (d a : BitVec 5) (ab : Bool) (ws : List Nat) (w : Nat) (s1 : State),
    let h : BitVec 32 := (s.me.rs a).setWidth 32
    let r := s.readCopies h
    let o := r.object (s.tenantOf s.fcore) (s.levelOf s.fcore) h [2]
    let sid := 4 * s.fcore + laneTag s.focusLane
    let edge : Edge := ⟨sid, false, h.toNat, none⟩
    let fresh : Prop := s.issues (.lock g d a) = true ∧ s.me.granted = none
    s.dieUp (hDie h) = true → s.reaches (s.fcore / 64) (hDie h) = true →
      (fresh → o = .ok (.lock none ab ws) → ∃ t, exec (.lock g d a) s = .next t ∧
        (t.slot h).obj = some (.lock (some sid) false (ws.filter (· != sid))) ∧
        t.me = (s.me.ws d (if ab then 0x2000000000000000 else 0)).done ∧ ∀ e ∈ t.edges, e ≠ edge) ∧
      (fresh → o = .ok (.lock (some w) ab ws) → r.insertEdge edge = .registered s1 →
        ∃ t, exec (.lock g d a) s = .next t ∧ t.me = { s1.me with wait := .lock d h true 0 0 } ∧
          (t.slot h).obj = some (.lock (some w) ab (if ws.contains sid then ws else ws ++ [sid]))) ∧
      (fresh → o = .ok (.lock (some w) ab ws) → r.insertEdge edge = .full s1 →
        exec (.lock g d a) s = .next (s1.updMe fun m => { m with wait := .lock d h false 64 (s1.tick.toNat + 64) })) ∧
      (∀ es, fresh → o = .ok (.lock (some w) ab ws) → r.insertEdge edge = .cycle es →
        exec (.lock g d a) s = .next (r.trapDeadlock es)) ∧
      (∀ x b, s.issues (.lock g d a) → s.me.granted = some (h, b) → o = .ok (.lock x ab ws) → exec (.lock g d a) s =
        .next (r.updMe fun m => ({ m with granted := none }.ws d (if b then 0x2000000000000000 else 0)).done)) ∧
      (s.issues (.unlock g d a) → o = .ok (.lock (some sid) ab ws) → r.bestWaiter h ws = none →
        exec (.unlock g d a) s = .next ((r.setObj h (.lock none false ws)).updMe fun m => (m.ws d 0).done)) ∧
      (∀ c l, s.issues (.unlock g d a) → o = .ok (.lock (some sid) ab ws) → r.bestWaiter h ws = some w → w < 1024 →
        streamOfId w = some (c, l) → (c ≠ s.fcore ∨ l ≠ s.focusLane) → ∃ t, exec (.unlock g d a) s = .next t ∧
          (t.slot h).obj = some (.lock (some w) false (ws.filter (· != w))) ∧ t.me = (s.me.ws d 0).done ∧
          (∀ e h' b n m, (s.str c l).wait = .lock e h' b n m → t.str c l = ((s.str c l).ws e 0).done) ∧
          ((∀ e h' b n m, (s.str c l).wait ≠ .lock e h' b n m) →
            t.str c l = { s.str c l with granted := some (h, false) })) ∧
      (∀ x, s.issues (.unlock g d a) → o = .ok (.lock x ab ws) → x ≠ some sid →
        exec (.unlock g d a) s = .next (r.updMe fun m => (m.ws d 0x1000000000000000).done))

/-- R190, R193: the waiter next in line is one whose edge stands, with the greatest effective priority, and the first to have come of those
that share it; where no waiter has an edge there is none. -/
def Parts.LockOrder : Prop :=
  ∀ (s : State) (h : BitVec 32) (ws : List Nat),
    let waits (w : Nat) : Prop := w ∈ ws ∧ (⟨w, false, h.toNat, none⟩ : Edge) ∈ s.edges
    (s.bestWaiter h ws = none ↔ ∀ w, ¬ waits w) ∧
    ∀ w, s.bestWaiter h ws = some w → waits w ∧ (∀ v, waits v → s.prioOf v ≤ s.prioOf w) ∧
      ∀ v, waits v → s.prioOf v = s.prioOf w → ws.idxOf w ≤ ws.idxOf v

/-- R188, R299: an arrival adds its core and returns the phase; the last one completes the phase, empties the arrived set and wakes every
waiter of the phase, and leaves the barrier broken where its mask no longer has as many cores as it expects; one outside the rules returns
phase 0xFFFF. BARAW also waits for the phase. -/
def Parts.BarrierArrivals : Prop :=
  ∀ (s : State) (g : Guard) (d a : BitVec 5) (p : BitVec 3) (e ph : Nat) (m ar : BitVec 256) (last : Tab Nat) (s1 : State),
    let h : BitVec 32 := (s.me.rs a).setWidth 32
    let ar' := ar ||| BitVec.ofNat 256 (2 ^ s.fcore)
    let n (x : BitVec 256) := ((List.range 256).filter x.getLsbD).length
    let expected : Prop := m.getLsbD s.fcore = true ∧ ar.getLsbD s.fcore = false
    let done (t : StreamState) (v : Word) : StreamState := ((t.addPush 40 1).ws d v).done
    let r := s.readCopies h
    s.Inv → s.me.wait.retried = true → s.dieUp (hDie h) = true → s.reaches (s.fcore / 64) (hDie h) = true → s.repeated = none →
    ph < 0xFFFF → r.object (s.tenantOf s.fcore) (s.levelOf s.fcore) h [1] = .ok (.barrier e m ph ar false last) →
      (s.issues (.bara g d a) → expected → n ar' ≠ e → ∃ t, exec (.bara g d a) s = .next t ∧
        (t.slot h).obj = some (.barrier e m ph ar' false (last.put s.fcore ph)) ∧ t.me = done s.me (BitVec.ofNat 64 ph) ∧
        ∀ c l, (c ≠ s.fcore ∨ l ≠ s.focusLane) → t.str c l = s.str c l) ∧
      (expected → n ar' = e → ∀ i, (i = .bara g d a ∨ i = .baraw g d a p) → s.issues i → ∃ t, exec i s = .next t ∧
        (t.slot h).obj = some (.barrier e m ((ph + 1) % 0xFFFF) 0 (decide (n m < e)) (last.put s.fcore ph)) ∧
        t.me = (if i = .bara g d a then done s.me (BitVec.ofNat 64 ph)
          else (((s.me.addPush 40 1).wp p true).ws d (BitVec.ofNat 64 ph)).done) ∧
        ∀ c l d' p' arr gap due, (c ≠ s.fcore ∨ l ≠ s.focusLane) → (s.str c l).wait = .barrier d' p' h ph arr true gap due →
          t.str c l = (((if arr then (s.str c l).addPush 40 1 else s.str c l).wp p' true).ws d' (BitVec.ofNat 64 ph)).done) ∧
      (s.issues (.bara g d a) → ¬ expected → exec (.bara g d a) s =
        .next ((r.updMyCore fun k => { k with log := k.log ++ [0xFFFF] }).updMe fun t => done t 0xFFFF)) ∧
      (s.issues (.baraw g d a p) → ¬ expected → exec (.baraw g d a p) s =
        .next ((r.updMyCore fun k => { k with log := k.log ++ [0xFFFF] }).updMe fun t =>
          (((t.addPush 40 1).wp p false).ws d 0xFFFF).done)) ∧
      (s.issues (.baraw g d a p) → expected → n ar' ≠ e →
        let u := (r.setObj h (.barrier e m ph ar' false (last.put s.fcore ph))).updMyCore fun k =>
          { k with log := k.log ++ [BitVec.ofNat 64 ph] }
        u.insertEdge ⟨4 * s.fcore + laneTag s.focusLane, false, h.toNat, none⟩ = .registered s1 →
          exec (.baraw g d a p) s = .next (s1.updMe fun t => { t with wait := .barrier d p h ph true true 0 0 }))

/-- R188, R189, R299: BARW waits for the phase of the core's last arrival; it returns at once where that phase has completed, where the core
never arrived, and where the barrier is broken. An arrival that the core's job made on another core, before it was restored, is kept as
its phase plus 65,536. The model's choices and readings: log 19. -/
def Parts.BarrierWaits : Prop :=
  ∀ (s : State) (g : Guard) (d a : BitVec 5) (p : BitVec 3) (e ph q : Nat) (m ar : BitVec 256) (br : Bool) (last : Tab Nat) (s1 : State),
    let h : BitVec 32 := (s.me.rs a).setWidth 32
    let edge : Edge := ⟨4 * s.fcore + laneTag s.focusLane, false, h.toNat, none⟩
    let gives (b : Bool) (v : Word) : Prop := ∃ t, exec (.barw g d a p) s = .next t ∧ t.me = ((s.me.wp p b).ws d v).done ∧
      (t.slot h).obj = (s.slot h).obj ∧ ∀ x ∈ t.edges, x ≠ edge
    let r := s.readCopies h
    s.issues (.barw g d a p) → s.dieUp (hDie h) = true → s.reaches (s.fcore / 64) (hDie h) = true →
    r.object (s.tenantOf s.fcore) (s.levelOf s.fcore) h [1] = .ok (.barrier e m ph ar br last) →
      (br = true → gives false 0x8000000000000000) ∧
      (br = false → last.find s.fcore = none → gives false 0xFFFF) ∧
      (br = false → last.find s.fcore = some q → ar.getLsbD s.fcore = false → (65536 ≤ q → q - 65536 = ph → ar = 0) →
        gives true (BitVec.ofNat 64 (q % 65536))) ∧
      (br = false → last.find s.fcore = some q → (ar.getLsbD s.fcore = true ∨ 65536 ≤ q ∧ q - 65536 = ph ∧ ar ≠ 0) →
        r.insertEdge edge = .registered s1 →
        exec (.barw g d a p) s = .next (s1.updMe fun t => { t with wait := .barrier d p h ph false true 0 0 }))

/-- R191, R192, R404: WREG registers a wait of a program's own and WDEREG ends it; WHOLD declares the stream a holder, of at most 8, the
oldest giving way, and WHOLD.rel takes it back. -/
def Parts.ProgramWaits : Prop :=
  ∀ (s : State) (g : Guard) (a : BitVec 5) (o : Obj) (s1 : State),
    let h : BitVec 32 := (s.me.rs a).setWidth 32
    let sid := 4 * s.fcore + laneTag s.focusLane
    let edge : Edge := ⟨sid, false, h.toNat, none⟩
    let hs := (s.slot h).holders
    let r := s.readCopies h
    let obj (l : List Nat) := r.object (s.tenantOf s.fcore) (s.levelOf s.fcore) h l
    s.dieUp (hDie h) = true → s.reaches (s.fcore / 64) (hDie h) = true →
      (s.issues (.wreg g a) → obj [3] = .ok o → (r.insertEdge edge = .registered s1 ∨ r.insertEdge edge = .full s1) →
        exec (.wreg g a) s = .next (s1.updMe StreamState.done)) ∧
      (∀ es, s.issues (.wreg g a) → obj [3] = .ok o → r.insertEdge edge = .cycle es →
        exec (.wreg g a) s = .next (r.trapDeadlock es)) ∧
      (s.issues (.wdereg g a) → obj [3] = .ok o → ∃ t, exec (.wdereg g a) s = .next t ∧ t.me = s.me.done ∧
        t.edges = s.edges.filter (· != edge)) ∧
      (s.issues (.whold g a) → obj [0, 3] = .ok o → ∃ t, exec (.whold g a) s = .next t ∧ t.me = s.me.done ∧
        (t.slot h).obj = (s.slot h).obj ∧ (t.slot h).holders = if sid ∈ hs then hs
          else if hs.length < 8 then hs ++ [sid] else hs.drop 1 ++ [sid]) ∧
      (s.issues (.wholdRel g a) → obj [0, 3] = .ok o → ∃ t, exec (.wholdRel g a) s = .next t ∧ t.me = s.me.done ∧
        (t.slot h).obj = (s.slot h).obj ∧ (t.slot h).holders = hs.filter (· != sid))

/-- R191, R194: a new edge is in the table of its waiter's die, or the table is full and counts it, or it closes a cycle of at most 8
edges, which the search finds whenever there is one. The model's choices and readings: log 60. -/
def Parts.EdgesAndCycles : Prop :=
  (∀ (s : State) (w n : Nat) (e : Edge),
    let chain (es : List Edge) : Prop := es.head? = some e ∧ es.length ≤ n ∧
      (∀ i (h : i + 1 < es.length), es[i + 1] ∈ s.edges ∧ es[i + 1].waiter ∈ s.holders es[i]) ∧
      ∃ x, es.getLast? = some x ∧ w ∈ s.holders x
    (∀ es, s.cycleFrom w n e = some es → chain es) ∧ (s.cycleFrom w n e = none → ∀ es, ¬ chain es)) ∧
  (∀ (s : State) (e : Edge),
    let d := e.waiter / 256
    let u := s.updDie d fun x => { x with edges := x.edges ++ [e] }
    (e ∈ (s.die d).edges → s.insertEdge e = .registered s) ∧
    (e ∉ (s.die d).edges → 4096 ≤ (s.die d).edges.length →
      s.insertEdge e = .full (s.updDie d fun x => { x with wfovf := min (x.wfovf + 1) 0xFFFFFFFF })) ∧
    (e ∉ (s.die d).edges → (s.die d).edges.length < 4096 →
      (u.cycleFrom e.waiter 8 e = none → s.insertEdge e = .registered u) ∧
      ∀ es, u.cycleFrom e.waiter 8 e = some es → s.insertEdge e = .cycle es))

/-- R186, R187, R335, R353: MON arms the core's watch on the granule of an address, taking over another entry where its die has 1,024, or
fails; MWAIT returns a latched occurrence, code 6 with no watch, 2 where pre-emption abandoned it, 4 on a timeout of 0, else parks; IDLE parks
for 65,536 cycles. A MON of a page that no TLB holds waits. The model's choices and readings: log 10, 28, 80. -/
def Parts.WatchInstructions : Prop :=
  ∀ (s : State) (g : Guard) (d a : BitVec 5) (t : Target) (k : Nat) (s1 : State),
    let va := (s.me.ra a).toNat
    let n := (s.me.rs a).toNat % 2 ^ 32
    let rest := (s.die (s.fcore / 64)).watches.filter (· != s.focusCore)
    let sid := 4 * s.fcore + laneTag s.focusLane
    let deadline := if n = 0xFFFFFFFF then none else some (s.beat.toNat + n)
    let mwait (code : Nat) : Prop := ∃ u, exec (.mwait g d a) s = .next u ∧
      u.me = { (s.me.ws d (BitVec.ofNat 64 code)).done with wstat := false, abandoned := false }
    let s0 := s.updMe fun m => { m with abandoned := false }
    (s.issues (.mon g d a) → s.walking (s.who s.fcore) .read va = true →
      exec (.mon g d a) s = .next ((s.noteMiss s.fcore va).stall .stall)) ∧
    (s.issues (.mon g d a) → s.walking (s.who s.fcore) .read va = false → s.translate (s.who s.fcore) .read va = .ok t → s.watchTarget t va = .ok (some k) →
      (rest.length < 1024 → ∃ u, exec (.mon g d a) s = .next u ∧ u.me = (s.me.ws d 0).done ∧
        (u.core s.fcore).watch = some ⟨k / 64, true, none, false⟩ ∧ (u.die (s.fcore / 64)).watches = rest ++ [s.focusCore]) ∧
      (∀ c, 1024 ≤ rest.length → rest.find? (fun c => !s.inMwait c.toNat) = some c → ∃ u, exec (.mon g d a) s = .next u ∧
        u.me.rs d = 0 ∧ (u.core s.fcore).watch = some ⟨k / 64, true, none, false⟩ ∧
        (u.core c.toNat).watch.any (fun w => w.armed) = false) ∧
      (1024 ≤ rest.length → (∀ c ∈ rest, s.inMwait c.toNat = true) → ∃ u, exec (.mon g d a) s = .next u ∧
        u.me = (s.me.ws d 1).done ∧ (u.core s.fcore).watch = some ⟨k / 64, false, none, false⟩)) ∧
    (s.issues (.mwait g d a) →
      (s.myCore.watch = none → mwait 6) ∧
      (∀ w, s.myCore.watch = some w →
        (∀ c, w.latch = some c → mwait c) ∧
        (w.latch = none → s.me.abandoned = true → mwait 2) ∧
        (w.latch = none → s.me.abandoned = false →
          (w.stolen = true → mwait 6) ∧
          (w.stolen = false → n = 0 → mwait 4) ∧
          (w.stolen = false → n ≠ 0 → w.armed = true → s0.insertEdge ⟨sid, true, w.granule, none⟩ = .registered s1 →
            exec (.mwait g d a) s = .next (s1.updMe fun m => { m with wait := .mwait d deadline true 0, wstat := false })) ∧
          (w.stolen = false → n ≠ 0 → w.armed = false → exec (.mwait g d a) s =
            .next (s0.updMe fun m => { m with wait := .mwait d deadline false (s.tick.toNat + 64), wstat := true }))))) ∧
    (s.issues (.idle g) →
      exec (.idle g) s = .next (s.updMe fun m => { m.done with wait := .idle (s.tick.toNat + 65536) }))

/-- R187, R195, R335, R363: a parked wait ends when its time is up: MWAIT with code 4, an unregistered MWAIT with code 5 at its
re-check, a PAUSE and an IDLE; an unregistered wait on a counter, a lock or a barrier is tried again after its interval, which
doubles up to 65,536 cycles. -/
def Parts.ParkedWaitsEnd : Prop :=
  ∀ (s : State) (core : BitVec 8) (l : Lane) (d : BitVec 5) (h : BitVec 32) (gap due v : Nat),
    let c := core.toNat
    let t := s.str c l
    let late : Prop := due ≤ s.tick.toNat
    let gap' := min (2 * gap) 65536
    let stream (e : Instr) (x : StreamState) : Prop := ∃ u, exec e s = .next u ∧ u.str c l = x ∧
      ∀ c' l', (c' ≠ c ∨ l' ≠ l) → u.str c' l' = s.str c' l'
    let open_ : Prop := s.dieUp (hDie h) = true ∧ s.reaches (c / 64) (hDie h) = true
    let obj (ty : Nat) := s.object (s.tenantOf c) (s.levelOf c) h [ty]
    (∀ b r, t.wait = .mwait d (some b) r due → l = .c → b ≤ s.beat.toNat → stream (.mwaitTimeout core) (t.ws d 4).done) ∧
    (t.wait = .pause due → late → stream (.pauseExpire core l) { t with wait := .none }) ∧
    (t.wait = .idle due → l = .c → late → stream (.idleTimeout core) { t with wait := .none }) ∧
    (∀ b, t.wait = .mwait d b false due → l = .c → late → stream (.unregisteredRecheck core l) (t.ws d 5).done) ∧
    (∀ n, t.wait = .counter d h n false gap due → open_ → late → obj 0 = .ok (.counter v) →
      (n.toNat ≤ v → stream (.unregisteredRecheck core l) (t.ws d (BitVec.ofNat 64 v)).done) ∧
      (v < n.toNat → stream (.unregisteredRecheck core l) { t with wait := .counter d h n false gap' (due + gap') })) ∧
    (∀ w ab ws, t.wait = .lock d h false gap due → open_ → late → obj 2 = .ok (.lock w ab ws) →
      (w = none → stream (.unregisteredRecheck core l)
        (t.ws d (if ab then 0x6000000000000000 else 0x4000000000000000)).done) ∧
      (w ≠ none → stream (.unregisteredRecheck core l) { t with wait := .lock d h false gap' (due + gap') })) ∧
    (∀ p ph arr e m ph' ar last, t.wait = .barrier d p h ph arr false gap due → open_ → late →
      obj 1 = .ok (.barrier e m ph' ar false last) → ar.getLsbD c = true → last.find c ≠ none →
      stream (.unregisteredRecheck core l) { t with wait := .barrier d p h ph arr false gap' (due + gap') })

/-- R168, R169: a FENCE over a class that `CWAY` banks may serve drops the cluster's held lines, once the stream's earlier
accesses have performed; FENCESC waits for the entries of the address queue and the records accepted before it, drops the lines, if there
is a class that such banks may serve, and completes at a later beat. -/
def Parts.Fences : Prop :=
  ∀ (s : State) (g : Guard) (m : BitVec 16) (core : BitVec 8) (l : Lane) (acc : List Nat) (b n : Nat),
    let k := s.myCore
    let c := s.core core.toNat
    let drop (s : State) (core : Nat) : State := s.updCluster (core / 4) fun x => { x with cway := [] }
    let cached (core : Nat) : Prop := ∃ j < 16, m.getLsbD j = true ∧ (s.core core).clsattr.getLsbD (4 * j) = true
    let retired := [c.ringL.ret, c.ringK.ret, c.ringS.ret, c.ringG.ret]
    (s.issues (.fence g m) → (m = 0 ∨ s.performed s.fcore s.focusLane = true ∧ ¬ cached s.fcore) →
      exec (.fence g m) s = .next (s.updMe StreamState.done)) ∧
    (s.issues (.fence g m) → s.performed s.fcore s.focusLane = true → cached s.fcore →
      exec (.fence g m) s = .next ((drop s s.fcore).updMe StreamState.done)) ∧
    (s.issues (.fence g m) → m ≠ 0 → s.performed s.fcore s.focusLane = false → exec (.fence g m) s = .next (s.stall .stall)) ∧
    (s.issues (.fencesc g) → exec (.fencesc g) s = .next (s.updMe fun t =>
      { t with wait := .fencesc k.aq.length [k.ringL.acc, k.ringK.acc, k.ringS.acc, k.ringG.acc] none })) ∧
    ((c.str l).wait = .fencesc n acc none → (n ≠ 0 ∨ ∃ p ∈ acc.zip retired, p.2 < p.1) →
      exec (.fencescCompletion core l) s = .next s) ∧
    ((c.str l).wait = .fencesc 0 acc none → (∀ p ∈ acc.zip retired, p.1 ≤ p.2) →
      let waits (u : State) : State := u.updStr core.toNat l fun t => { t with wait := .fencesc 0 acc (some s.beat.toNat) }
      ((∃ j < 16, c.clsattr.getLsbD (4 * j) = true) →
        exec (.fencescCompletion core l) s = .next (waits (drop s core.toNat))) ∧
      ((∀ j < 16, c.clsattr.getLsbD (4 * j) = false) → exec (.fencescCompletion core l) s = .next (waits s))) ∧
    ((c.str l).wait = .fencesc n acc (some b) →
      let u := s.updStr core.toNat l StreamState.done
      (b < s.beat.toNat → exec (.fencescCompletion core l) s =
        .next (if l = .x then u.updCore core.toNat fun k => { k with xTick := s.fine } else u)) ∧
      (s.beat.toNat ≤ b → exec (.fencescCompletion core l) s = .next s))

/-- R178, R189: the requests of `objctl`: alloc takes a free slot under the next generation that is not 0, free empties it, rearm gives a
barrier a new mask and count; `objst` has the handle and the status. The model's choices and readings: log 16. -/
def Parts.ObjectRequests : Prop :=
  ∀ (s : State) (die : BitVec 2) (r : Request) (h : BitVec 32) (o : Obj),
    let v := r.value
    let far := v.getLsbD 2
    let d := (v.extractLsb' 24 2).toNat
    let ty := (v.extractLsb' 8 4).toNat
    let e := (v.extractLsb' 48 16).toNat
    let mask : BitVec 256 := BitVec.ofNat 256 (r.args.headD 0)
    let count := ((List.range 256).filter mask.getLsbD).length
    let ends (i : Instr) (h : BitVec 32) (st : Nat) (p : State → Prop) : Prop := ∃ t, exec i s = .next t ∧ p t ∧
      (t.die die.toNat).objReq = none ∧ (t.die die.toNat).objst = BitVec.ofNat 64 (h.toNat * 2 ^ 32 + st)
    let kept (t : State) : Prop := ∀ x, t.slot x = s.slot x
    let free (k : Nat) : Prop := ((s.die d).tahr.at k Slot.reset).obj = none ∧ ¬ (d = 0 ∧ k = 0) ∧
      (if far then 65536 ≤ k ∧ k < 4194304 else k < 65536)
    (s.objRequest die.toNat 1 = some r →
      (∀ c, s.objCheck r = some c → ends (.objAlloc die) 0 c kept) ∧
      (s.objCheck r = none → ty = 1 → count < e → ends (.objAlloc die) 0 6 kept) ∧
      (s.objCheck r = none → (ty = 1 → e ≤ count) → (∀ k, ¬ free k) → ends (.objAlloc die) 0 2 kept) ∧
      (s.objCheck r = none → (ty = 1 → e ≤ count) → (∃ k, free k) → ∃ k h, free k ∧ hDie h = d ∧ hSlot h = k ∧
        ends (.objAlloc die) h 0 fun t => (∀ x, (hDie x ≠ d ∨ hSlot x ≠ k) → t.slot x = s.slot x) ∧
          ∃ g : BitVec 8, h.setWidth 8 = g ∧ g = (let n := ((s.die d).tahr.at k Slot.reset).gen + 1; if n = 0 then 1 else n) ∧
            t.slot h = ⟨g, BitVec.ofNat 6 (v.extractLsb' 16 6).toNat, some (if ty = 0 then .counter 0 else if ty = 1 then
              .barrier e mask 0 0 false [] else if ty = 2 then .lock none false [] else .wait), false, [], 0, false⟩)) ∧
    (s.objRequest die.toNat 2 = some r → s.objCheck r = none → s.objNamed v = some (h, o) →
      ((∃ w ab ws, o = .lock (some w) ab ws) ∨ s.hasWaiters h = true → ends (.objFree die) 0 5 kept) ∧
      ((∀ w ab ws, o ≠ .lock (some w) ab ws) → s.hasWaiters h = false →
        ends (.objFree die) h 0 fun t => (t.slot h).obj = none ∧ (t.slot h).gen = (s.slot h).gen ∧
          ∀ x, (hDie x ≠ hDie h ∨ hSlot x ≠ hSlot h) → t.slot x = s.slot x)) ∧
    (∀ e0 m0 ph ar br last, s.objRequest die.toNat 3 = some r → s.objCheck r = none →
      s.objNamed v = some (h, .barrier e0 m0 ph ar br last) →
      (count < e → ends (.objRearm die) 0 6 kept) ∧
      (e ≤ count → s.hasWaiters h = true → ends (.objRearm die) 0 5 kept) ∧
      (e ≤ count → s.hasWaiters h = false → ends (.objRearm die) h 0 fun t =>
        t.slot h = { s.slot h with obj := some (.barrier e mask 0 0 false []) } ∧
          ∀ x, (hDie x ≠ hDie h ∨ hSlot x ≠ hSlot h) → t.slot x = s.slot x))

/-! ### System registers, exceptions and the return from them -/

/-- R8, R381, R382, R384: SYSRD returns the register that the low 32 bits of `sA` name; one that does not exist traps
(illegal-instruction, 4), one whose level or tenant is not the stream's takes the privilege fault. -/
def Parts.SysrdResults : Prop :=
  ∀ (s : State) (g : Guard) (d a : BitVec 5) (v : Word), s.issues (.sysrd g d a) →
    let n := (s.me.rs a).toNat % 2 ^ 32
    let k := s.myCore
    let job (f : Job → Word) : Word := (k.job.map f).getD 0
    let table : List (Nat × Word) :=
      [(0x00, k.c.fpctl.setWidth 64), (0x01, k.c.fpflags.setWidth 64), (0x02, k.c.seed), (0x08, k.gen.setWidth 64), (0x09, k.clsattr),
       (0x0A, s.tick), (0x0B, s.beat), (0x10, BitVec.ofNat 64 (s.tenantOf s.fcore)),
       (0x11, BitVec.ofNat 64 (s.fcore + s.mod.podModule.toNat * 2 ^ 16)), (0x12, k.leaseRun.setWidth 64), (0x13, job (·.args)),
       (0x17, BitVec.ofNat 64 (s.levelOf s.fcore)), (0x18, BitVec.ofNat 64 k.ringL.acc), (0x19, BitVec.ofNat 64 k.ringK.acc),
       (0x1A, BitVec.ofNat 64 k.ringS.acc), (0x1B, BitVec.ofNat 64 k.ringG.acc), (0x1C, BitVec.ofNat 64 k.ringL.ret),
       (0x1D, BitVec.ofNat 64 k.ringK.ret), (0x1E, BitVec.ofNat 64 k.ringS.ret), (0x1F, BitVec.ofNat 64 k.ringG.ret),
       (0x20, job (·.image)), (0x40000000, s.mod.present.setWidth 64), (0x40000001, s.mod.gangGrace.setWidth 64)]
    ((n, v) ∈ table → exec (.sysrd g d a) s = .next (s.updMe fun t => (t.ws d v).done)) ∧
    (∀ r, regOfNumber s.fcore n = some r → regCheck (s.caller s.fcore) r false = none →
      exec (.sysrd g d a) s = .next ((s.afterRead r).updMe fun t => (t.ws d (s.readReg r)).done)) ∧
    (regOfNumber s.fcore n = none → exec (.sysrd g d a) s = .next (s.trap 0x01 4)) ∧
    (∀ r e, regOfNumber s.fcore n = some r → regCheck (s.caller s.fcore) r false = some e →
      exec (.sysrd g d a) s = .next (s.trap e.1 e.2)) ∧
    (n / 2 ^ 28 = 3 → n / 2 ^ 20 % 4 = 0 → n % 2 ^ 20 < 0x10 →
      (s.levelOf s.fcore = 0 ∨ s.levelOf s.fcore = 1 ∧ n / 2 ^ 22 % 64 ≠ s.tenantOf s.fcore) →
      exec (.sysrd g d a) s = .next (s.trap 0x04 0))

/-- R9, R64-R66, R126, R165, R381: SYSWR of the core's own registers; a value that a register refuses traps
(illegal-instruction, 4). A write to `clsattr` waits for the accesses of stream A. -/
def Parts.SyswrResults : Prop :=
  ∀ (s : State) (g : Guard) (a b : BitVec 5), s.issues (.syswr g a b) →
    let n := (s.me.rs a).toNat % 2 ^ 32
    let v := s.me.rs b
    let u := s.updMe StreamState.done
    let gives (t : State) : Prop := exec (.syswr g a b) s = .next t
    (n = 0 → v.toNat % 8 < 5 → gives (u.updStr s.fcore .c fun t => { t with fpctl := v.setWidth 3 })) ∧
    (n = 0 ∨ n = 4 → 5 ≤ v.toNat % 8 → gives (s.trap 0x01 4)) ∧
    (n = 1 → gives (u.updStr s.fcore .c fun t => { t with fpflags := v.setWidth 5 })) ∧
    (n = 2 → gives (u.updStr s.fcore .c fun t => { t with seed := v })) ∧
    (n = 9 → s.performed s.fcore .a = false → gives (s.stall .stall)) ∧
    (n = 9 → s.performed s.fcore .a → (∃ c < 15, v.getLsbD (4 * c + 3) = true) → gives (s.trap 0x01 4)) ∧
    (n = 9 → s.performed s.fcore .a → (∀ c < 15, v.getLsbD (4 * c + 3) = false) → ∃ w, gives (u.updCore s.fcore fun k =>
      { k with clsattr := w }) ∧ ∀ i < 64, w.getLsbD i = if i < 60 then v.getLsbD i else decide (i = 61)) ∧
    (n = 0x12 → 1 ≤ v.toNat % 128 → v.toNat % 128 ≤ 64 →
      gives (u.updCore s.fcore fun k => { k with leaseRun := BitVec.ofNat 7 (v.toNat % 128) })) ∧
    (n = 0x12 → (v.toNat % 128 = 0 ∨ 64 < v.toNat % 128) → gives u) ∧
    (n ∈ [0x08, 0x0A, 0x0B, 0x0C, 0x10, 0x11, 0x13, 0x17, 0x18, 0x1C, 0x20] → gives u) ∧
    (∀ r t, n ≠ 9 → regOfNumber s.fcore n = some r → u.regWr (s.caller s.fcore) r v = .ok t → gives t) ∧
    (∀ r e, n ≠ 9 → regOfNumber s.fcore n = some r → u.regWr (s.caller s.fcore) r v = .error e → gives (s.trap e.1 e.2))

/-- R9, R209, R210, R262, R384: no register of a tenant is open at level U or to another tenant at level S; a die's ports, keys, routes
and scrubbers are written at level M alone; nothing below level M changes a register of the module but by a request. A request of a level
below M to `ckctl` is refused with status 8. The model's choices and readings: log 83. -/
def Parts.RegisterPrivilege : Prop :=
  ∀ (s : State) (v : Word) (c : Caller) (r : RegName) (w : Bool),
    (r.space = 3 → (c.level = 0 ∨ c.level = 1 ∧ r.unit ≠ c.tenant) → regCheck c r w ≠ none) ∧
    (r.space = 2 → c.level < 2 →
      (0x40 ≤ r.index ∧ r.index ≤ 0x48 ∨ r.index = 0x4D ∨ r.index = 0x4F ∨ 0x80 ≤ r.index ∧ r.index < 0xC3 ∨ 0x10000 ≤ r.index) →
      regCheck c r true ≠ none) ∧
    (r.space = 4 → c.level < 2 → r.index ∉ [0, 2, 0x18, 0x19, 0x1A, 0x1B, 0x23] → r.index < 0x400 → regCheck c r true ≠ none) ∧
    (r.space = 4 → r.index = 0x23 → c.level < 2 → v.toNat % 16 ∈ [1, 2, 3] → v.toNat / 2 ^ 5 % 2 ^ 11 = 0 → v.toNat / 2 ^ 29 % 8 = 0 →
      s.regWr c r v = .ok (s.updMod fun m => { m with ckst := 8 })) ∧
    (5 ≤ r.space → regCheck c r w = some (0x01, 4))

/-- R212-R215: taking a fault. The core stops: none of its streams may issue; its frame names the cause, the faulting agent, the tenant
and each stream's resume point, takes the tenant's next number and is offered to the tenant's fault queue; the streams are as they
were, but that a PAUSE ends. A core that is stopped already takes no second frame. The model's choices and readings: log 22. -/
def Parts.TakingAFault : Prop :=
  ∀ (s : State) (core : Nat) (p : Stop),
    let t := s.tenantOf core
    let u := s.stopCore core p
    ((s.core core).stop.isSome = true → u = s) ∧
    ((s.core core).stop = none → ∃ f, (u.core core).stop = some f ∧ (u.tenant t).outbox = (s.tenant t).outbox ++ [f] ∧
      f.fseq = (s.tenant t).frames + 1 ∧ (u.tenant t).frames = (s.tenant t).frames + 1 ∧
      f.cause = p.cause ∧ f.sub = p.sub ∧ f.src = p.src ∧ f.tenant = t ∧ f.level = s.levelOf core ∧ f.beat = s.beat.toNat ∧
      f.gen = (s.core core).gen.toNat % 65536 ∧ f.addrValid = p.addr.isSome ∧ f.core = core ∧
      (∀ l, u.mayIssue core l = false) ∧ ((s.tenant t).trmask.getLsbD 5 = false → u.mem = s.mem ∧ ∀ c l, u.str c l = match (s.str c l).wait with
        | .pause _ => if c = core ∧ l ≠ .x then { s.str c l with wait := .none } else s.str c l
        | _ => s.str c l) ∧
      (∀ c l, (s.str c l).wait.retried = true → u.str c l = s.str c l) ∧
      ((s.str core .c).pc.after = false → (s.str core .c).pc.line &&& 31 = 0 →
        f.strc.line = (s.str core .c).pc.line ∧ f.strc.lane = (s.str core .c).pc.lane))

/-- R31, R216, R386: TRAP stops the core with cause 0x05 and `sA`[31:0] in the frame; Resume then continues after it. A precise fault at an
instruction leaves the stream at it, so that Resume executes it again. (`since` begins the time that R227 counts as work anew.) -/
def Parts.TrapAndResume : Prop :=
  ∀ (s : State) (g : Guard) (a : BitVec 5), s.issues (.trap g a) → s.myCore.stop = none → s.me.wait.retried = true →
    ∃ u, exec (.trap g a) s = .next u ∧
      (∃ f, (u.core s.fcore).stop = some f ∧ f.cause = 0x05 ∧ f.aux0 = (s.me.rs a).toNat % 2 ^ 32 ∧ f.strc.flags.getLsbD 2 = true) ∧
      ((u.resume s.fcore).core s.fcore).stop = none ∧
      (u.resume s.fcore).str s.fcore .c = { s.me.done with since := s.tick.toNat } ∧
      (s.me.pc.after = false → ∀ cause sub, ((s.trap cause sub).resume s.fcore).str s.fcore .c = { s.me with since := s.tick.toNat })

/-- R300: BKPT. -/
def Obligations.BkptStopsTheCore : Prop :=
  ∀ (s : State) (g : Guard) (l : Lane),
    decodeWord 0xF0000004 = .ok (.bkpt ⟨0, false⟩) ∧
    decodeWord (0x3C#6 ++ g.p ++ BitVec.ofBool g.n ++ 0#15 ++ 0x04#7) = .ok (.bkpt g) ∧
    (∀ r : BitVec 15, r ≠ 0 → ∀ i, decodeWord (0x3C#6 ++ g.p ++ BitVec.ofBool g.n ++ r ++ 0x04#7) ≠ .ok i) ∧
    (Instr.bkpt g).streams = [.c] ∧ (Instr.bkpt g).minLevel = 0 ∧
    (s.issues (.bkpt g) → s.myCore.stop = none → s.me.wait.retried = true → ∃ u f, exec (.bkpt g) s = .next u ∧ (u.core s.fcore).stop = some f ∧
      f.cause = 0x06 ∧ f.strc.flags.getLsbD 0 = true ∧ f.strc.flags.getLsbD 2 = true ∧ u.mayIssue s.fcore l = false ∧
      (u.resume s.fcore).str s.fcore .c = { s.me.done with since := s.tick.toNat }) ∧
    (s.focusLane = .c → s.me.guard g = false → exec (.bkpt g) s = .next (s.updMe StreamState.done))

/-- R216, R221, R322: ERET resolves the frame of its tenant that `sA` numbers, or at level M of the tenant that `sB` names: action 1 resumes,
where the cause permits it, 2 ends the job; another request has no effect. The frame of a job that is being pre-empted keeps its action
until the job is restored. Level U takes the privilege fault. -/
def Parts.EretResolvesAFrame : Prop :=
  ∀ (s : State) (g : Guard) (a b : BitVec 5) (c : Nat) (f : Frame),
    let n := (s.me.rs a).toNat
    let v := s.me.rs b
    let u := s.updMe StreamState.done
    let t := if s.levelOf s.fcore = 2 then (v.extractLsb' 8 6).toNat else s.tenantOf s.fcore
    let act := (v.extractLsb' 0 2).toNat
    let clear : Prop := v.extractLsb' 2 6 = 0 ∧ v.extractLsb' 14 50 = 0
    (s.issues (.eret g a b) → clear → u.frameCore t n = some c → (u.core c).stop = some f → (u.core c).preempting = true →
      (act = 2 ∨ act = 1 ∧ causeResumes f.cause = true) →
        exec (.eret g a b) s = .next (u.updCore c fun k => { k with heldResolution := some act })) ∧
    (s.issues (.eret g a b) → clear → u.frameCore t n = some c → (u.core c).stop = some f → (u.core c).preempting = false →
      (act = 1 → causeResumes f.cause = true → exec (.eret g a b) s = .next (u.resume c)) ∧
      (act = 1 → causeResumes f.cause = false → exec (.eret g a b) s = .next u) ∧
      (act = 2 → exec (.eret g a b) s = .next (u.killJob c 12 (some true)))) ∧
    (s.issues (.eret g a b) → (¬ clear ∨ act = 0 ∨ act = 3 ∨ u.frameCore t n = none ∧ u.frameSaved t n = none) →
      exec (.eret g a b) s = .next u) ∧
    (s.focusLane = .c → s.levelOf s.fcore = 0 → exec (.eret g a b) s = .next (s.trap 0x04 0)) ∧
    (∀ x, causeResumes x = true ↔ x ∈ [0x05, 0x06, 0x08, 0x10, 0x11, 0x15, 0x16])

/-- R8, R19, R196, R243, R250, R253, R257, R265, R383: the host's writes perform with the level of its context, M for tenant 0 and S for
another, and are answered; a refusal is an error reply and changes nothing else, as is every access while neither Edzan Link port is up; an
`lqtail` below `lqhead`, or beyond the ring above it, is ignored. The model's choices and readings: log 13, 58, 59. -/
def Parts.HostRegisterWrites : Prop :=
  ∀ (s : State) (w t : BitVec 6) (q : BitVec 3) (slice : BitVec 7) (d : BitVec 2) (n : BitVec 32) (v a : Word),
    let own : Prop := w = 0 ∨ w = t
    let l := (s.tenant t.toNat).lq q.toNat
    let done (u : State) : State := { u with hostReply := .done }
    let denied : State := { s with hostReply := .error 0x04 }
    (s.hostPort 0 = none → ∀ b, ∀ i ∈ [Instr.hsqtailWrite w t v, .lqtailWrite w t q v, .fqresWrite w t v, .stgcfgCacheWrite w slice v,
      .rtswapWrite w d v, .bootclrWrite w v, .mmclrWrite w d v, .sysregWrite w n v, .systemSpaceAccess w a b v],
        exec i s = .next { s with hostReply := .error 0x16 }) ∧
    (s.hostPort 0 ≠ none →
    (own → (s.tenant t.toNat).hsacc ≤ v.toNat → exec (.hsqtailWrite w t v) s =
      .next (done (s.updTenant t.toNat fun x => { x with hsqtail := v.toNat, hsStopped := false }))) ∧
    (own → v.toNat < (s.tenant t.toNat).hsacc → ∃ u, exec (.hsqtailWrite w t v) s = .next u ∧ u.tenant t.toNat = s.tenant t.toNat) ∧
    (¬ own → ∀ i ∈ [Instr.hsqtailWrite w t v, .lqtailWrite w t q v, .fqresWrite w t v], exec i s = .next denied) ∧
    (own → (v.toNat % 2 ^ 32 + 2 ^ 32 - l.head) % 2 ^ 32 ≤ 2 ^ cfgSize l.cfg →
      ∃ u, exec (.lqtailWrite w t q v) s = .next u ∧ u.hostReply = .done ∧
        ((u.tenant t.toNat).lq q.toNat).tail = v.toNat % 2 ^ 32 ∧ ((u.tenant t.toNat).lq q.toNat).head = l.head) ∧
    (own → 2 ^ cfgSize l.cfg < (v.toNat % 2 ^ 32 + 2 ^ 32 - l.head) % 2 ^ 32 →
      ∃ u, exec (.lqtailWrite w t q v) s = .next u ∧ u.hostReply = .done ∧
        ((u.tenant t.toNat).lq q.toNat).tail = l.tail ∧ ((u.tenant t.toNat).lq q.toNat).head = l.head) ∧
    (own → ∃ u, exec (.fqresWrite w t v) s = .next (done u) ∧
      u = s.resolve (if w = 0 then 2 else 1) t.toNat (s.tenant t.toNat).fqresn.toNat
        (if w = 0 then copyBits v (BitVec.ofNat 64 (t.toNat * 256)) 8 6 else v)) ∧
    (w ≠ 0 → ∀ i ∈ [Instr.stgcfgCacheWrite w slice v, .rtswapWrite w d v, .bootclrWrite w v, .mmclrWrite w d v],
      exec i s = .next denied) ∧
    (w = 0 → v.toNat % 16 ≤ 12 → ∃ u, exec (.stgcfgCacheWrite w slice v) s = .next u ∧ u.hostReply = .done ∧
      u.mod.stgcfg.at slice.toNat 0 = v.extractLsb' 8 6 ++ 0#4 ++ v.extractLsb' 0 4) ∧
    (w = 0 → s.present d.toNat = true → exec (.rtswapWrite w d v) s =
      .next (done (s.updDie d.toNat fun x => { x with rtswap := v, rtst := 1 }))) ∧
    (w = 0 → exec (.bootclrWrite w v) s = .next (done (s.updMod fun m => { m with bootClear := m.bootClear || v.getLsbD 0 }))) ∧
    (w = 0 → s.present d.toNat = true → exec (.mmclrWrite w d v) s =
      .next (done (s.updDie d.toNat fun x => { x with mmcount := x.mmcount.del x.mmidx }))) ∧
    (∀ r u, regOfSpace n.toNat = some r → s.regWr (hostCaller w) r v = .ok u → exec (.sysregWrite w n v) s = .next (done u)) ∧
    (∀ r e, regOfSpace n.toNat = some r → s.regWr (hostCaller w) r v = .error e →
      exec (.sysregWrite w n v) s = .next { s with hostReply := .error e.1 }) ∧
    (∀ r u, sysSpaceReg a.toNat = some r → s.regWr (hostCaller w) r v = .ok u →
      exec (.systemSpaceAccess w a true v) s = .next (done u)) ∧
    (∀ r x u, sysSpaceReg a.toNat = some r → s.regRd (hostCaller w) r = .ok (x, u) → exec (.systemSpaceAccess w a false v) s =
      .next { u with hostReply := .data ((bytesOf 8 x.toNat).map (BitVec.ofNat 8)) }) ∧
    (sysSpaceReg a.toNat = none → ∀ b, exec (.systemSpaceAccess w a b v) s = .next { s with hostReply := .error 0x14 }))

/-- R22, R250, R260: the host reads and writes its own memory, and the home memory and the direct portion of staging that a port reaches;
another access gets an error reply, which a reserved address also puts into the fault queue of the host context's tenant. A write into
a chunk that a snapshot has still to copy waits. The model's choices and readings: log 13. -/
def Parts.HostMemoryAccesses : Prop :=
  ∀ (s : State) (p : HostSide) (a : Word) (data : List Byte) (w : Bool), Memory.wf s.mem = true →
    let n := data.length
    let target := s.hostTarget p.port.toNat a.toNat n
    let t := p.who.toNat
    (∀ k, target = .ok k →
      (s.heldChunk k n = none → ∃ u, exec (.hostMemoryAccess p a true data) s = .next u ∧ u.hostReply = .done ∧
        (∀ i (h : i < n), memRead u.mem (k + i) = data[i]) ∧
        ∀ x, ¬ (k ≤ x ∧ x < k + n) → memRead u.mem x = memRead s.mem x) ∧
      (∀ c, s.heldChunk k n = some c → ∃ u, exec (.hostMemoryAccess p a true data) s = .next u ∧ u.hostReply = .none ∧ u.mem = s.mem) ∧
      (s.ecc .read k n k = none → exec (.hostMemoryAccess p a false data) s =
        .next { s with hostReply := .data ((List.range n).map fun i => memRead s.mem (k + i)) }) ∧
      (s.ecc .read k n k ≠ none → exec (.hostMemoryAccess p a false data) s =
        .next { s with hostReply := .error 0x19 })) ∧
    (∀ c, target = .error c → (c ≠ 0x14 ∨ 0xF000000000000 ≤ a.toNat) → exec (.hostMemoryAccess p a w data) s =
      .next { s with hostReply := .error c }) ∧
    (target = .error 0x14 → a.toNat < 0xF000000000000 → ∃ u f, exec (.hostMemoryAccess p a w data) s = .next u ∧
      u.hostReply = .error 0x14 ∧ u.mem = s.mem ∧ u.cores = s.cores ∧ (u.tenant t).outbox = (s.tenant t).outbox ++ [f] ∧
      f.cause = 0x14 ∧ f.addrValid = true ∧ f.addr = a ∧ f.tenant = t)

/-! ### Commands -/

/-- R89, R91, R111, R118, R119, R315-R319, R332, R351, R352: the copy commands perform the chunk after the mark: its bytes are written, or
appended to a `FIFO` bank while it has room, and its record has performed it once all are in their places; a multicast reaches every
receiver; an access that fails, or a format that does not suit, stops the command, and a receiver that fails is left out; a page that no
TLB holds, or a bank that changes its mode, makes it wait. The model's choices and readings: log 3, 10, 46, 70. -/
def Parts.CopiesPerformChunks : Prop :=
  ∀ (s : State) (core : BitVec 8) (q : RingId) (n : Nat) (r : Rec) (p : Plan) (l : List Moved) (ts : List (Target × List Nat))
    (i : Instr) (kind : Nat) (f : AccFault),
    let c := core.toNat
    let v := r.cmd
    let cl := c / 4
    let b := (cpDst v - 0x1F0000000000000) / 32768
    let bank := (s.cluster cl).bank b
    let moved := s.moveAll c v p (p.pieces (cpTotalRows v) r.st.mark)
    let ws := movedWrites l
    let plain (cl : Nat) : Prop := s.fifoSplit cl v ws = ([], ws) ∧ r.fifo.carry = []
    let done : Rec := ({ r with fifo := { r.fifo with again := false } } : Rec).chunkDone l
    let es := (fifoEntries (r.fifo.carry.at (cl * 64 + b) [] ++ movedBytes l) (r.st.mark + 1 == r.chunks)).1
    let m := min es.length (bank.head + 256 - bank.tail)
    let place (j : Nat) : Nat := sramKey cl (b * 32768 + (bank.tail + j) % 256 * 128)
    (i = .copy core q ∧ kind = 0x01 ∨ i = .gcopy core q ∧ kind = 0x02 ∨ i = .mcast core q ∧ kind = 0x03) →
    s.runsAsHead core q kind n r → r.plan = some p → r.st.mark < r.chunks →
      (kind ≠ 3 → moved = .ok l → plain cl → s.engineTargets (s.who c) true ws = .ok ts → ∃ t, exec i s = .next t ∧
        t.mem = (s.writeTargets ts).mem ∧ t.recOf c q n = some done) ∧
      (kind ≠ 3 → moved = .ok l → plain cl → s.engineTargets (s.who c) true ws = .fault f →
        exec i s = .next (s.faultAccess c q n f .write)) ∧
      (kind ≠ 3 → moved = .ok l → s.fifoBank cl v = true → bank.pend.isSome = true → exec i s = .next s) ∧
      (kind ≠ 3 → moved = .ok l → s.fifoBank cl v = true → bank.pend = none → bank.tenant.toNat = s.tenantOf c →
        bank.head ≤ bank.tail → r.fifo.put = [] → r.fifo.again = false → (∀ e ∈ r.fifo.carry, e.1 = cl * 64 + b) →
        Memory.wf s.mem = true → ∃ t x, exec i s = .next t ∧ ((t.cluster cl).bank b).tail = bank.tail + m ∧
          t.recOf c q n = some x ∧ (x.performed = true ↔ m = es.length) ∧
          (∀ j (h : j < es.length), j < m → ∀ k < 128, memRead t.mem (place j + k) = BitVec.ofNat 8 (es[j].getD k 0)) ∧
          ∀ y, (∀ j < m, ¬ (place j ≤ y ∧ y < place j + 128)) → memRead t.mem y = memRead s.mem y) ∧
      (∀ u all, kind = 3 → moved = .ok l → s.writeReceivers c q n r l (receivers c v) = (u, all) →
        let w := u.updRec c q n fun x => { x with fifo := { x.fifo with again := false } }
        exec i s = .next (if all then w.updRec c q n fun x => x.chunkDone l else w)) ∧
      (∀ rc va bs, kind = 3 → moved = .ok l → receivers c v = [rc] → r.st.rmask = 0 → plain (rc / 4) → ws = [(va, bs)] →
        va + bs.length ≤ (va / 4096 + 1) * 4096 → s.receiverSpots c rc v ws = .ok () → Memory.wf s.mem = true → ∃ t,
          exec i s = .next t ∧ t.recOf c q n = some done ∧
          (∀ k (h : k < bs.length), memRead t.mem (sramKey (rc / 4) (va - 0x1F0000000000000) + k) = BitVec.ofNat 8 bs[k]) ∧
          ∀ y, ¬ (sramKey (rc / 4) (va - 0x1F0000000000000) ≤ y ∧ y < sramKey (rc / 4) (va - 0x1F0000000000000) + bs.length) →
            memRead t.mem y = memRead s.mem y) ∧
      (∀ rc, kind = 3 → moved = .ok l → receivers c v = [rc] → r.st.rmask = 0 → s.receiverSpots c rc v ws = .fault f → ∃ t x,
        exec i s = .next t ∧ t.mem = s.mem ∧ t.recOf c q n = some x ∧ x.performed = true ∧
          x.st.rmask = BitVec.ofNat 64 (2 ^ (rc % 64)) ∧ x.failed = r.failed.or (some (rc, f.addr)) ∧
          (t.core c).slotsFree (cpChan v) rc = min 8 ((s.core c).slotsFree (cpChan v) rc + 1)) ∧
      (moved = .bad → exec i s = .next (s.faultCause c q n 0x30 0)) ∧
      (moved = .wait → exec i s = .next s) ∧
      (∀ va, moved = .miss va → exec i s = .next (s.noteMiss c va)) ∧
      (∀ k, moved = .fault f k → exec i s = .next (s.faultAccess c q n f k))

/-- R91, R333: the chunks of a copy, in order, take every unit of every row once, in row order. -/
def Parts.CopyChunksCoverEveryRowOnce : Prop :=
  ∀ (p : Plan) (rows : Nat), 0 < p.row → 0 < p.chunk →
    ((List.range (p.count rows)).flatMap fun c => (p.pieces rows c).flatMap fun x =>
      (List.range (x.2.2 - x.2.1)).map fun i => x.1 * p.row + (x.2.1 + i)) = List.range (rows * p.row)

/-- R121-R123, R133, R135-R140, R151-R153, R156, R355-R362: a matrix command performs its next tile: a product is held in the cells, its
banks busy; an MXR also writes the next side of its entry's regions, in full or by the delta that its claim found; one whose delta pass has
still to be made makes it first; MXDRN writes the tile's rows, once the formats of the banks that it is the first tile to write suit. In a
call `kcount` counts the segment's records. The model's choices and readings: log 3, 30, 52, 72. -/
def Parts.MatrixCommandsPerformTiles : Prop :=
  ∀ (s : State) (core : BitVec 8) (n : Nat) (r : Rec) (m : MxrRun) (ts : List (Target × List Nat)),
    let c := core.toNat
    let v := r.cmd
    let k := r.st.mark
    let cl := c / 4
    let w := s.who c
    let t := s.tenantOf c
    let e := s.dirSlot t m.slot
    let rows := tileRowList v k
    let runs (kind : Nat) : Prop := s.runsAsHead core .k kind n r ∧ k < mxTiles v ∧ s.tileSpot c v k = .ok ()
    let holds (i : Instr) (x : Tile) (r' : Rec) (mem : List Host.Cell) : Prop := ∃ t, exec i s = .next t ∧
      (t.cluster cl).cells = some x ∧ t.recOf c .k n = some r' ∧ t.mem = mem ∧
      ∀ b ∈ tileBanks v k, ((t.cluster cl).accb b).busy = true ∧
        ((t.cluster cl).accb b).ovf = if mxOver v then 0 else ((s.cluster cl).accb b).ovf
    (runs 0x10 → holds (.mxd core) (s.productTile c v k) { r with performed := true } s.mem) ∧
    (runs 0x12 → holds (.mxl core) (s.productTile c v k) { r with performed := true } s.mem) ∧
    (runs 0x11 → holds (.mxc core) (s.productTile c v k)
      { r with performed := true, st := { r.st with kcount := if r.seg.isSome then r.st.kcount else voidRows v } } s.mem) ∧
    (runs 0x13 → r.mxr = some m →
      (m.path = 0 → holds (.mxr core) (s.productTile c v k) { r with performed := true } s.mem) ∧
      (m.path = 1 → s.engineTargets w false (s.fullWrites c v k e m.side (s.productTile c v k)) = .ok ts →
        holds (.mxr core) (s.productTile c v k) { r with performed := true } (s.writeTargets ts).mem) ∧
      (∀ ps els ws, m.path = 2 → s.prevRows c e m.side rows = .ok ps →
        s.deltaTile c v k e m.side (rows.zip ps) m.delta = .ok (els, ws) → s.engineTargets w false ws = .ok ts →
          holds (.mxr core) (cellsOf c els) { r with performed := true } (s.writeTargets ts).mem) ∧
      (∀ ds nz, m.path = 3 → s.findDeltas c v e m.side = .ok (0, ds, nz) → ∃ u x, exec (.mxr core) s = .next u ∧
        u.mem = s.mem ∧ u.recOf c .k n = some x ∧ x.mxr = some { m with path := 2, delta := ds } ∧ x.performed = false ∧
          x.st.kflags = mxrFlags r false false 0 ∧ (r.seg = none → x.st.kcount = (e.k + 31) / 32 - nz) ∧
          (u.dirSlot t m.slot).watch = m.old) ∧
      (∀ why ds nz, m.path = 3 → why ≠ 0 → s.findDeltas c v e m.side = .ok (why, ds, nz) → exec (.mxr core) s =
        .next (s.updRec c .k n fun x => { x with
          mxr := some { m with path := 1 }, st := { x.st with kflags := mxrFlags x true (x.st.kflags.getLsbD 6) why } }))) ∧
    (∀ bias ws fl new, runs 0x14 → s.drainBias c v k = .ok bias → s.drainTile cl v k bias r.drained = some (ws, fl, new) →
      outsideAcc ws = none → s.engineTargets w false ws = .ok ts → ∃ t, exec (.mxdrn core) s = .next t ∧
        t.mem = (s.writeTargets ts).mem ∧ t.recOf c .k n =
          some { r with performed := true, drained := r.drained ++ new, st := { r.st with fpfl := r.st.fpfl ||| fl } }) ∧
    (∀ bias, runs 0x14 → s.drainBias c v k = .ok bias → s.drainTile cl v k bias r.drained = none →
      exec (.mxdrn core) s = .next (s.faultCause c .k n 0x30 0))

/-- R79-R82, R123, R133, R136: the tile of a product holds, for each row that is not void and each column, the sums of its blocks of 32
products added in order to +0, or to accumulator memory. -/
def Parts.ProductTileElements : Prop :=
  ∀ (s : State) (c : Nat) (v : Vec) (t : Nat),
    let cl := c / 4
    let x := s.productTile c v t
    let base (i j : Nat) : Nat := if mxOver v then 0 else s.accElem cl (accOffset v i j)
    let value (i j : Nat) (a : List Sys2Proof.Machine.Num) : Nat := (accBlocks (base i j) (
      if cmdKind v = 0x12 then lookupBlocks (mxlBits v) a (s.weightRow cl v j)
      else productBlocks (fmtIsInt (s.bankFmt cl (mxAoff v))) a (s.bRow cl v j))).1
    x.core = BitVec.ofNat 8 c ∧
    (∀ i ∈ tileRowList v t, ∀ j ∈ tileColList v t, ∀ a, s.aRow cl v i = some a →
      (accOffset v i j, BitVec.ofNat 32 (value i j a)) ∈ x.elems) ∧
    (∀ e ∈ x.elems, ∃ i ∈ tileRowList v t, ∃ j ∈ tileColList v t, ∃ a, s.aRow cl v i = some a ∧
      e = (accOffset v i j, BitVec.ofNat 32 (value i j a))) ∧
    (∀ i ∈ tileRowList v t, i < mxM v ∧ 256 * (t / mxCols v) ≤ i ∧ i < 256 * (t / mxCols v) + 256) ∧
    (∀ j ∈ tileColList v t, j < mxN v ∧ 256 * (t % mxCols v) ≤ j ∧ j < 256 * (t % mxCols v) + 256)

/-- R238, R248: a stripe of COLL begins where the last one ended, as long as the `kmax` of its beginning says, with nothing sent, and its wait
for contributions begins with it. The model's choices and readings: log 18. -/
def Parts.CollBeginsAStripe : Prop :=
  ∀ (s : State) (core : BitVec 8) (n : Nat) (r : Rec),
    let c := core.toNat
    let stripe := s.rateKmax (c / 64) (coClass r.cmd) * 512
    let goesOn (x : CollRun) : Prop :=
      exec (.coll core) s = exec (.coll core) (s.updRec c .g n fun y => { y with coll := some x })
    s.runsAsHead core .g 0x30 n r →
      (r.coll = none → r.st.mark = 0 → ∃ x, goesOn x ∧ x.stripeNo = 0 ∧ x.out = false ∧ x.since = s.beat.toNat ∧ x.error = 0 ∧
        x.base = 0 ∧ x.stripe = stripe ∧ x.closed = false ∧ x.ids = [] ∧ x.pos = []) ∧
      ∀ y, r.coll = some y → y.stripeNo ≠ r.st.mark → ∃ x, goesOn x ∧ x.stripeNo = r.st.mark ∧ x.out = false ∧ x.since = s.beat.toNat ∧
        x.error = y.error ∧ x.base = y.base + y.stripe ∧ x.stripe = stripe ∧ x.closed = y.closed ∧ x.ids = [] ∧ x.pos = y.pos

/-- R238, R248, R249, R311-R314: COLL sends a stripe's messages and performs the stripe once they have ended and what it needs has arrived,
writing the result with the last one; one that has ended in error writes nothing more, and closes once its messages have ended; a
contribution that is missing after `colltmo` beats, when all that has arrived is taken note of, ends it with error 3. The model's choices and
readings: log 18, 76. -/
def Parts.CollPerformsAStripe : Prop :=
  ∀ (s s1 u : State) (core : BitVec 8) (n : Nat) (r : Rec) (x y : CollRun) (e : BitVec 16) (area : Nat) (data : List Nat),
    let c := core.toNat
    let v := r.cmd
    let lim := (s.die (c / 64)).colltmo
    let result (i : Instr) (t : State) : Prop := exec i s = .next t
    let held (u : State) : Prop := (u.core c).job.any (fun j => j.gang && !j.joined) = true
    s.runsAsHead core .g 0x30 n r → r.coll = some x → x.stripeNo = r.st.mark →
      (x.error ≠ 0 → s.outstanding c n = false → x.closed = false →
        result (.coll core) (s.updColl c n fun z => { z with closed := true })) ∧
      (x.error ≠ 0 → s.outstanding c n = true ∨ x.closed = true → result (.coll core) s) ∧
      (x.error = 0 → s.groupEntry c v (coRank v) = .ok (e, area) → s.stripeData c v x = .ok data →
        (x.out = true ∧ s1 = s ∨ x.out = false ∧
          (s.updColl c n fun z => { z with out := true }).sendStripes c n v x data (coSends v) = .ok s1) →
        u = s1.absorb c n v area (coNeeds v) → (u.recOf c .g n).bind (·.coll) = some y →
          (y.error ≠ 0 ∨ y.missing v ≠ [] ∨ u.outstanding c n = true → result (.coll core) u) ∧
          (y.error = 0 → y.missing v = [] → u.outstanding c n = false →
            (y.base + y.stripe < coSize v → result (.coll core) (u.updRec c .g n fun z => { z with performed := true })) ∧
            (∀ o fl k ts, coSize v ≤ y.base + y.stripe → u.collResult c v area = .ok (o, fl, k) →
              u.engineTargets (u.who c) false (if o.isEmpty then [] else [(coDst v, o)]) = .ok ts →
              result (.coll core) ((u.writeTargets ts).updRec c .g n fun z =>
                { z with performed := true, pend := k, st := { z.st with fpfl := z.st.fpfl ||| fl } })))) ∧
      (u = s.collArrived c n v → (u.recOf c .g n).bind (·.coll) = some y →
        (lim ≠ 0 → y.error = 0 → y.since + lim ≤ u.beat.toNat → y.missing v ≠ [] → ¬ held u →
          result (.collTimeout core) (u.collError c n 3 ((y.missing v).headD 0))) ∧
        (lim = 0 ∨ y.error ≠ 0 ∨ u.beat.toNat < y.since + lim ∨ y.missing v = [] → result (.collTimeout core) u))

/-- R314: deciding the error of a COLL: its record keeps the error and the rank that is missing; of the result only elements whose data has
arrived may be written, each with its final value. Which of them are is free. The model's choices and readings: log 17. -/
def Parts.CollErrorsWriteFinalElements : Prop :=
  ∀ (s : State) (c n rank : Nat) (err : BitVec 3) (r : Rec) (x : CollRun), s.recOf c .g n = some r → r.coll = some x → x.error = 0 →
    let v := r.cmd
    let t := s.collError c n err rank
    let f : State := { s with fresh := s.fresh + (coOut v).1 }
    (∃ z, (t.recOf c .g n).bind (·.coll) = some z ∧ z.error = err ∧ z.lostRank = rank ∧ z.stripeNo = x.stripeNo) ∧
    (t.mem = s.mem ∨ ∃ e area u y o ws ts, f.groupEntry c v (coRank v) = .ok (e, area) ∧ u = f.absorb c n v area (coNeeds v) ∧
      (u.recOf c .g n).bind (·.coll) = some y ∧ u.collResult c v area = .ok o ∧ u.engineTargets (u.who c) false ws = .ok ts ∧
      t.mem = (u.writeTargets ts).mem ∧ ∀ w ∈ ws, ∃ j < (coOut v).1, y.ready v j = true ∧ w.1 = coDst v + j * (coOut v).2 ∧
        w.2 = (o.1.drop (j * (coOut v).2)).take (coOut v).2)

/-- R313: a reduction takes its contributions in rank order: over integers of one type it is the sum modulo 2^n, the greatest, the least,
or the bitwise result. -/
def Parts.CollReductionsOfIntegers : Prop :=
  ∀ (t mode r16 : Nat) (x : Nat) (xs : List Nat), 6 ≤ t → t ≤ 13 →
    let n := 8 * typeWidth t
    let all := x :: xs
    let red (rop : Nat) : Nat := (reduceElem rop t t mode r16 all).1
    (∀ y ∈ all, y < 2 ^ n) →
      red 0 = all.sum % 2 ^ n ∧ red 3 = all.foldl (· &&& ·) x ∧ red 4 = all.foldl (· ||| ·) x ∧
      (∀ y ∈ all, intValue t y ≤ intValue t (red 1) ∧ intValue t (red 2) ≤ intValue t y) ∧ red 1 ∈ all ∧ red 2 ∈ all

/-- R114, R116, R344, R345, R364, R365: NULL and NOTE perform at once; a jumping LINK replaces the chain; a calling one takes the next record
of its segment into its slot. -/
def Obligations.NullNoteAndLink : Prop :=
  ∀ (s : State) (core : BitVec 8) (q : RingId) (n : Nat) (r : Rec) (bs : List Nat),
    let c := core.toNat
    let ch := (s.core c).chain q
    let v := r.bytes
    (s.runsAsHead core q 0x3D n r →
      exec (.null core q) s = .next (s.updRec c q n fun x => { x with performed := true })) ∧
    (s.runsAsHead core q 0x3F n r →
      exec (.note core q) s = .next (s.updRec c q n fun x => { x with performed := true })) ∧
    (s.runsAsHead core q 0x3E n r → r.seg = none → vecField v 84 1 = 1 → exec (.link core q) s =
      .next ((s.updCore c fun k => k.setChain q { ch with addr := BitVec.ofNat 64 (vecField v 72 8), left := vecField v 80 4 }).updRec
        c q n fun x => { x with performed := true })) ∧
    (s.runsAsHead core q 0x3E n r → r.seg = none → vecField v 84 1 ≠ 1 →
      (s.engineRead (s.who c) (vecField v 72 8 + 128 * r.st.kcount) 128 = .ok bs → ∃ t x, exec (.link core q) s = .next t ∧
        t.recOf c q n = some x ∧ x.st.state = 1 ∧ x.bytes = v ∧
        x.seg = some (stampRec (BitVec.ofNat 1024 (ofBytes bs)) r.st.seq (vecField v 8 2))) ∧
      (∀ f, s.engineRead (s.who c) (vecField v 72 8 + 128 * r.st.kcount) 128 = .fault f →
        exec (.link core q) s = .next (s.faultAccess c q n f .read)))

/-- R103, R116, R345: a record of a chain or of a call whose engine was reset is fetched again before it goes on, and checked again: a
chain's from where it was fetched first, a call's from its segment at the count it has reached; its status is as it was. -/
def Parts.RecordsAreFetchedAgain : Prop :=
  ∀ (s : State) (core : BitVec 8) (q : RingId) (n : Nat) (r : Rec) (bs : List Nat) (i : Instr),
    let c := core.toNat
    let ring := (s.core c).ring q
    let from_ := if r.seg.isSome then vecField r.bytes 72 8 + 128 * r.st.kcount else (r.source.getD 0).toNat
    let again : Vec := stampRec (BitVec.ofNat 1024 (ofBytes bs)) r.st.seq (vecField r.bytes 8 2)
    let good := s.recordOk (c / 4) q again r.final r.inChain r.seg.isSome
    let after (x : Rec) : Rec := { x with
      bytes := if r.seg.isSome then x.bytes else again, seg := if r.seg.isSome then some again else none, refetch := false }
    let runs : Prop := s.engineRuns c q = true ∧ ring.ret < ring.acc ∧ ring.head = some r ∧ n = ring.ret + 1 ∧ r.st.state = 7 ∧
      r.performed = false ∧ (cmdKind r.cmd, i) ∈
        [(0x01, Instr.copy core q), (0x02, .gcopy core q), (0x03, .mcast core q), (0x3D, .null core q), (0x3E, .link core q), (0x3F, .note core q)] ++
          (if q = .k then [(0x10, .mxd core), (0x11, .mxc core), (0x12, .mxl core), (0x13, .mxr core), (0x14, .mxdrn core)] else []) ++
          if q = .g then [(0x30, .coll core)] else []
    let starts : Prop := s.engineStarts c q = true ∧ s.cursor c q = some n ∧ s.recOf c q n = some r ∧ r.st.state = 1 ∧ i = .recordFetch core q
    runs ∨ starts → r.refetch = true →
      (s.engineRead (s.who c) from_ 128 = .ok bs → good = true → exec i s = .next (s.updRec c q n after)) ∧
      (s.engineRead (s.who c) from_ 128 = .ok bs → good = false → exec i s = .next (s.faultCause c q n 0x30 0)) ∧
      (∀ f, s.engineRead (s.who c) from_ 128 = .fault f → exec i s = .next (s.faultAccess c q n f .read))

/-! ### The stages of a record, and core events -/

/-- R103, R108, R109, R120, R124, R125, R171, R174, R179, R191: an unstarted record goes from fetch to its counters, its order, the lease, a
permit and a token; `n` is the record that its queue may advance. The model's choices and readings: log 45. -/
def Parts.RecordsAdvance : Prop :=
  ∀ (s : State) (core : BitVec 8) (q : RingId) (n : Nat) (r : Rec),
    let c := core.toNat
    let v := r.cmd
    let at_ (k : Nat) : Prop := s.engineStarts c q = true ∧ s.cursor c q = some n ∧ s.recOf c q n = some r ∧ r.st.state = k
    let head : Prop := ((s.core c).ring q).ret + 1 = n
    let looked := s.readObjects (cmdWaits v)
    let next (i : Instr) (k : Nat) (p : Rec → Prop) : Prop := ∃ t x, exec i s = .next t ∧ t.recOf c q n = some x ∧ x.st.state = k ∧
      x.bytes = r.bytes ∧ x.st.mark = r.st.mark ∧ p x
    (at_ 1 → r.refetch = false → s.recordOk (c / 4) q v r.final r.inChain r.seg.isSome = true →
      next (.recordFetch core q) 2 fun x => x.derived = s.derivedEdges c q r) ∧
    (at_ 1 → r.refetch = false → s.recordOk (c / 4) q v r.final r.inChain r.seg.isSome = false →
      exec (.recordFetch core q) s = .next (s.faultCause c q n 0x30 0)) ∧
    (at_ 2 → r.recheck = none → looked.unsatisfied c (cmdWaits v) = .ok [] → next (.recordWaitsSatisfied core q) 3 fun _ => True) ∧
    (∀ e, at_ 2 → r.recheck = none → looked.unsatisfied c (cmdWaits v) = .error e →
      exec (.recordWaitsSatisfied core q) s = .next (looked.faultCause c q n e 0)) ∧
    (at_ 3 → (s.orderSatisfied c r = false ∨ r.after ≠ some 0) → exec (.recordOrderSatisfied core q) s = .next s) ∧
    (∀ h, at_ 3 → q = .k → s.orderSatisfied c r = true → isMx (cmdKind v) = true → (s.cluster (c / 4)).lease.holder = some h →
      h.toNat ≠ c % 4 → next (.recordOrderSatisfied core q) 4 fun _ => True) ∧
    (∀ h, at_ 4 → q = .k → (s.cluster (c / 4)).lease.holder = some h → h.toNat = c % 4 → head → s.heavy c v = false →
      r.needsToken = false → exec (.recordOrderSatisfied core q) s = .next (s.startRec c q n)) ∧
    (at_ 3 → s.orderSatisfied c r = true → isMx (cmdKind v) = false → head →
      (s.heavy c v = true → s.hasPermit c q = false → next (.recordOrderSatisfied core q) 5 fun x => x.asked = some s.steps) ∧
      ((s.heavy c v = false ∨ s.hasPermit c q = true) → r.needsToken = true → next (.recordOrderSatisfied core q) 6 fun _ => True) ∧
      ((s.heavy c v = false ∨ s.hasPermit c q = true) → r.needsToken = false →
        exec (.recordOrderSatisfied core q) s = .next (s.startRec c q n))) ∧
    (at_ 5 → s.firstAsking (c / 64) (max (cmdPrio v) (s.boost c)) (r.asked.getD 0) = true →
      Config.permitFits (s.die (c / 64)).permits.length = true → r.needsToken = true → ∃ t x, exec (.permitGrant core q) s = .next t ∧
        t.recOf c q n = some x ∧ x.st.state = 6 ∧ t.hasPermit c q = true ∧
          (t.die (c / 64)).permits = (s.die (c / 64)).permits ++ [(core, q)]) ∧
    (∀ agent, at_ 6 → cmdFlag v 1 = true → r.st.popd = false → ringAgent q = some agent → cmdKind v ≠ 0x03 →
      ((s.core c).tokens (4 * cmdPop v + agent)).rd < ((s.core c).tokens (4 * cmdPop v + agent)).acc →
      exec (.recordTokenPop core q) s = .next (((s.popToken c (cmdPop v) agent).updRec c q n fun x =>
        { x with st := { x.st with popd := true } }).startRec c q n)) ∧
    (∀ agent, at_ 6 → cmdFlag v 1 = true → r.st.popd = false → ringAgent q = some agent →
      ((s.core c).tokens (4 * cmdPop v + agent)).acc ≤ ((s.core c).tokens (4 * cmdPop v + agent)).rd →
      exec (.recordTokenPop core q) s = .next s)

/-- R106, R128, R175: a record that has what it needs enters state 7, unless an array check fails or, in deterministic mode, another record
of the core in state 7 meets it; a copy's chunks are fixed then. -/
def Parts.RecordsStart : Prop :=
  ∀ (s : State) (c : Nat) (q : RingId) (n : Nat) (r : Rec), s.recOf c q n = some r →
    let k := cmdKind r.cmd
    let mx := if isMx k then s.mxCheck c r.cmd else none
    (∀ e, mx = some e → s.startRec c q n = s.faultCause c q n e.1 e.2) ∧
    (∀ p m, mx = none → s.overlapping c q r = some (p, m) →
      s.startRec c q n = s.faultRecord c q n { cause := 0x34, aux0 := ringCode p * 2 ^ 30 + m % 2 ^ 30 }) ∧
    (mx = none → s.overlapping c q r = none → k ≠ 0x13 → ∃ x, (s.startRec c q n).recOf c q n = some x ∧ x.st.state = 7 ∧
      x.started = true ∧ x.st.mark = r.st.mark ∧ x.bytes = r.bytes ∧
      (isCopy k → r.plan = none → x.plan = some (s.makePlan (c / 4) r.cmd)))

/-- R106, R111-R113, R133, R345: a boundary that has been performed is marked, its count added to `kcount` but in a call, where `kcount`
counts segment records; the array's tile is committed to accumulator memory with its mark; a record whose last boundary has been performed
posts its signals, and its ring retires it. The model's choices and readings: log 48, 51. -/
def Parts.MarksAndRetirement : Prop :=
  ∀ (s : State) (core : BitVec 8) (q : RingId) (n : Nat) (r : Rec) (x : Tile),
    let c := core.toNat
    let v := r.cmd
    let cl := c / 4
    let ring := (s.core c).ring q
    let at_ : Prop := s.engineRuns c q = true ∧ ring.ret < ring.acc ∧ ring.head = some r ∧ n = ring.ret + 1 ∧ r.st.state = 7 ∧
      r.posted = false
    let u := (s.readObjects (cmdSignals v)).readObjects (cmdSignals r.bytes)
    (at_ → r.performed = true → hasOperands (cmdKind v) = false → r.st.mark + 1 < r.boundaries → ∃ t y,
      exec (.progressMark core q) s = .next t ∧ t.recOf c q n = some y ∧ y.st.mark = r.st.mark + 1 ∧ y.performed = false ∧
        y.st.kcount = (if r.seg.isSome then r.st.kcount else r.st.kcount + r.pend) ∧ y.bytes = r.bytes) ∧
    (at_ → q = .k → r.performed = true → hasOperands (cmdKind v) = true → (s.cluster cl).cells = some x → x.core = core →
      (∀ t, (s.tenant t).trmask = 0) → ∃ t y, exec (.tileCommit core) s = .next t ∧ (t.cluster cl).cells = none ∧
        t.recOf c .k n = some y ∧ y.st.mark = r.st.mark + 1 ∧ y.performed = false ∧
        t.mem = x.elems.foldl (fun m e => memWrites m (accKey cl e.1) (bytesOf 4 e.2.toNat)) s.mem ∧
        ∀ b ∈ tileBanks v r.st.mark, ((t.cluster cl).accb b).busy = false ∧
          ((t.cluster cl).accb b).ovf = min 0xFFFF (((s.cluster cl).accb b).ovf + x.counts.at b 0)) ∧
    (at_ → r.finished = true → (∀ e, u.badSignal c v = some e → exec (.recordRetire core q) s = .next (u.faultCause c q n e 0))) ∧
    (at_ → r.finished = true → u.badSignal c v = none → r.seg = none → cmdFlag v 2 = false → ∃ t y,
      exec (.recordRetire core q) s = .next t ∧ ((t.core c).ring q).ret = ring.ret + 1 ∧ ((t.core c).ring q).acc = ring.acc ∧
        t.recOf c q n = some y ∧ y.st.state = (if cmdKind v = 0x03 ∧ r.st.rmask ≠ 0 then 9 else 8) ∧ y.posted = false) ∧
    (∀ h i d, at_ → r.finished = true → cmdKind v = 0x3D → r.seg = none → cmdFlag v 2 = false → cmdSignals v = [(h, i)] →
      s.dieUp (hDie h) = true → s.reaches (c / 64) (hDie h) = true → s.object (s.tenantOf c) (s.levelOf c) h [0] = .ok (.counter d) → ∃ t,
        exec (.recordRetire core q) s = .next t ∧ (t.slot h).obj = some (.counter (min (d + i) (2 ^ 64 - 1))) ∧
          ((t.core c).ring q).ret = ring.ret + 1)

/-- R114-R116: a QLINK that waits enters its chain once the ring is empty, and the engine of a chain fetches its next record once a kick
allows it. -/
def Parts.ChainsAdvance : Prop :=
  ∀ (s : State) (core : BitVec 8) (q : RingId) (a : Word) (m : Nat) (bs : List Nat),
    let c := core.toNat
    let k := s.core c
    let ch := k.chain q
    let ring := k.ring q
    ((q = .l ∨ q = .s) → ch.link = some (a, m) → k.c.wait = .ringFull q → ring.occupancy = 0 → s.mayIssue c .c = true → ∃ t,
      exec (.chainModeEnter core q) s = .next t ∧ ((t.core c).chain q).mode = (m != 0) ∧ ((t.core c).chain q).addr = a ∧
        ((t.core c).chain q).left = m ∧ ((t.core c).chain q).link = none ∧ (t.str c .c).wait = .none ∧
        (t.str c .c).pc = { k.c.pc with after := true }) ∧
    ((q = .l ∨ q = .s) → s.engineStarts c q = true → ch.mode = true → ch.left ≠ 0 → ch.fetched < ch.kicks → ring.occupancy < 512 →
      k.chainBlocked q = false → ring.acc < 2 ^ 30 - 1 → s.engineRead (s.who c) ch.addr.toNat 128 = .ok bs → ∃ t x,
        exec (.chainFetch core q) s = .next t ∧ ((t.core c).ring q).acc = ring.acc + 1 ∧
          t.recOf c q (ring.acc + 1) = some x ∧ x.st.state = 1 ∧ x.st.seq = ring.acc + 1 ∧ x.inChain = true ∧
          x.bytes = stampRec (BitVec.ofNat 1024 (ofBytes bs)) (ring.acc + 1) (k.gen.toNat % 65536) ∧
          (t.core c).chain q = { ch with addr := ch.addr + 128, left := ch.left - 1, fetched := ch.fetched + 1 })

/-- R124, R125, R206, R212: the lease's time limits, the split of the copy engine, and the stop of a record that does not advance. The
model's choices and readings: log 44. -/
def Parts.EngineLimits : Prop :=
  ∀ (s : State) (core : BitVec 8) (cluster : BitVec 6) (q : RingId) (h : BitVec 2) (r : Rec),
    let c := core.toNat
    let cl := cluster.toNat
    let l := (s.cluster cl).lease
    let k := s.core c
    let w (x : Ring) : Nat := if x.ret ≠ x.acc ∧ x.head.any (fun y => y.st.state == 7) then x.acc - x.ret else 0
    (l.holder = some h → l.start + 65536 ≤ s.tick.toNat → exec (.leaseRunTimeout cluster) s =
      .next (s.updCluster cl fun c => { c with lease := { c.lease with ending := true } })) ∧
    (l.holder = some h → s.tick.toNat < l.start + 65536 → exec (.leaseRunTimeout cluster) s = .next s) ∧
    (l.holder = some h → (s.core (4 * cl + h.toNat)).ringK.head = some r → (r.st.state = 5 ∨ r.st.state = 6) →
      r.tick + 4096 ≤ s.tick.toNat → (∃ i < 4, i ≠ h.toNat ∧ (s.leaseRequest (4 * cl + i)).isSome = true) →
      exec (.leasePermitStall cluster) s = .next (s.passLease cl)) ∧
    (exec (.copyShareSplit core) s = .next (s.updCore c fun k => { k with
      shareL := if w k.ringL = 0 then 0 else if w k.ringS = 0 then 256
        else min 224 (max 32 (256 * w k.ringL / (w k.ringL + w k.ringS))) })) ∧
    (k.stop.isSome = true ∨ k.preempting = true → ∃ t, exec (.recordStallStop core q) s = .next t ∧
      ∀ j x, (k.ring q).slots.find j = some x → x.st.state = 7 → x.tick + 65536 ≤ s.tick.toNat → ∃ y,
        ((t.core c).ring q).slots.find j = some y ∧ y.st.state = 1 ∧ y.st.mark = x.st.mark ∧ y.performed = false)

/-- R36, R254: a job completes once its streams have ended and all four rings have retired a final NOTE: its `done` counter is posted, its
launch's instance counts as completed, the host gets its entry where asked, and the core is free. A write of the host's entry waits for a
chunk that a snapshot has still to copy (R260). The model's choices and readings: log 35, 39, 78. -/
def Parts.JobsComplete : Prop :=
  ∀ (s : State) (core : BitVec 8) (j : Job) (t : BitVec 6) (e : HostEntry) (r : List HostEntry) (u : State) (v : Nat),
    let c := core.toNat
    let k := s.core c
    let x := s.tenant t.toNat
    let n := (x.hcqtail + 1) % 2 ^ 64
    (k.job = some j → k.c.ended = true → k.a.ended = true → k.x.ended = true → k.stop = none →
      (s.progress j.tenant.toNat j.queue j.record).cancelled = false → (∀ q, (k.ring q).finished = true) → ∃ y, exec (.jobComplete core) s = .next y ∧ (y.core c).job = none ∧
        (y.core c).awaitingHost = j.hostEntry ∧
        (y.progress j.tenant.toNat j.queue j.record).completed =
          (s.progress j.tenant.toNat j.queue j.record).completed ++ [j.inst] ∧
        (y.tenant j.tenant.toNat).entries = (s.tenant j.tenant.toNat).entries ++
          (if j.hostEntry then [⟨1, 0, j.queue, j.record, j.done, k.discarded, some core⟩] else []) ∧
        (s.dieUp (hDie j.done) = true → s.reaches (c / 64) (hDie j.done) = true → j.done ≠ 0 → s.object j.tenant.toNat j.level.toNat j.done [0] = .ok (.counter v) →
          (y.slot j.done).obj = some (.counter (min (v + 1) (2 ^ 64 - 1)))) ∧
        ∀ b, ((s.cluster (c / 4)).accb b).owner.toNat = c % 4 → ((y.cluster (c / 4)).accb b).alloc = false) ∧
    (x.entries = e :: r → cfgEn x.hcqcfg = true → (x.hcqtail + 2 ^ 64 - x.hcqhead) % 2 ^ 64 ≠ 2 ^ cfgSize x.hcqcfg →
      s.writeVa (s.hwWho t.toNat) (cfgSlot x.hcqcfg 32 n) (e.bytes n s.beat.toNat) = .ok u →
      (∀ b, s.heldVa (s.hwWho t.toNat) (cfgSlot x.hcqcfg 32 n) 32 = some b → exec (.hostCompletionEntry t) s = .next (s.hurryChunk b)) ∧
      (s.heldVa (s.hwWho t.toNat) (cfgSlot x.hcqcfg 32 n) 32 = none → ∃ y, exec (.hostCompletionEntry t) s = .next y ∧ y.mem = u.mem ∧ (y.tenant t.toNat).entries = r ∧ (y.tenant t.toNat).hcqtail = n ∧
          ∀ b, e.core = some b → (y.core b.toNat).awaitingHost = false))

/-- R42, R100, R211, R217: a core whose streams have all ended or wait on queues for 65,536 cycles takes the queue-deadlock trap; the head of
stream A's address queue that faults stops the core and stays; one of the 64 table walks under way ends, and every core of the die then
finds the page, mapped or not. The model's choices and readings: log 3, 10, 69. -/
def Parts.CoreEvents : Prop :=
  ∀ (s : State) (core : BitVec 8) (die : BitVec 2) (s1 : State) (f : AccFault) (kind : AccKind) (cls n : Nat),
    let c := core.toNat
    let k := s.core c
    let onQueue (l : Lane) : Prop := (k.str l).wait.onQueue = true
    let waiting := ([k.c, k.a, k.x].filter fun t => !t.ended && t.wait.onQueue).length
    (k.job.isSome = true → k.stop = none → (∀ l, (k.str l).ended = true ∨ onQueue l) →
      k.lastChange + 65536 ≤ s.tick.toNat →
      exec (.queueDeadlockTrap core) s = .next (s.stopCore c { cause := 0x07, aux0 := waiting })) ∧
    ((∃ l, (k.str l).ended = false ∧ ¬ onQueue l) ∨ s.tick.toNat < k.lastChange + 65536 →
      exec (.queueDeadlockTrap core) s = .next s) ∧
    (k.aq ≠ [] → k.stop = none → k.resetting = none → k.job.isSome = true → s.dieUp (c / 64) = true →
      (s.drain c 33 = (s1, .fault f kind cls n) → exec (.addressQueueFault core) s = .next (s1.stopCore c
        { cause := f.cause, sub := f.sub, src := 2, addr := some f.addr, access := kind.code, cls := cls, width := n.log2,
          aux0 := (s1.core c).aq.length })) ∧
      (s.drain c 33 = (s1, .done) → exec (.addressQueueFault core) s = .next s1)) ∧
    ((s.die die.toNat).missTable ≠ [] → ∃ t m, exec (.tlbWalkComplete die) s = .next t ∧ m ∈ (s.die die.toNat).missTable.take 64 ∧
      (t.die die.toNat).missTable = (s.die die.toNat).missTable.filter (· != m) ∧ t.mem = s.mem ∧
      ((s.die die.toNat).tlb.length < 32768 → ∀ c va, c / 64 = die.toNat → va / 4096 = m.2.1 → t.tlbHit m.1 c va = true) ∧
      ∀ c l, t.str c l = s.str c l)

/-! ### Mapping and scheduling -/

/-- R98, R99: a request to the mapping registers fails with the first status that applies, or does what it asks: a map stands at once, a
change waits for its shootdown, which no command past its mark delays, and leaves every TLB without the range. The model's choices and
readings: log 6, 10. -/
def Obligations.MappingRequests : Prop :=
  ∀ (s : State) (die : BitVec 2) (r : Request), (s.die die.toNat).mapReq = some r →
    let d := die.toNat
    let op := mapOp r.value
    let n := mapSize r.value
    let t := mapTenant r.value
    let va := r.args.headD 0
    let v := r.value
    let begun : Prop := r.args.length = 3
    let start (i : Instr) : Prop := exec i s =
      .next (s.updDie d fun x => { x with mapReq := some { r with args := r.args ++ [1] } })
    let fails (i : Instr) : Prop := ∀ e, s.mapCheck r = some e → exec i s = .next (s.updDie d fun x => { x with mapReq := none, mapst := e })
    (op = 1 → ¬begun → fails (.map die) ∧ (s.mapCheck r = none → ∃ u, exec (.map die) s = .next u ∧ (u.die d).mapReq = none ∧
      (u.die d).mapst = 0 ∧ u.mem = s.mem ∧ (∀ i, i ≠ t → u.tenant i = s.tenant i) ∧ ∀ m, m ∈ (u.tenant t).maps ↔
        m ∈ (s.tenant t).maps ∨ m = ⟨va, (r.args.drop 1).headD 0, n, v.getLsbD 11, v.getLsbD 10, v.getLsbD 9⟩)) ∧
    (op = 2 → ¬begun → fails (.unmap die) ∧ (s.mapCheck r = none → start (.unmap die))) ∧
    (op = 3 → ¬begun → fails (.changePermissions die) ∧ (s.mapCheck r = none → start (.changePermissions die))) ∧
    (op = 2 ∨ op = 3 → begun → s.midChunk t = true → exec (.mapShootdownDone die) s = .next s) ∧
    (op = 2 ∨ op = 3 → begun → s.midChunk t = false → ∃ u, exec (.mapShootdownDone die) s = .next u ∧ (u.die d).mapReq = none ∧
      (u.die d).mapst = 0 ∧ u.mem = s.mem ∧
      (op = 2 → ∀ m, m ∈ (u.tenant t).maps ↔ m ∈ (s.tenant t).maps ∧ m.va ≠ va) ∧
      (op = 3 → ∀ m ∈ (u.tenant t).maps, m.va = va → (m.u, m.x, m.w) = (v.getLsbD 11, v.getLsbD 10, v.getLsbD 9)) ∧
      ∀ c p, (t, p) ∈ (u.core c).tlb → overlaps (p * 4096) 4096 va n = false)

/-- R34, R38, R197-R201: a launch record with a reserved bit fails with code 1; one whose pairs are not satisfied waits; one that cannot be
read fails with the code of its step; else an instance starts on the core it may have, every stream at its entry lane. A record that has had
an instance placed is no longer held by its pairs. The model's choices and readings: log 29, 31, 82. -/
def Parts.LaunchesPlaceJobs : Prop :=
  ∀ (s : State) (tenant : BitVec 6) (queue : BitVec 3) (record : BitVec 32) (b : List Nat) (x : Launch) (inst c : Nat),
    let t := tenant.toNat
    let q := queue.toNat
    let n := record.toNat
    let i : Instr := .launchPlace tenant queue record
    let u := s.noteReady
    let w := u.adopt t q n x
    let ready := s.pairsReady t (s.launchLevel t q) (lrPairs b)
    let still : Prop := (s.progress t q n).placed ≠ [] ∨ ready = some true
    let at_ (p : Pc) : StreamState := { startStream p with since := s.tick.toNat }
    n ∈ ((s.tenant t).lq q).considered → s.launchBytes t q n = .ok b →
    (lrBad b = true → exec i s = .next (s.failLaunch t q n 1 b)) ∧
    (lrBad b = false → ¬ still → ready = none → exec i s = .next (s.failLaunch t q n 9 b)) ∧
    (lrBad b = false → ¬ still → ready = some false → exec i s = .next s) ∧
    (∀ e, lrBad b = false → still → u.readLaunch t q n b = .error e → exec i s = .next (u.failLaunch t q n e b)) ∧
    (lrBad b = false → still → u.readLaunch t q n b = .ok x → w.nextInst t q n x = some (inst, c) →
      w.chosen c (w.launchCand t q n x.bytes) = true → w.ringInUse c x = false → w.keptCtx t x inst = none → ∃ y,
        exec i s = .next y ∧ (y.core c).job.map (fun j => { j with banksDue := [] }) = some (w.instJob t q n inst x) ∧
          (y.core c).stop = none ∧ inst ∈ (y.progress t q n).placed ∧ y.str c .c = at_ (x.starts.getD 0 Pc.zero) ∧
          y.str c .a = at_ (x.starts.getD 1 Pc.zero) ∧ y.str c .x = at_ (x.starts.getD 2 Pc.zero))

/-- R58, R84, R86, R88: a job that starts takes its home group under its tenant's tag; an entry of its image's bank table gives a bank of the
tenant its format at once, and its mode as BANKM does: at once where the bank is idle, else when it is, behind the changes of cores that
came before, and until then no stream of the job issues; an entry for a bank of another tenant is skipped. -/
def Parts.LaunchesSetBanks : Prop :=
  ∀ (s : State) (c : Nat) (j : Job) (x : Launch) (b f : Nat) (m : BitVec 2),
    let cl := c / 4
    let y := s.startJob c j x
    let before := (s.cluster cl).bank b
    let after := (y.cluster cl).bank b
    let home : Prop := 16 * (c % 4) ≤ b ∧ b < 16 * (c % 4) + 16
    let due (l : List (Nat × Nat)) : Prop := (y.core c).job = some { j with banksDue := l }
    b < 64 →
      (home → after.tenant = j.tenant) ∧
      (x.banks = [(b, m.toNat, f)] → before.tenant ≠ j.tenant → ¬ home → after = before ∧ due []) ∧
      (x.banks = [(b, m.toNat, f)] → before.tenant = j.tenant → before.pend ≠ none → before.line.contains (c % 4) = false →
        after = { before with fmt := BitVec.ofNat 4 f, line := before.line ++ [c % 4] } ∧ due [(b, m.toNat)] ∧
          ∀ l, y.mayIssue c l = false) ∧
      (x.banks = [(b, m.toNat, f)] → before.tenant = j.tenant → before.pend = none → before.line = [] →
        (before.mode = m → after = { before with fmt := BitVec.ofNat 4 f } ∧ due []) ∧
        (before.mode ≠ m → (before.mode = 3 → before.head = before.tail ∧ before.rd = before.head) →
          after = { before with mode := m, fmt := BitVec.ofNat 4 f, head := 0, tail := 0, rd := 0, consumer := none } ∧ due []) ∧
        (before.mode ≠ m → before.mode = 3 → (before.head ≠ before.tail ∨ before.rd ≠ before.head) →
          after = { before with pend := some m, fmt := BitVec.ofNat 4 f, line := [c % 4] } ∧ due [(b, m.toNat)] ∧
            ∀ l, y.mayIssue c l = false))

/-- R169, R202, R203, R219, R220, R267, R335, R363: a pre-empted core stops starting records and advances its generation, and a PAUSE, an IDLE
and a FENCESC end; at its command boundary the whole context is saved, but for the audits of its records, and the core freed; a restored
one has its streams and rings as they were, with nothing buffered. The model's choices and readings: log 19, 53. -/
def Parts.PreemptionAndRestore : Prop :=
  ∀ (s : State) (core : BitVec 8) (id : Nat) (j : Job) (x : Saved),
    let c := core.toNat
    let k := s.core c
    (s.preemptable c = true → (s.wanted c = true ∨ s.gangCancelled c = true) → ∃ t, exec (.preempt core) s = .next t ∧
      (t.core c).preempting = true ∧ (t.core c).gen = k.gen + 1 ∧
      (∀ l ≠ .x, ((∃ n, (k.str l).wait = .pause n ∨ (k.str l).wait = .idle n) ∨ ∃ n a b, (k.str l).wait = .fencesc n a b) →
        t.str c l = { k.str l with wait := .none }) ∧
      ∀ q i y, ((t.core c).ring q).slots.find i = some y → y.st.state = 1 ∨ 7 ≤ y.st.state) ∧
    (s.preemptable c = false → exec (.preempt core) s = .next s) ∧
    (k.job = some j → k.preempting = true → s.atBoundary c = true → s.gangCancelled c = false → ∃ t y,
      exec (.preemptSave core) s = .next t ∧ (t.core c).job = none ∧ t.mod.saved = s.mod.saved ++ [y] ∧ y.core = core ∧
        y.ctx.job = some j ∧ (∀ l : Lane, (y.ctx.str l).s = (k.str l).s ∧ (y.ctx.str l).a = (k.str l).a ∧
          (y.ctx.str l).v = (k.str l).v ∧ (y.ctx.str l).k = (k.str l).k ∧ (y.ctx.str l).p = (k.str l).p ∧
          (y.ctx.str l).pc = (k.str l).pc) ∧
        ∀ q, (y.ctx.ring q).acc = (k.ring q).acc ∧ (y.ctx.ring q).ret = (k.ring q).ret ∧ ∀ i r, (k.ring q).slots.find i = some r →
          (y.ctx.ring q).slots.find i = some (if q = .g then r else { r with audited := false })) ∧
    (k.job = some j → k.preempting = true → s.atBoundary c = false → exec (.preemptSave core) s = .next s) ∧
    (s.mod.saved.find? (·.id == id) = some x → x.ctx.job = some j → s.freeCore c = true → c ∈ s.savedCores x → s.fits x c = true →
      s.chosen c (s.savedCand x) = true → x.ctx.heldResolution = none → x.ctx.halt = none → ∃ t, exec (.restore id core) s = .next t ∧
        (t.core c).job.map (fun y => { y with banksDue := [] }) =
          some { j with placed := s.steps, start := s.beat.toNat, banksDue := [] } ∧
        (∀ l, (l ≠ .c ∨ ∀ b, x.ctx.c.wait ≠ .bank b) → t.str c l = { x.ctx.str l with ibuf := [], since := s.tick.toNat }) ∧
        (t.core c).watch = (x.ctx.watch.map fun w => if w.armed = true ∧ w.latch = none then { w with latch := some 2 } else w) ∧
        (∀ q, (t.core c).ring q = x.ctx.ring q) ∧ (t.core c).stop = x.ctx.stop ∧ ∀ y ∈ t.mod.saved, y.id ≠ id)

/-- R207, R208: the gate of a gang's slice opens at the later of `gang_beat` and the placement of its last member, if that is not later than
`gang_grace` allows; a slice that was not placed by then, or failed, or whose gang another member has cancelled, is cancelled, and its
instances end. The model's choices and readings: log 33. -/
def Parts.GangGates : Prop :=
  ∀ (s : State) (tenant : BitVec 6) (queue : BitVec 3) (record : BitVec 32) (b : List Nat),
    let t := tenant.toNat
    let q := queue.toNat
    let n := record.toNat
    let p := s.progress t q n
    let limit := lrGangBeat b + s.mod.gangGrace.toNat
    let inTime : Prop := p.fail = 0 ∧ ∃ f, p.full = some f ∧ f ≤ limit
    let told : Prop := (t, lrGangId b) ∈ s.mod.cancelled
    s.gangRecord t q n = some b →
    (inTime → p.gate = false → lrGangBeat b ≤ s.beat.toNat → ¬ told → ∃ u,
      exec (.gangGateOpen tenant queue record) s = .next u ∧ (u.progress t q n).gate = true ∧
        ∀ c ∈ s.sliceCores t q n, (u.core c).job = (s.core c).job.map fun j => { j with gateOpen := true }) ∧
    (¬ inTime ∨ told ∨ p.gate = true ∨ s.beat.toNat < lrGangBeat b → exec (.gangGateOpen tenant queue record) s = .next s) ∧
    (¬ inTime ∧ limit ≤ s.beat.toNat ∨ told → p.gate = false → ∃ u,
      exec (.gangCancel tenant queue record) s = .next u ∧ (u.progress t q n).cancelled = true ∧ (t, lrGangId b) ∉ u.mod.cancelled ∧
        ∀ c ∈ s.sliceCores t q n, (u.core c).job = none) ∧
    (¬ told ∧ (inTime ∨ s.beat.toNat < limit) ∨ p.gate = true → exec (.gangCancel tenant queue record) s = .next s)

/-- R213, R215, R260: the oldest frame of a tenant is copied to the slot at its tail, and the tail advances; a full or disabled queue keeps
it, and so does a chunk that a snapshot has still to copy, which comes next. A frame is 256 bytes. The model's choices and readings: log 6,
35. -/
def Obligations.FaultFramesReachTheirQueue : Prop :=
  ∀ (s : State) (tenant : BitVec 6) (f : Frame) (r : List Frame),
    let t := tenant.toNat
    let x := s.tenant t
    f.bytes.length = 256 ∧
    (x.outbox = f :: r → (cfgEn x.fqcfg = false ∨ 2 ^ cfgSize x.fqcfg ≤ (x.fqtail + 2 ^ 32 - x.fqhead) % 2 ^ 32) →
      exec (.faultQueueCopy tenant) s = .next s) ∧
    (∀ w, x.outbox = f :: r → cfgEn x.fqcfg = true → (x.fqtail + 2 ^ 32 - x.fqhead) % 2 ^ 32 < 2 ^ cfgSize x.fqcfg →
      s.writeVa (s.hwWho t) (cfgSlot x.fqcfg 256 x.fqtail) f.bytes = .ok w →
      (∀ k, s.heldVa (s.hwWho t) (cfgSlot x.fqcfg 256 x.fqtail) 256 = some k → exec (.faultQueueCopy tenant) s = .next (s.hurryChunk k)) ∧
      (s.heldVa (s.hwWho t) (cfgSlot x.fqcfg 256 x.fqtail) 256 = none → ∃ u, exec (.faultQueueCopy tenant) s = .next u ∧
        u.mem = w.mem ∧ (u.tenant t).outbox = r ∧ (u.tenant t).fqtail = (x.fqtail + 1) % 2 ^ 32))

/-! ### Markhor -/

/-- R46, R223-R226: an alarm drains its engine, or, the third within 40,000 beats or of an X stream in a `nonrestart` level, resets its
core; a scrub, which rolls nothing back, waits for an idle moment or, a period late, for a mark; the window of drain, hold and reload ends
with the engine watched again and X at its mark. The model's choices and readings: log 37, 81. -/
def Parts.EngineResets : Prop :=
  ∀ (s : State) (e : EngineId),
    let x := s.sup e
    let up := s.dieUp (engineDie e)
    let recent := x.history.filter fun b => s.beat.toNat < b + 40000
    let drains (i : Instr) (k : Nat) : Prop := ∃ t, exec i s = .next t ∧ (t.sup e).state = 1 ∧ (t.sup e).trigger = k ∧
      (t.sup e).since = s.tick.toNat ∧ t.mem = s.mem
    let alarms (i : Instr) (k : Nat) : Prop :=
      (x.state = 0 → up = true → s.xNonrestart e = false → recent.length < 2 → drains i k) ∧
      (∀ c, x.state = 0 → up = true → (s.xNonrestart e = true ∨ 2 ≤ recent.length) → s.engineCore? e = some c → ∃ t, exec i s = .next t ∧
        (t.sup e).state = 4 ∧ (t.sup e).core = some c ∧ (t.core c).resetting.isSome = true) ∧
      (x.state ≠ 0 → exec i s = .next s)
    alarms (.parityAlarm e) 2 ∧ alarms (.protocolAlarm e) 3 ∧
    (s.noProgress e = true → alarms (.watchdogAlarm e) 1) ∧
    (s.noProgress e = false → ∃ t, exec (.watchdogAlarm e) s = .next t ∧ t.mem = s.mem ∧ t.sup e = x ∧ t.tenants = s.tenants) ∧
    (x.state = 0 → up = true →
      (s.engineIdle e = true ∨ x.lastScrub + s.scrubBeats e ≤ s.beat.toNat ∧ s.pastMark e = true) → drains (.scrubResetDue e) 4) ∧
    (x.state = 0 → up = true → s.engineIdle e = false → (s.beat.toNat < x.lastScrub + s.scrubBeats e ∨ s.pastMark e = false) →
      exec (.scrubResetDue e) s = .next s) ∧
    (x.state = 1 → ∃ t, exec (.markhorDrainDone e) s = .next t ∧ (t.sup e).state = 2 ∧ (t.sup e).since = s.tick.toNat) ∧
    (x.state = 2 → s.tick.toNat < x.since + 32 → exec (.markhorHoldExpire e) s = .next s) ∧
    (x.state = 2 → x.since + 32 ≤ s.tick.toNat → ∃ t, exec (.markhorHoldExpire e) s = .next t ∧ (t.sup e).state = 3 ∧
      (t.sup e).lost = s.engineLost e x.tick ∧ ∀ c q r, (c, q, r) ∈ t.heldBy e → r.posted = true ∨ r.performed = false) ∧
    (∀ b, x.state = 3 → (b = true ∨ x.wasIdle = true) → ∃ t, exec (.markhorReload e b) s = .next t ∧ (t.sup e).state = 0 ∧
      (t.sup e).history = recent ++ [s.beat.toNat] ∧ ∀ k m, e = .vec k → s.xBusy k.toNat = true → x.wasIdle = false →
        (s.core k.toNat).x.mark = some m → (t.str k.toNat .x).pc = m.pc ∧ (t.str k.toNat .x).v = m.v ∧ (t.str k.toNat .x).wait = .none) ∧
    (∀ c, x.state = 3 → x.wasIdle = false → s.engineCore? e = some c → ∃ t, exec (.markhorReload e false) s = .next t ∧
      (t.sup e).state = 4 ∧ (t.core c).resetting.isSome = true)

/-- R45, R46, R224, R229: a core reset takes every stream back to its mark, or ends a job that is inside a `nonrestart` level; the third
within 400,000 beats, or one whose marks cannot be read, ends the job and takes the core out of placement. The model's choices and readings:
log 20, 37. -/
def Parts.CoreResets : Prop :=
  ∀ (s : State) (core : BitVec 8) (x : Resetting) (readable : Bool),
    let c := core.toNat
    let k := s.core c
    let recent := k.resets.filter fun b => s.beat.toNat < b + 400000
    k.resetting = some x → s.dieUp (dieOf c) = true → k.offline = false →
    (readable = true → recent.length < 2 → k.nonrestart .c = false → k.nonrestart .a = false → k.nonrestart .x = false → ∃ t,
      exec (.coreResetComplete core readable) s = .next t ∧ (t.core c).resetting = none ∧ (t.core c).offline = false ∧
        (t.core c).resets = recent ++ [s.beat.toNat] ∧ (t.core c).job = k.job ∧
        ∀ l m, (k.str l).mark = some m → (t.str c l).pc = m.pc ∧ (t.str c l).s = m.s ∧ (t.str c l).a = m.a ∧ (t.str c l).p = m.p ∧
          (t.str c l).loops = m.loops ∧ (t.str c l).wait = .none) ∧
    (readable = true → recent.length < 2 → (k.nonrestart .c = true ∨ k.nonrestart .a = true ∨ k.nonrestart .x = true) → ∃ t,
      exec (.coreResetComplete core readable) s = .next t ∧ (t.core c).resetting = none ∧ (t.core c).offline = false ∧
        (t.core c).job = none) ∧
    (readable = false ∨ 2 ≤ recent.length → ∃ t, exec (.coreResetComplete core readable) s = .next t ∧ (t.core c).offline = true ∧
      (t.core c).job = none ∧ (t.core c).resetting = none)

/-- R230, R234: each request of `mkctl` begins, or performs, what its operation says. The model's choices and readings: log 37. -/
def Parts.ResetRequests : Prop :=
  ∀ (s : State) (die : BitVec 2) (r : Request),
    let d := die.toNat
    let e := mkEngine r.value
    let c := mkCore r.value
    let u := mkTenant r.value
    (s.mkRequest d 1 = some r → (s.sup e).state = 0 → s.dieUp (engineDie e) = true → s.xNonrestart e = false → ∃ t,
      exec (.mkctlEngineReset die) s = .next t ∧ (t.die d).mkReq = none ∧ (t.sup e).state = 1 ∧ (t.sup e).trigger = 6 ∧
        (t.sup e).reporter = some d) ∧
    (∀ x, s.mkRequest d 1 = some r → (s.sup e).state = 0 → s.dieUp (engineDie e) = true → s.xNonrestart e = true →
      s.engineCore? e = some x → ∃ t, exec (.mkctlEngineReset die) s = .next t ∧ (t.die d).mkReq = none ∧ (t.sup e).state = 4 ∧
        (t.core x).resetting.isSome = true) ∧
    (s.mkRequest d 2 = some r → (s.core c).resetting = none → s.dieUp (dieOf c) = true → ∃ t,
      exec (.mkctlCoreReset die) s = .next t ∧ (t.die d).mkReq = none ∧ (t.core c).resetting = some ⟨6, some d, s.beat.toNat, s.tick.toNat⟩) ∧
    (s.mkRequest d 4 = some r → ∃ t, exec (.mkctlTenantReset die) s = .next t ∧ (t.die d).mkReq = none ∧ (t.die d).mkst = 0 ∧
      (∀ i j, (t.core i).job = some j → j.tenant.toNat ≠ u) ∧
      (∀ i n x, (t.die i).tahr.find n = some x → x.obj.isSome = true → x.tenant.toNat ≠ u) ∧
      (∀ y ∈ t.mod.saved, ∀ j, y.ctx.job = some j → j.tenant.toNat ≠ u)) ∧
    (s.mkRequest d 5 = some r → exec (.mkctlModuleReset die) s = exec (.powerOnBoot ⟨0, 0⟩) s)

/-- R231-R233: a warm reset ends the jobs of its die, and takes it through its phases, its fabric ports down when the first has ended and up
when the fourth has; the Tahr store and DRAM keep what they hold, cores and
on-die memory do not. The model's choices and readings: log 12, 37. -/
def Parts.WarmResetPhases : Prop :=
  ∀ (s : State) (die : BitVec 2) (r : Request),
    let d := die.toNat
    let v := mkDie r.value
    let phase (n : Nat) : Prop := s.present d = true ∧ (s.die d).phase = n
    (s.mkRequest d 3 = some r → s.dieUp v = true → ∃ t, exec (.mkctlDieWarmReset die) s = .next t ∧ (t.die v).phase = 1 ∧
      t.dieUp v = false ∧ (∀ c ∈ dieCores v, (t.core c).job = none) ∧ t.mod.portsUp = s.mod.portsUp) ∧
    (s.mkRequest d 3 = some r → s.dieUp v = false → exec (.mkctlDieWarmReset die) s = .next s) ∧
    (phase 1 → ∃ t, exec (.dieQuiesceDone die) s = .next t ∧ (t.die d).phase = 2 ∧ t.mem = s.mem ∧
      ∀ p < 8, t.mod.portsUp.getLsbD (8 * d + p) = false) ∧
    (phase 2 → ∃ t, exec (.dieWritebackDone die) s = .next t ∧ (t.die d).phase = 3 ∧ (t.die d).tahr = (s.die d).tahr ∧
      (t.die d).edges = (s.die d).edges ∧ (t.die d).objReq = (s.die d).objReq ∧ (∀ c ∈ dieCores d, t.core c = { CoreState.reset with
        offline := (s.core c).offline, resets := (s.core c).resets }) ∧
      (∀ a < 0xE000000000000, memRead t.mem a = memRead s.mem a) ∧
      ∀ cl ∈ dieClusters d, t.cluster cl = ClusterState.reset ∧
        ∀ a < 2 ^ 21, memRead t.mem (sramKey cl a) = 0 ∧ memRead t.mem (accKey cl a) = 0) ∧
    (phase 3 → exec (.dieResetDone die) s = .next (s.updDie d fun k => { k with phase := 4 })) ∧
    (phase 4 → ∃ t, exec (.dieRetrainDone die) s = .next t ∧ (t.die d).phase = 5 ∧ t.mem = s.mem ∧
      ∀ p < 8, t.mod.portsUp.getLsbD (8 * d + p) = true) ∧
    (phase 5 → ∃ t, exec (.dieReadmit die) s = .next t ∧ t.dieUp d = true ∧ (t.die d).touched = [] ∧ t.mem = s.mem ∧
      t.mod.portsUp = s.mod.portsUp)

/-- R255-R257: a boot clears what no flash keeps and runs its steps in order; a module that it does not halt starts its firmware as the last
step. With no failure every step passes and the firmware is that of the blob; a bad blob in slot A is replaced by slot B's; a failing die is
excluded, and the loss of dies 0 and 1 halts the module before the others are brought up; a step that hangs stays marked started, and the
next boot takes its alternative. The model's choices and readings: log 4, 7, 12. -/
def Parts.BootOutcomes : Prop :=
  ∀ s : State,
    let blank (a : State) : Prop := a.mem = [] ∧ a.cores = [] ∧ a.tenants = []
    let boots (f : BootFaults) (t : State) : Prop := exec (.powerOnBoot f) s = .next t ∧ t.tick = 0 ∧ t.beat = 0 ∧
      t.mod.flashA = s.mod.flashA ∧ t.mod.flashB = s.mod.flashB ∧ (t.mod.halted = true → blank t) ∧
      (t.mod.halted = false → ∃ a, blank a ∧ t.mem = (a.runFirmware t.mod.firmware).mem ∧
        t.cores = (a.runFirmware t.mod.firmware).cores ∧ t.tenants = (a.runFirmware t.mod.firmware).tenants)
    let cleared : Prop := (blobBody s.mod.flashA).isSome = true ∧ s.mod.bootClear = true
    (cleared → ∃ t, boots ⟨0, 0⟩ t ∧ t.mod.halted = false ∧ t.mod.bootCount = s.mod.bootCount + 1 ∧ (∀ i < 9, t.mod.step i = 2) ∧
      (∀ d < 4, t.present d = true) ∧ blobBody s.mod.flashA = some t.mod.blob ∧ t.mod.firmware = t.mod.blob) ∧
    (blobBody s.mod.flashA = none → (blobBody s.mod.flashB).isSome = true → s.mod.bootClear = true → ∃ t, boots ⟨0, 0⟩ t ∧
      t.mod.halted = false ∧ t.mod.bootByte 0 = 7 ∧ blobBody s.mod.flashB = some t.mod.blob) ∧
    (blobBody s.mod.flashA = none → blobBody s.mod.flashB = none → s.mod.bootClear = true → ∃ t, boots ⟨0, 0⟩ t ∧ t.mod.halted = true ∧
      t.mod.step 0 = 3) ∧
    (cleared → ∃ t, boots ⟨2, 0⟩ t ∧ t.mod.halted = true ∧ t.mod.step 1 = 3) ∧
    (∀ x : BitVec 4, cleared → ∃ t, boots ⟨x.setWidth 9 <<< 2, 0⟩ t ∧ t.mod.halted = (x.getLsbD 0 && x.getLsbD 1) ∧
      ∀ d < 4, (d < 2 ∨ t.mod.halted = false) → t.present d = !x.getLsbD d ∧ t.mod.bootByte (2 + d) = if x.getLsbD d then 7 else 2) ∧
    (∀ i < 9, cleared → ∃ t, boots ⟨0, BitVec.ofNat 9 (2 ^ i)⟩ t ∧ t.mod.halted = true ∧ t.mod.step i = 1 ∧ ∀ j < i, t.mod.step j = 2) ∧
    (∀ d < 4, (blobBody s.mod.flashA).isSome = true → s.mod.bootClear = false → (∀ i < 9, s.mod.step i = if i = 2 + d then 1 else 2) →
      ∃ t, boots ⟨0, 0⟩ t ∧ t.mod.halted = false ∧ t.present d = false ∧ t.mod.bootByte (2 + d) = 7)

/-- R256, R424: the firmware, where it can be written and read as an image, runs as a job of tenant 0 at level M on the first core of its
module, every stream at its entry lane; its pages are mapped for tenant 0. What a blob holds of it is not laid out: log 12. -/
def Parts.FirmwareRuns : Prop :=
  ∀ (s u : State) (body : List Byte) (c : Nat) (r d : List Nat) (x : Launch),
    let f := Config.firmware body
    let m := (s.updMod fun m => { m with firmware := body }).updTenant 0 fun x =>
      { x with maps := f.pages.map fun p => ⟨p.1, p.2, 4096, true, true, true⟩ }
    let at_ (p : Pc) : StreamState := { startStream p with since := u.tick.toNat }
    m.maskCores (BitVec.allOnes 256) = c :: r → m.writeVa (m.hwWho 0) f.image (f.bytes.map (·.toNat)) = .ok u →
    u.readVa (u.hwWho 0) f.image 64 = .ok d → u.readImage 0 noQueue 0 (firmwareRecord f) d (List.replicate 32 255) = .ok x →
      ∃ j, ((s.runFirmware body).core c).job = some j ∧ j.tenant = 0 ∧ j.level = 2 ∧
        (s.runFirmware body).str c .c = at_ (x.starts.getD 0 Pc.zero) ∧ (s.runFirmware body).str c .a = at_ (x.starts.getD 1 Pc.zero) ∧
        (s.runFirmware body).str c .x = at_ (x.starts.getD 2 Pc.zero)

/-! ### The fabric -/

/-- R235, R236: the 32 bytes of a header say each of its fields. -/
def Parts.HeadersRoundTrip : Prop :=
  ∀ h : Hdr, h.type < 256 → h.index < 256 → h.k < 256 → h.m < 256 → h.cls < 256 → h.tenant < 256 → h.len < 65536 → h.path < 256 →
    h.hops < 256 → h.va < 2 ^ 64 → hdrOf h.pack = h

/-- R235, R236, R239, R240, R242, R245: a bad fragment is counted; one whose entry is not local goes on by the choice its path names, with
a hop more, or is counted where no choice is usable or it has made 63 hops; one that stays is counted where its key is wrong; the first one of
a message opens its context and is held, or, where the destination does not translate, abandons the message; a message of one fragment
completes with it. The model's choices and readings: log 18. -/
def Parts.FragmentsArrive : Prop :=
  ∀ (s : State) (die : BitVec 2) (f : Fragment),
    let d := die.toNat
    let h := hdrOf f.hdr
    let u := s.delivered f
    let sound : Prop := s.dieUp d = true ∧ fragBad f = false
    let here : Prop := sound ∧ s.routeLocal d h.dst = true ∧ s.msgHeld d h = none
    let keyed : Prop := u.tenantKey d h.tenant ≠ 0 ∧ h.pkey = u.tenantKey d h.tenant
    let first : Prop := (u.die d).late_ h.src h.msgid = false ∧ u.ctx d h.src h.msgid = none ∧ (u.die d).ctxs.length < 1024
    let opened (v : State) : State := v.updDie d fun x => x.seen h.src h.msgid
    let data : Instr := .fragmentDataReceive die f
    let par : Instr := .fragmentParityReceive die f
    let bad (i : Instr) : Prop := s.dieUp d = true → fragBad f = true → exec i s =
      .next (u.updDie d fun x => { x with fcrcerr := min (x.fcrcerr + 1) 0xFFFFFFFF })
    let drop (i : Instr) : Prop := here → ¬keyed → exec i s =
      .next (u.updDie d fun x => { x with fkeydrop := min (x.fkeydrop + 1) 0xFFFFFFFF })
    let onward (i : Instr) : Prop := sound → s.routeLocal d h.dst = false →
      (u.usable d h.dst = [] ∨ 63 ≤ h.hops → exec i s = .next (u.updDie d fun x => { x with fcrcerr := min (x.fcrcerr + 1) 0xFFFFFFFF })) ∧
      (∀ c p w, h.hops < 63 → ((u.usable d h.dst).find? fun x => h.path ≤ x.1) = some (c, p, w) → exec i s =
        .next (u.queueOn d p { f with hdr := { h with hops := h.hops + 1 }.pack })) ∧
      (∀ c p w r, h.hops < 63 → ((u.usable d h.dst).find? fun x => h.path ≤ x.1) = none → u.usable d h.dst = (c, p, w) :: r → exec i s =
        .next (u.queueOn d p { f with hdr := { h with hops := h.hops + 1 }.pack }))
    let astray (i : Instr) : Prop := ∀ v, here → keyed → first → u.openCtx d f = some v → ((opened v).msgTargets d h) = none →
      ∃ t, exec i s = .next t ∧ t.ctx d h.src h.msgid = none ∧ (h.src.toNat, h.msgid.toNat) ∈ (t.die d).past ∧ t.mem = s.mem
    bad data ∧ bad par ∧ bad (.ackReceive die f) ∧ bad (.nackReceive die f) ∧ bad (.lossReceive die f) ∧ bad (.gangCancelReceive die f) ∧
    (h.type = 1 → drop data ∧ onward data ∧ astray data) ∧ (h.type = 2 → drop par ∧ onward par ∧ astray par) ∧
    (h.type = 3 → onward (.ackReceive die f)) ∧ (h.type = 4 → onward (.nackReceive die f)) ∧ (h.type = 5 → onward (.lossReceive die f)) ∧
    (h.type = 6 → h.dst ≠ 0xFFFF → onward (.gangCancelReceive die f)) ∧
    (∀ v w, here → keyed → first → h.type = 1 → 1 < h.k → u.openCtx d f = some v → ((opened v).msgTargets d h).isSome = true →
      (opened v).writeMsg d h h.index (fragBytes f) = some w → ∃ t c, exec data s = .next t ∧
        t.ctx d h.src h.msgid = some c ∧ c.data.find h.index = some (fragBytes f) ∧ c.hdr = f.hdr ∧ c.opened = s.beat.toNat ∧
        t.mem = w.mem) ∧
    (∀ v w, here → keyed → first → h.type = 1 → h.k = 1 → h.ordered = false → u.openCtx d f = some v →
      ((opened v).msgTargets d h).isSome = true → (opened v).writeMsg d h h.index (fragBytes f) = some w → ∃ t, exec data s = .next t ∧
        t.ctx d h.src h.msgid = none ∧ (h.src.toNat, h.msgid.toNat) ∈ (t.die d).past ∧
        (∃ tag, (t.die d).arrivals = (w.die d).arrivals ++ [(h.tenant, h.va, h.len, tag)]) ∧ t.mem = w.mem) ∧
    (∀ v, here → keyed → first → h.type = 2 → 1 < h.k → (u.die d).poolUsed < 16384 → u.openCtx d f = some v →
      ((opened v).msgTargets d h).isSome = true → ∃ t c, exec par s = .next t ∧
        t.ctx d h.src h.msgid = some c ∧ c.parity.find h.index = some (fragBytes f) ∧ t.mem = s.mem)

/-- R242, R245, R246, R260: a reply that names a kept message ends it, sends it once more where its tenant may still send, or reports it
lost; one from the sender abandons it at its receiver; any other is counted. The model's choices and readings: log 33. -/
def Parts.RepliesEndMessages : Prop :=
  ∀ (s : State) (die : BitVec 2) (f : Fragment) (x : SentMsg),
    let d := die.toNat
    let h := hdrOf f.hdr
    let u := s.delivered f
    let here : Prop := s.dieUp d = true ∧ fragBad f = false ∧ s.routeLocal d h.dst = true
    let kept := (u.die d).kept.find? fun x => x.dst == h.src && x.msgid == h.msgid && x.pkey == h.pkey
    let none_ (i : Instr) : Prop := here → kept = none → exec i s =
      .next (u.updDie d fun x => { x with fkeydrop := min (x.fkeydrop + 1) 0xFFFFFFFF })
    (h.type = 3 → none_ (.ackReceive die f)) ∧ (h.type = 4 → none_ (.nackReceive die f)) ∧
    (h.type = 5 → h.index = 0 → none_ (.lossReceive die f)) ∧
    (here → h.type = 3 → kept = some x → ∃ t, exec (.ackReceive die f) s = .next t ∧
      (∀ y, y ∈ (t.die d).kept ↔ y ∈ (u.die d).kept ∧ y ≠ x) ∧
      ∀ p, x.origin = none → s.mod.heldWrites = [] → s.mod.snap = some p → p.awaiting.any (·.1 == x.msgid) = true → t.mod.snap = some (p.arrived x.msgid)) ∧
    (here → h.type = 4 → kept = some x → x.retrans = false → ∃ t, exec (.nackReceive die f) s = .next t ∧
      (u.mayLeave d x.tenant.toNat x.dst = true → { x with retrans := true, sent := s.beat.toNat } ∈ (t.die d).kept) ∧
      (u.mayLeave d x.tenant.toNat x.dst = false → x ∉ (t.die d).kept)) ∧
    (here → h.type = 4 → kept = some x → x.retrans = true → exec (.nackReceive die f) s = .next u) ∧
    (here → h.type = 5 → h.index = 0 → kept = some x → ∃ t, exec (.lossReceive die f) s = .next t ∧ x ∉ (t.die d).kept) ∧
    (here → h.type = 5 → h.index ≠ 0 → u.tenantKey d h.tenant ≠ 0 → h.pkey = u.tenantKey d h.tenant →
      (u.die d).late_ h.src h.msgid = false → ∃ t, exec (.lossReceive die f) s = .next t ∧
        (h.src.toNat, h.msgid.toNat) ∈ (t.die d).past) ∧
    (s.dieUp d = true → fragBad f = false → h.type = 6 →
      (h.dst = 0xFFFF ∧ (s.die d).fabid ≠ 0xFFFF ∨ h.dst ≠ 0xFFFF ∧ s.routeLocal d h.dst = true) → u.tenantKey d h.tenant ≠ 0 → h.pkey = u.tenantKey d h.tenant → ∃ t, exec (.gangCancelReceive die f) s = .next t ∧
        ((∀ q n b, (q, n) ∈ u.presented h.tenant → u.gangRecord h.tenant q n = some b → lrGangId b ≠ h.msgid) →
          (h.tenant, h.msgid) ∈ t.mod.cancelled) ∧
        ∀ q n b, (q, n) ∈ u.presented h.tenant → u.gangRecord h.tenant q n = some b → lrGangId b = h.msgid →
          (t.progress h.tenant q n).cancelled = true)

/-- R242, R245: the deadlines of a message at its receiver and at its sender; a message that may not leave any more is not sent again. -/
def Parts.MessageDeadlines : Prop :=
  ∀ (s : State) (die : BitVec 2) (src : BitVec 16) (id : BitVec 32) (c : RecvCtx) (x : SentMsg),
    let d := die.toNat
    let now := s.beat.toNat
    s.dieUp d = true →
    (s.ctx d src id = some c → c.complete = false → c.nacked = false →
      (now < c.opened + c.dl → exec (.recvNackDeadline die src id) s = .next s) ∧
      (c.opened + c.dl ≤ now → ∃ t, exec (.recvNackDeadline die src id) s = .next t ∧ t.ctx d src id = some { c with nacked := true } ∧
        t.mem = s.mem)) ∧
    (s.ctx d src id = some c → c.complete = false → (hdrOf c.hdr).src = src → (hdrOf c.hdr).msgid = id → c.opened + 2 * c.dl ≤ now →
      ∃ t, exec (.recvAbandonDeadline die src id) s = .next t ∧ t.ctx d src id = none ∧ (src.toNat, id.toNat) ∈ (t.die d).past ∧
        t.mem = s.mem) ∧
    ((s.die d).kept.find? (·.msgid == id) = some x →
      (x.retrans = false → x.sent + 2 * x.dl ≤ now → s.mayLeave d x.tenant.toNat x.dst = true → ∃ t,
        exec (.sendRetransmitTimeout die id) s = .next t ∧ { x with retrans := true, sent := now } ∈ (t.die d).kept ∧ t.mem = s.mem) ∧
      (x.retrans = false → x.sent + 2 * x.dl ≤ now → s.mayLeave d x.tenant.toNat x.dst = false → ∃ t,
        exec (.sendRetransmitTimeout die id) s = .next t ∧ x ∉ (t.die d).kept) ∧
      (x.retrans = true → x.sent + 2 * x.dl ≤ now → ∃ t, exec (.sendLossTimeout die id) s = .next t ∧ x ∉ (t.die d).kept ∧
        (x.origin = none → s.mod.heldWrites = [] → t.mem = s.mem)) ∧
      (now < x.sent + 2 * x.dl → exec (.sendRetransmitTimeout die id) s = .next s ∧ exec (.sendLossTimeout die id) s = .next s))

/-- R17, R19, R231, R243, R244, R260: tables are swapped at their beat; ports and links go down and up, a port of a die under warm reset not
before its links are trained, each port change with its notice, which is written to the notice ring unless a snapshot has still to copy the
chunk. The model's choices and readings: log 6, 35, 63. -/
def Obligations.PortsLinksAndTables : Prop :=
  ∀ (s : State) (die e : BitVec 2) (port : BitVec 5) (q : Bool) (n : Notice) (r : List Notice),
    let d := die.toNat
    let x := s.die d
    let m := s.mod
    let p := port.toNat
    let changed (i : Instr) (up : Bool) : Prop := m.portsUp.getLsbD p = !up → ∃ t, exec i s = .next t ∧
      (∀ j < 32, t.mod.portsUp.getLsbD j = if j = p then up else m.portsUp.getLsbD j) ∧ t.mod.noticeSeq = m.noticeSeq + 1 ∧
      ∃ w, t.mod.notices = m.notices ++ [w] ∧ w.up = up ∧ w.port = p ∧ w.seq = m.noticeSeq + 1 ∧ w.beat = s.beat.toNat
    (x.rtst = 1 → x.rtswap.toNat ≤ s.beat.toNat → exec (.routeSwap die) s =
      .next (s.updDie d fun x => { x with route := x.routeShadow, fpk := x.fpkShadow, rtst := 2 })) ∧
    (s.beat.toNat < x.rtswap.toNat → exec (.routeSwap die) s = .next s) ∧
    let ready : Prop := s.dieUp (p / 8) = true ∨ s.present (p / 8) = true ∧ (s.die (p / 8)).phase = 5
    let slot := cfgSlot m.fnqcfg 32 m.fnqtail
    changed (.portDown port) false ∧ (ready → changed (.portUp port) true) ∧ (¬ ready → exec (.portUp port) s = .next s) ∧
    (∀ w, m.notices = n :: r → cfgEn m.fnqcfg = true → (m.fnqtail + 2 ^ 32 - m.fnqhead) % 2 ^ 32 < 2 ^ cfgSize m.fnqcfg →
      s.writeVa (s.hwWho 0) slot (n.bytes m.podModule.toNat) = .ok w →
        (∀ k, s.heldVa (s.hwWho 0) slot 32 = some k → exec .portNotice s = .next (s.hurryChunk k)) ∧
        (s.heldVa (s.hwWho 0) slot 32 = none → ∃ t, exec .portNotice s = .next t ∧
          t.mem = w.mem ∧ t.mod.notices = r ∧ t.mod.fnqtail = (m.fnqtail + 1) % 2 ^ 32)) ∧
    (die ≠ e → ∃ t u, exec (.ucieLinkDown die e) s = .next t ∧ linkPair die e ∈ t.mod.linkDown ∧
      exec (.ucieLinkUp die e) s = .next u ∧ linkPair die e ∉ u.mod.linkDown ∧
      ∀ l ≠ linkPair die e, (l ∈ t.mod.linkDown ↔ l ∈ m.linkDown) ∧ (l ∈ u.mod.linkDown ↔ l ∈ m.linkDown)) ∧
    (let down (b : Bool) : State := s.updMod fun m => if q then { m with edzanDown1 := b } else { m with edzanDown0 := b }
     exec (.edzanPortDown q) s = .next (down true) ∧ exec (.edzanPortUp q) s = .next (down false))

/-! ### Submissions, checkpoints, reliability, debug -/

/-- R252, R253, R258, R260: the oldest accepted submission of a tenant is performed, or ends with its code; either way it counts as done. A
report whose place a snapshot has still to copy waits. The model's choices and readings: log 35, 39. -/
def Obligations.SubmissionsArePerformed : Prop :=
  ∀ (s : State) (tenant : BitVec 6) (b : List Nat) (r : List (List Nat)),
    let n := tenant.toNat
    let u := s.takeSubs n 4096
    let ends (i : Instr) (v : State) (code : Nat) : Prop := ∃ t, exec i s = .next t ∧ t.mem = v.mem ∧
      (t.tenant n).hsdone = (v.tenant n).hsdone + 1 ∧ (t.tenant n).hsHeld = (v.tenant n).hsHeld.drop 1 ∧
      (code ≠ 0 → (t.tenant n).hserr = BitVec.ofNat 64 (((v.tenant n).hsdone + 1) % 2 ^ 56 * 256 + code)) ∧
      (code = 0 → (t.tenant n).hserr = (v.tenant n).hserr)
    (u.tenant n).hsHeld = b :: r →
    (subBad b = true → ends (.submitSysregWrite tenant) u 2 ∧ ends (.submitAttestation tenant) u 2 ∧
      ends (.submitPreemptionNotice tenant) u 2) ∧
    (subBad b = false → subOp b = 1 →
      (sysSpaceReg (subAddr b) = none → ends (.submitSysregWrite tenant) u 3) ∧
      ∀ k, sysSpaceReg (subAddr b) = some k → ∀ v, u.regWr (hostCaller tenant) k (BitVec.ofNat 64 (subVal b)) = .ok v →
        ends (.submitSysregWrite tenant) v 0) ∧
    (subBad b = false → subOp b = 2 →
      (subAddr b % 256 ≠ 0 → ends (.submitAttestation tenant) u 4) ∧
      (subAddr b % 256 = 0 → ∀ v, u.writeVa (u.hwWho n) (subAddr b) (u.report ((b.drop 32).take 32)) = .ok v →
        (∀ k, u.heldVa (u.hwWho n) (subAddr b) 256 = some k → exec (.submitAttestation tenant) s = .next (u.hurryChunk k)) ∧
        (u.heldVa (u.hwWho n) (subAddr b) 256 = none → ends (.submitAttestation tenant) v 0))) ∧
    (subBad b = false → subOp b = 3 →
      (tenant ≠ 0 → ends (.submitPreemptionNotice tenant) u 3) ∧
      (tenant = 0 → u.mod.snap.isSome = true → ends (.submitPreemptionNotice tenant) u 5) ∧
      (tenant = 0 → u.mod.snap = none → ends (.submitPreemptionNotice tenant) u.startSnapshot 0))

/-- R260, R261: a snapshot takes the regions' chunks in ascending order and copies each as it was when the snapshot started; a chunk sent to
the buddy stays pending until the buddy holds it, and an unreachable buddy ends the snapshot; once all have arrived the header goes out, and
the regions are known to hold its step. A write of the hardware into a chunk that is pending is held, the chunk comes next, and the write
performs once it is pending no more. The model's choices and readings: log 35. -/
def Parts.Snapshots : Prop :=
  ∀ (s : State) (v : Word) (p : Snapshot) (c : Nat),
    let m := s.mod
    let alone : Prop := m.ckbuddy = 0xFFFF
    let reached : Prop := m.ckbuddy ≠ 0xFFFF ∧ ∃ d, s.sendingDie = some d ∧ s.mayLeave d 0 m.ckbuddy = true
    let cut : Prop := m.ckbuddy ≠ 0xFFFF ∧ s.sendingDie = none
    let next : Prop := m.heldWrites = [] ∧ m.snap = some p ∧ (p.pending.find? fun c => !p.sent.contains c) = some c ∧ (p.phase ≠ 0 ∨ p.awaiting = [])
    let kept (t : State) : Prop :=
      (m.cklocal = false → t.mem = s.mem) ∧
      (m.cklocal = true → t.mem = memWrites s.mem (s.slotBase (2 + p.slot) + p.place c) (s.chunkBytes p c))
    let ended : Prop := m.snap = some p ∧ p.pending = [] ∧ p.awaiting = []
    (∀ k bs, s.pendingChunk k = true → s.writeOrHold k bs =
      (s.hurryChunk k).updMod fun m => { m with heldWrites := m.heldWrites ++ [(k, bs)] }) ∧
    (∀ k bs, s.pendingChunk k = false → s.writeOrHold k bs = s.writeLoc k bs) ∧
    (∀ k bs, m.heldWrites = [(k, bs)] → s.pendingChunk k = false → s.performHeld.mem = memWrites s.mem k bs ∧
      s.performHeld.mod.heldWrites = []) ∧
    (∀ k bs, m.heldWrites = [(k, bs)] → s.pendingChunk k = true → s.performHeld = s) ∧
    (s.ckRequest 1 = some v → m.snap.isSome = true → ∃ t, exec .ckctlSnapshot s = .next t ∧ t.mod.snap = m.snap ∧ t.mod.ckst = 1) ∧
    (s.ckRequest 1 = some v → m.snap = none → s.regionsOk = false → ∃ t, exec .ckctlSnapshot s = .next t ∧ t.mod.snap = none ∧
      t.mod.ckst = 3 ∧ t.mod.ckReq = none) ∧
    (s.ckRequest 1 = some v → m.snap = none → s.regionsOk = true → (alone ∨ reached) → ∃ t y, exec .ckctlSnapshot s = .next t ∧
      t.mod.snap = some y ∧ t.mod.ckst = 1 ∧ y.step = m.ckstep ∧ y.chunks = regionChunks s.regions ∧ y.sent = [] ∧ (∀ i, i ∈ y.pending ↔ i ∈ y.chunks) ∧
      (alone → y.awaiting = [])) ∧
    (s.ckRequest 1 = some v → m.snap = none → s.regionsOk = true → cut → ∃ t, exec .ckctlSnapshot s = .next t ∧ t.mod.snap = none ∧
      t.mod.ckst = 4) ∧
    (next → alone → ∃ t y, exec .checkpointChunkCopy s = .next t ∧ t.mod.snap = some y ∧ c ∉ y.pending ∧
      y.crcs.find c = some (crc64 0 (s.chunkBytes p c)) ∧ kept t) ∧
    (next → reached → ∃ t y, exec .checkpointChunkCopy s = .next t ∧ t.mod.snap = some y ∧ (∀ i, i ∈ y.pending ↔ i ∈ p.pending) ∧ c ∈ y.sent ∧
      y.crcs.find c = some (crc64 0 (s.chunkBytes p c)) ∧ kept t) ∧
    (next → cut → ∃ t, exec .checkpointChunkCopy s = .next t ∧ t.mod.snap = none ∧ t.mod.ckst = 4) ∧
    (m.snap = some p → p.phase = 0 → p.awaiting ≠ [] → exec .checkpointChunkCopy s = .next s) ∧
    (m.snap = some p → (∀ x ∈ p.pending, x ∈ p.sent) → exec .checkpointChunkCopy s = .next s) ∧
    (m.snap = some p → (p.pending ≠ [] ∨ p.awaiting ≠ []) → exec .snapshotComplete s = .next s) ∧
    (ended → p.phase ≠ 2 → reached → ∃ t y, exec .snapshotComplete s = .next t ∧ t.mod.snap = some y ∧ y.phase = 2 ∧ t.mem = s.mem) ∧
    (ended → (p.phase = 2 ∨ alone) → ∃ t, exec .snapshotComplete s = .next t ∧
      t.mod.snap = none ∧ t.mod.ckst = 0 ∧ t.mod.ckclean = true ∧ t.mod.cleanStep = p.step ∧ t.mod.newestSlot = some p.slot ∧
      t.mem = if m.cklocal then memWrites (memWrites s.mem (s.slotBase (2 + p.slot)) (s.headerOf p)) (s.slotBase (2 + p.slot) + flagAt) [1]
        else s.mem)

/-- R262: a restore fills the regions from the first slot that holds the step complete with its CRC, touches nothing where they hold it
already, and says whether the step or the owner is missing; a discard clears the flags of the owner's slots. Where the buddy is asked, it
alone knows its slots: any of the rule's outcomes follows. The model's choices and readings: log 35. -/
def Parts.RestoreAndDiscard : Prop :=
  ∀ (s : State) (v : Word) (k : Nat),
    let m := s.mod
    let clean : Prop := m.ckclean = true ∧ m.cleanStep.toNat = ckStepOf v
    let n := regionChunks s.regions
    let slots := s.slotsOf (ckOwner v)
    let found := slots.find? fun k => s.slotHolds k (ckStepOf v) n.length
    let ends (i : Instr) (code : Nat) (mem : List Host.Cell) : Prop := ∃ t, exec i s = .next t ∧ t.mod.ckst = code ∧
      t.mod.ckReq = none ∧ t.mem = mem
    (s.ckRequest 2 = some v → ckFromBuddy v = false →
      (clean → ends .ckctlRestore 0 s.mem) ∧
      (¬clean → slots = [] → ends .ckctlRestore 2 s.mem) ∧
      (¬clean → slots ≠ [] → found = none → ends .ckctlRestore 3 s.mem) ∧
      (¬clean → found = some k → ends .ckctlRestore 0 (n.zipIdx.foldl (fun mem c =>
        memWrites mem (c.1 * 65536) (memReads mem (s.slotBase k + 65536 * (1 + c.2)) 65536)) s.mem))) ∧
    (s.ckRequest 2 = some v → ckFromBuddy v = true → s.ownBuddy = false → s.buddyReached = false → ends .ckctlRestore 4 s.mem) ∧
    (s.ckRequest 2 = some v → ckFromBuddy v = true → s.ownBuddy = false → s.buddyReached = true → ∃ t, exec .ckctlRestore s = .next t ∧
      t.mod.ckReq = none ∧ t.mod.ckst ∈ [0, 2, 3, 4] ∧ (t.mod.ckst ≠ 0 → t.mem = s.mem) ∧
      ∀ a, a / 65536 ∉ n → memRead t.mem a = memRead s.mem a) ∧
    (s.ckRequest 3 = some v → ckFromBuddy v = false →
      (slots = [] → ends .ckctlDiscard 2 s.mem) ∧
      (slots ≠ [] → ends .ckctlDiscard 0 (slots.foldl (fun mem k => memWrites mem (s.slotBase k + flagAt) [0]) s.mem))) ∧
    (s.ckRequest 3 = some v → ckFromBuddy v = true → s.ownBuddy = false → s.buddyReached = false → ends .ckctlDiscard 4 s.mem) ∧
    (s.ckRequest 3 = some v → ckFromBuddy v = true → s.ownBuddy = false → s.buddyReached = true → ∃ t, exec .ckctlDiscard s = .next t ∧
      t.mod.ckReq = none ∧ t.mod.ckst ∈ [0, 2, 4] ∧ t.mem = s.mem)

/-- R179, R263-R267, R269, R271: what a scrubber finds is counted, and a demand read's correction where its word lies; a damaged copy of an
object is marked; a replay computes a signature from its log, and one that differs from its record's is reported; a debugger halts and
resumes the streams of a core, or those of a job that is being pre-empted or saved once it is restored; a throttled module lets `beat` run
and `tick` stand. The model's choices and readings: log 34, 36, 61, 84. -/
def Parts.ReliabilityAndDebug : Prop :=
  ∀ (s : State) (die : BitVec 2) (memory : BitVec 3) (a : Nat) (log : AuditLog) (core : BitVec 8) (level : BitVec 4) (n : Nat),
    let d := die.toNat
    let m := memory.toNat
    let c := core.toNat
    let k := s.core c
    let audits := (s.die d).audits
    (s.dieUp d = true → m < 3 → inMemory d m a = true → (∃ t, exec (.scrubWord die memory a .clean) s = .next t ∧ t.mem = s.mem ∧ t.damaged = s.damaged) ∧
      (∃ t, exec (.scrubWord die memory a .corrected) s = .next t ∧ t.mem = s.mem ∧ (t.die d).mmcount.at (Config.subArray m a) 0 =
        min ((s.die d).mmcount.at (Config.subArray m a) 0 + 1) 0xFFFFFFFF) ∧
      ∃ t, exec (.scrubWord die memory a .uncorrectable) s = .next t ∧ t.mem = s.mem ∧ a / 8 * 8 ∈ t.damaged ∧
        (t.die d).ue.at m 0 = min ((s.die d).ue.at m 0 + 1) 0xFFFF) ∧
    (∀ f, s.dieUp d = false ∨ m < 3 ∧ inMemory d m a = false → exec (.scrubWord die memory a f) s = .next s) ∧
    (s.dieUp d = true → 3 ≤ m → exec (.scrubWord die memory a .clean) s = .next s ∧
      ∀ i, (m ≠ 5 ∧ i = m ∨ m = 5 ∧ i < 3 ∧ inMemory d i a = true ∧ ∀ j < i, inMemory d j a = false) → ∃ t,
        exec (.scrubWord die memory a .corrected) s = .next t ∧
        t.mem = s.mem ∧ (t.die d).mmcount.at (Config.subArray i a) 0 = min ((s.die d).mmcount.at (Config.subArray i a) 0 + 1) 0xFFFFFFFF) ∧
    (s.dieUp d = true → m = 3 → a < 4 * 65536 → ∃ t, exec (.scrubWord die memory a .uncorrectable) s = .next t ∧ t.mem = s.mem ∧
      (t.die d).tahr.at (a / 4) Slot.reset = ((s.die d).tahr.at (a / 4) Slot.reset).damage (a % 4)) ∧
    (audits.find? (fun x => x.original.isSome && x.replay.isNone) = some log → ∀ cl, s.auditCluster (clusterOf log.core.toNat) = some cl →
      ∃ t, exec (.auditReplay die) s = .next t ∧ { log with replay := some (cl, (s.replayed log).1) } ∈ (t.die d).audits ∧ t.mem = s.mem) ∧
    (∀ cl w, audits.find? (fun x => x.replay.isSome) = some log → log.replay = some (cl, w) →
      (log.original = some w → ∃ t, exec (.auditCompare die) s = .next t ∧ t.tenants = s.tenants ∧
        (t.die d).audits.length + 1 = audits.length) ∧
      (log.original ≠ some w → ∃ t f, exec (.auditCompare die) s = .next t ∧ (t.tenant 0).outbox = (s.tenant 0).outbox ++ [f] ∧
        f.cause = 0x50 ∧ f.seq = log.seq ∧ f.corr = log.corr ∧ f.aux1 = cl)) ∧
    (s.savedOn c = none → ∀ l,
      (k.preempting = false →
        (∃ t, exec (.dbgSoftHalt core) s = .next t ∧ (t.core c).halt = some ⟨1, 0⟩ ∧ (t.str c l).halted = true) ∧
        (∃ t, exec (.dbgHardHalt core) s = .next t ∧ (t.core c).halt = some ⟨2, 0⟩ ∧ (t.str c l).halted = true) ∧
        ((k.loopRow level.toNat).kind = 1 → ∃ t, exec (.dbgPreciseHalt core level) s = .next t ∧ (t.core c).halt = some ⟨3, level.toNat⟩ ∧
          ((k.str l).loops.any (fun e => e.id == level) = false → (t.str c l).halted = true))) ∧
      (k.preempting = true → ∃ t, exec (.dbgSoftHalt core) s = .next t ∧ (t.core c).halt = some ⟨1, 0⟩ ∧ t.str c l = s.str c l) ∧
      ((k.loopRow level.toNat).kind ≠ 1 → exec (.dbgPreciseHalt core level) s = .next s) ∧
      ∃ t, exec (.dbgResume core) s = .next t ∧ (t.core c).halt = none ∧ (t.str c l).halted = false) ∧
    (∀ x, s.savedOn c = some x →
      (∃ t y, exec (.dbgSoftHalt core) s = .next t ∧ t.core c = k ∧ y ∈ t.mod.saved ∧ y.id = x.id ∧ y.ctx.halt = some ⟨1, 0⟩) ∧
      (∃ t y, exec (.dbgHardHalt core) s = .next t ∧ t.core c = k ∧ y ∈ t.mod.saved ∧ y.id = x.id ∧ y.ctx.halt = some ⟨2, 0⟩) ∧
      ∃ t y, exec (.dbgResume core) s = .next t ∧ t.core c = k ∧ y ∈ t.mod.saved ∧ y.id = x.id ∧ y.ctx.halt = none) ∧
    exec (.throttlingBubble n) s =
      .next { s with beat := s.beat + BitVec.ofNat 64 ((s.cycle + n) / 300), cycle := (s.cycle + n) % 300 } ∧
    (s.mod.mmSaved + 240000000 ≤ s.beat.toNat → ∃ t, exec .mismatchSave s = .next t ∧ t.mod.mmSaved = s.beat.toNat ∧ t.mem = s.mem ∧
      ∀ i, (t.die i).mmflash = (t.die i).mmcount)

/-! ### The whole machine -/

/-- R28, R31, R33, R97, R100, R214, R256, R275: a step in which a stream that may issue is chosen executes the instruction that its word
decodes to, at the state in which time has passed, the stream's program counter stands at that word, and its line at the front of the
stream's buffer. The word is that of the line as the buffer holds it, else as it is fetched; of the lines that the buffer holds, those beside
the one being executed may have given way. A lane that is not the stream's, a reserved header bit and a word that does not decode are traps, as
is the end of the image; a page that no TLB holds is walked. A step in which an event is chosen executes the event. A halted module stops.
The model's choices and readings: log 1, 2, 5, 67. -/
def Obligations.StepRunsTheDecodedInstruction : Prop :=
  ∀ (s : State) (core : BitVec 8) (l : Lane) (r : List Choice) (i : Instr) (e : DecodeErr) (w : State) (ln : Line) (f : AccFault) (va : Nat),
    let u : State := { s.elapse with script := r }
    let v0 := ({ u with focusCore := core, focusLane := l } : State).chosenNow
    let v := v0.shedLines
    let at_ (w : State) : Prop := v.me.pc.after = false ∧ w = v ∨ v.me.pc.after = true ∧ ∃ n j k, v.seek v.me.pc = .lane n j k ∧
      w = (v.holdLine n k).updMe fun t => { t with pc := ⟨BitVec.ofNat 64 n, BitVec.ofNat 3 j, false⟩ }
    let line := w.me.pc.line.toNat
    let lane := w.me.pc.lane.toNat
    let z := w.holdLine line ln
    let mine : Prop := ln.reserved = 0 ∧ lane ≠ 0 ∧ ln.tag lane = laneTag l
    let held : Prop := (Tab.find w.me.ibuf line).isSome = true ∨ w.walking (w.who core.toNat) .fetch line = false
    let chosen : Prop := s.script = .stream core l :: r ∧ u.mayIssue core.toNat l = true
    s.mod.halted = false →
    (chosen → at_ w → line % 32 = 0 →
      (¬ held → step s = .next (w.noteMiss core.toNat line)) ∧
      (held → w.lineFor core.toNat l line = .ok ln →
        (mine → decodeWord (BitVec.ofNat 32 (ln.word lane)) = .ok i → step s = exec i (z.updMe fun t => { t with moved := true })) ∧
        (mine → decodeWord (BitVec.ofNat 32 (ln.word lane)) = .error e → step s = .next (z.trapDecode e)) ∧
        (¬mine → step s = .next (z.trap 0x02 0))) ∧
      (held → w.lineFor core.toNat l line = .error f → step s = .next (w.trapAccess f .fetch 0 32))) ∧
    (chosen → at_ w → line % 32 ≠ 0 → step s = .next (w.trap 0x02 0)) ∧
    (chosen → v.me.pc.after = true →
      (v.seek v.me.pc = .past → step s =
        .next (v.stopCore core.toNat { cause := 0x01, sub := 2, src := laneTag l, after := true })) ∧
      (v.seek v.me.pc = .miss va → step s = .next (v.noteMiss core.toNat va)) ∧
      (v.seek v.me.pc = .fault f → step s = .next (v.trapAccess f .fetch 0 32))) ∧
    (s.script = .stream core l :: r → u.mayIssue core.toNat l = false → step s = .next u) ∧
    (s.script = .event i :: r → i.isLane = false → step s = exec i u) ∧
    (v0.me.ibuf.length ≤ 1 → v = v0) ∧
    (∀ x y b, v0.me.ibuf = x :: y :: b → ∃ k, v = ({ v0 with fresh := v0.fresh + 1 } : State).updMe (fun t => { t with ibuf := x :: k }) ∧
      k.Sublist (y :: b)) ∧
    (∀ ws, Tab.find (w.str core.toNat l).ibuf line = some ws → w.lineFor core.toNat l line = .ok ⟨ws⟩) ∧
    (Tab.find (w.str core.toNat l).ibuf line = none → w.lineFor core.toNat l line = w.fetchLine core.toNat line) ∧
    (w.me.ibuf.head?.map (·.1) = some line → z = w) ∧
    (w.me.ibuf.head?.map (·.1) ≠ some line → ∃ b, z = ({ w with fresh := w.fresh + 1 } : State).updMe (fun t => { t with ibuf := b }) ∧
      b.length ≤ 4 ∧ b.head? = some (line, ln.words)) ∧
    (s.script = .stream core l :: r →
      step (s.updMod fun m => { m with halted := true }) = .fault .moduleHalted)

/-- R277, R280-R286: words written out field by field, for each family, decode to the instructions they stand for; reserved codes are
refused. -/
def Obligations.DecodesTheWordsOfTheSpec : Prop :=
  let word (l : List Nat) (n : List Nat) : LaneWord := BitVec.ofNat 32 ((l.zip n).foldl (fun a x => a * 2 ^ x.2 + x.1) 0)
  let r (l : List Nat) : LaneWord := word l [6, 3, 1, 5, 5, 5, 7]
  let imm (l : List Nat) : LaneWord := word l [6, 3, 1, 5, 5, 12]
  let br (l : List Nat) : LaneWord := word l [6, 3, 1, 3, 19]
  let m (l : List Nat) : LaneWord := word l [6, 3, 1, 5, 5, 4, 2, 6]
  let v (l : List Nat) : LaneWord := word l [6, 3, 1, 5, 5, 5, 4, 3]
  decodeWord (r [0x01, 2, 1, 3, 1, 2, 0x00]) = .ok (.add ⟨2, true⟩ 3 1 2) ∧
  decodeWord (r [0x01, 0, 0, 4, 5, 6, 0x16]) = .ok (.div ⟨0, false⟩ 4 5 6) ∧
  decodeWord (imm [0x02, 0, 0, 31, 30, 0xFFF]) = .ok (.addi ⟨0, false⟩ 31 30 0xFFF) ∧
  decodeWord (imm [0x06, 1, 0, 7, 8, 0x800 + 63]) = .ok (.sari ⟨1, false⟩ 7 8 63) ∧
  decodeWord (r [0x0D, 0, 0, 3, 4, 5, 0]) = .ok (.adda ⟨0, false⟩ 3 4 5) ∧
  decodeWord (br [0x14, 0, 0, 2, 0x7FFFF]) = .ok (.jmp 2 0x7FFFF) ∧
  decodeWord (br [0x14, 3, 1, 2, 1]) = .ok (.br ⟨3, true⟩ 2 1) ∧
  decodeWord (m [0x1B, 0, 0, 9, 3, 5, 2, 0x3F]) = .ok (.ld ⟨0, false⟩ 9 3 5 2 0x3F) ∧
  decodeWord (m [0x1D, 0, 0, 9, 3, 5, 3, 1]) = .ok (.st ⟨0, false⟩ 9 3 5 3 1) ∧
  decodeWord (v [0x20, 1, 1, 2, 3, 4, 0, 0]) = .ok (.vadd ⟨1, true⟩ 2 3 4 0) ∧
  decodeWord (r [0x34, 0, 0, 6, 2, 1, 0]) = .ok (.kpush ⟨0, false⟩ 6 2 1) ∧
  decodeWord (r [0x38, 0, 0, 0, 4, 5, 0]) = .ok (.scpost ⟨0, false⟩ 4 5) ∧
  decodeWord (r [0x3A, 0, 0, 4, 5, 0, 0]) = .ok (.lock ⟨0, false⟩ 4 5) ∧
  decodeWord (r [0x3C, 0, 0, 4, 5, 0, 0]) = .ok (.sysrd ⟨0, false⟩ 4 5) ∧
  decodeWord (word [0x3F, 0x2AAAAAA] [6, 26]) = .ok (.ximm 0x2AAAAAA) ∧
  decodeWord (r [0x00, 0, 0, 0, 0, 0, 0]) = .error .reserved ∧ decodeWord (r [0x01, 0, 0, 0, 0, 0, 0x12]) = .error .reserved ∧
  decodeWord (r [0x01, 0, 0, 3, 4, 1, 0x0E]) = .error (.field [.c, .a, .x])

/-- R275, R277-R286: decoding an encoded well-formed lane instruction gives it back, and a word that decodes is the encoding of its
instruction, which is well-formed: no two words are one instruction, and no bit of a word is dropped. -/
def Obligations.EncodingAndDecodingAgree : Prop :=
  (∀ i : Instr, i.isLane = true → i.wellFormed = true → decodeWord (encode i) = .ok i) ∧
  ∀ (w : LaneWord) (i : Instr), decodeWord w = .ok i → i.isLane = true ∧ i.wellFormed = true ∧ encode i = w

/-- R274, R275, R322: every lane instruction meets the checks in their order: the stream, the fields, the registers, the level; one whose
predicate is false then only goes on. -/
def Obligations.ChecksComeInOrder : Prop :=
  ∀ (s : State) (i : Instr), i.isLane = true →
    let stream := i.streams.contains s.focusLane
    let regs := i.regsOk s.focusLane
    let level := s.levelOf s.fcore
    (stream = false → exec i s = .next (s.trap 0x03 0)) ∧
    (stream = true → i.wellFormed = false → exec i s = .next (s.trap 0x01 1)) ∧
    (stream = true → i.wellFormed = true → regs = false → exec i s = .next (s.trap 0x01 3)) ∧
    (stream = true → i.wellFormed = true → regs = true → level < i.minLevel → exec i s = .next (s.trap 0x04 0)) ∧
    (∀ g, stream = true → i.wellFormed = true → regs = true → i.minLevel ≤ level → i.pred = some g → s.me.guard g = false →
      exec i s = .next (s.updMe StreamState.done))

/-- R180, R186-R190, R192, R299, R346, R353, R376, R387, R404, the frame of the instructions of the Tahr store, on counters, locks, barriers,
wait objects and watches: memory, every register of the stream but the destination, its loops and floating-point state are as they were; so
are banks, accumulator and buffer rings. -/
def Obligations.SynchronisationFrame : Prop :=
  ∀ (s t : State) (g : Guard) (d a b : BitVec 5) (q : BitVec 3) (i : Instr), s.Inv → s.issues i = true →
    s.me.wait.retried = true → (∀ x, (s.tenant x).trmask = 0) →
    i ∈ [Instr.scpost g a b, .scwait g d a b, .scread g d a, .lock g d a, .unlock g d a, .bara g d a, .barw g d a q, .baraw g d a q,
      .wreg g a, .wdereg g a, .whold g a, .wholdRel g a, .mon g d a, .mwait g d a] → exec i s = .next t →
      t.mem = s.mem ∧ (∀ r, r ≠ d → t.me.rs r = s.me.rs r) ∧ t.me.a = s.me.a ∧ t.me.v = s.me.v ∧ t.me.m = s.me.m ∧ t.me.k = s.me.k ∧
        (∀ p, p ≠ q → t.me.rp p = s.me.rp p) ∧ t.me.loops = s.me.loops ∧ t.me.fpctl = s.me.fpctl ∧ t.me.fpflags = s.me.fpflags ∧
        t.me.seed = s.me.seed ∧ t.me.mark = s.me.mark ∧ t.tick = s.tick ∧ t.beat = s.beat ∧
        ∀ c, (t.cluster c).banks = (s.cluster c).banks ∧ (t.cluster c).acc = (s.cluster c).acc ∧
          (t.cluster c).brings = (s.cluster c).brings

/-- R7: every step keeps the invariant: memory and the tables of the state stay in canonical form, and a beat is 300 cycles. -/
def Obligations.EveryStepKeepsTheInvariant : Prop :=
  ∀ s t : State, s.Inv → step s = .next t → t.Inv

/-- R64, R65, R98, R126, R165, R182, R208, R222, R236, R238, R243, R249, R259: the module right after reset meets the invariant, and holds
the values that the rules state. The model's choices and readings: log 4, 7, 12. -/
def Obligations.ResetState : Prop :=
  let s := State.reset
  s.Inv ∧ s.tick = 0 ∧ s.mod.gangGrace = 400 ∧ s.mod.ckbuddy = 0xFFFF ∧
    (∀ c, (s.core c).job = none ∧ (s.core c).gen = 0 ∧ (s.core c).leaseRun = 8 ∧ (s.core c).clsattr = 0x2000000000000000 ∧
      (∀ l, (s.str c l).fpctl = 0 ∧ (s.str c l).fpflags = 0 ∧ (s.str c l).seed = 0) ∧
      ∀ q, ((s.core c).ring q).acc = 0 ∧ ((s.core c).ring q).ret = 0) ∧
    (∀ cl, (s.cluster cl).cells = none ∧ ∀ b, ((s.cluster cl).bank b).mode = 0 ∧ ((s.cluster cl).accb b).alloc = false) ∧
    (∀ d, (s.die d).fabid = 0xFFFF ∧ (s.die d).colltmo = 40000 ∧ (s.die d).scrubPeriod = 100 ∧ (s.die d).wdog = 4000 ∧
      (∀ t, s.tenantKey d t = 0) ∧ ∀ cls, s.rateDl d cls = 40 ∧ s.rateM d cls = 2 ∧ s.rateKmax d cls = 32) ∧
    ∀ t, (s.tenant t).trmask = 0 ∧ (s.tenant t).amoflags = 0 ∧ (s.tenant t).maps = []

/-! ### Statements in several parts -/

/-- R281, R291-R293, R320, R329, R343, R350, R366, R377: the result of every integer form on registers and immediates, and of ADDA and
ADDAI. -/
def Obligations.IntegerAndAddressResults : Prop :=
  Parts.IntegerArithmeticResults ∧ Parts.PopcCountsOnes ∧ Parts.ImmediateResults ∧ Parts.AddaResult

/-- R33, R52, R276, R286, R303-R305: XIMM pairs. -/
def Obligations.XimmPairsExecuteAsOne : Prop :=
  Parts.XimmComposesTheImmediate ∧ Parts.XimmBeforeCallsAndQueues ∧ Parts.XimmWithoutFollowerTraps

/-- R26, R309, R310, R326, R348, R367: predicates and what writes them. -/
def Obligations.CompareAndPredicateResults : Prop :=
  Parts.CompareResults ∧ Parts.PredicateWrites

/-- R63-R69, R323, R324, R327, R328: scalar floating point and its rounding. -/
def Obligations.FloatResults : Prop :=
  Parts.ScalarFloatResults ∧ Parts.RoundingKeepsRepresentableValues

/-- R40, R45, R277, R280, R301, R303-R306, R336: where control goes. -/
def Obligations.TransfersOfControl : Prop :=
  Parts.JumpsAndCalls ∧ Parts.BranchOutcomeQueues

/-- R37, R39, R44, R45, R270, R271, R348: loop levels and marks. -/
def Obligations.LoopsAndMarks : Prop :=
  Parts.LoopOpensALevel ∧ Parts.PreciseHaltStops ∧ Parts.LoopChecksTrap ∧ Parts.EndlClosesAnIteration ∧ Parts.StagePredicates ∧ Parts.MarkHoldsTheStream

/-- R168, R169, R281, R363, R385: what orders or delays a stream. -/
def Obligations.NopTimePauseAndFences : Prop :=
  Parts.NopTimeAndPause ∧ Parts.Fences

/-- R100, R167, R217, R260, R338, R340, R341, R379: loads and stores. -/
def Obligations.LoadsAndStores : Prop :=
  Parts.LoadsAndStoresComplete ∧ Parts.CachedLoadsGiveMemoryOrTheHeldLine ∧ Parts.LoadAndStoreFaults

/-- R217, R307, R330, R331, R342, R368, R375, R380: what streams do through the address queue and the cache ways. -/
def Obligations.AddressQueueInstructions : Prop :=
  Parts.QueueReadsComplete ∧ Parts.QueueWritesComplete ∧ Parts.PrefAndCflushComplete

/-- R40, R41, R43, R45, R66, R371, R372: queue registers. -/
def Obligations.QueueInstructions : Prop :=
  Parts.QueuePopsAndPushes ∧ Parts.PushesAreCountedAndDiscardedOnce

/-- R105-R107, R113, R114, R171, R285, R337, R339, R373: command registers and rings. -/
def Obligations.CommandRegistersAndRings : Prop :=
  Parts.CommandRegisterWords ∧ Parts.RecordPushes ∧ Parts.QstatResult

/-- R35, R114-R116, R369, R370, R374: chains, and the end of a stream. -/
def Obligations.ChainsAndTheEndOfAStream : Prop :=
  Parts.ChainInstructions ∧ Parts.ChainsAdvance ∧ Parts.RendEndsTheStream

/-- R76, R77, R349, R388, R389, R391, R395-R397, R400, R402: vector results, element by element. -/
def Obligations.VectorResults : Prop :=
  Parts.VectorArithmetic ∧ Parts.VectorBitOperations ∧ Parts.VectorFunctions

/-- R390, R392-R394: moves, masks and conversions. -/
def Obligations.VectorMovesAndConversions : Prop :=
  Parts.VectorMoves ∧ Parts.VcmpWritesAMask ∧ Parts.VcvtConverts ∧ Parts.VcvtbConvertsBlocks

/-- R399, R403: reductions, scans and ranks. -/
def Obligations.ReductionsAndRanks : Prop :=
  Parts.ReductionsAndScans ∧ Parts.ReductionOfNothingAndOfIntegers ∧ Parts.VtopkSelectsByRank

/-- R86, R88, R297, R298: bank modes and formats. -/
def Obligations.BankModes : Prop :=
  Parts.BankModeAndFormat ∧ Parts.BankModeApplies

/-- R117, R118, R129, R131, R288-R290, R296, R302, R378: accumulator banks, buffer rings and multicast slots. -/
def Obligations.AccumulatorAndBufferRings : Prop :=
  Parts.AccalTakesTheLeastRun ∧ Parts.AccumulatorOwnership ∧ Parts.BufferRingsAndSlots

/-- R177, R179, R180, R376: counters. -/
def Obligations.CountersAndPosts : Prop :=
  Parts.CounterInstructions ∧ Parts.PostsPerform

/-- R177-R179, R189: the objects of the Tahr store. The order of the two faults of a handle is the model's reading (log 28), what two bad copies
do its choice (log 34, 54), and so is log 16. -/
def Obligations.ObjectsOfTheStore : Prop :=
  Parts.ObjectChecks ∧ Parts.ObjectRequests

/-- R188-R190, R299, R346, R387: locks and barriers. -/
def Obligations.LocksAndBarriers : Prop :=
  Parts.Locks ∧ Parts.LockOrder ∧ Parts.BarrierArrivals ∧ Parts.BarrierWaits

/-- R191, R192, R194, R404: the wait-for table. -/
def Obligations.WaitForEdges : Prop :=
  Parts.ProgramWaits ∧ Parts.EdgesAndCycles

/-- R186, R187, R195, R335, R353, R363: watches and timed waits. -/
def Obligations.WatchesAndTimeouts : Prop :=
  Parts.WatchInstructions ∧ Parts.ParkedWaitsEnd

/-- R8, R9, R64-R66, R126, R165, R209, R381, R382, R384: system registers. -/
def Obligations.RegistersAndPrivilege : Prop :=
  Parts.SysrdResults ∧ Parts.SyswrResults ∧ Parts.RegisterPrivilege

/-- R31, R212-R216, R322, R386: taking an exception, and the return from one. -/
def Obligations.FaultsAndTheirResolution : Prop :=
  Parts.TakingAFault ∧ Parts.TrapAndResume ∧ Parts.EretResolvesAFrame

/-- R8, R19, R22, R196, R243, R250, R253, R257, R260, R265, R383: what the host reads and writes. -/
def Obligations.HostAccesses : Prop :=
  Parts.HostRegisterWrites ∧ Parts.HostMemoryAccesses

/-- R89, R91, R111, R118, R315-R319, R332, R333, R351: copies. -/
def Obligations.CopyCommands : Prop :=
  Parts.CopiesPerformChunks ∧ Parts.CopyChunksCoverEveryRowOnce

/-- R79-R82, R121-R123, R133-R140, R151-R153, R355-R362: the matrix array; R359 says which tile meets the check of a destination's format. -/
def Obligations.MatrixCommands : Prop :=
  Parts.MatrixCommandsPerformTiles ∧ Parts.ProductTileElements

/-- R238, R248, R249, R311-R314: collectives. -/
def Obligations.CollCommand : Prop :=
  Parts.CollBeginsAStripe ∧ Parts.CollPerformsAStripe ∧ Parts.CollErrorsWriteFinalElements ∧ Parts.CollReductionsOfIntegers

/-- R103, R106, R108, R109, R116, R120, R125, R128, R174, R175, R191, R213, R345: the stages of a record, and the frame of one that meets
another. -/
def Obligations.RecordStages : Prop :=
  Parts.RecordsAdvance ∧ Parts.RecordsAreFetchedAgain ∧ Parts.RecordsStart

/-- R106, R111-R113, R124, R125, R133, R206, R212: what ends a boundary, a record or a turn. -/
def Obligations.MarksRetirementAndLimits : Prop :=
  Parts.MarksAndRetirement ∧ Parts.EngineLimits

/-- R36, R42, R100, R211, R217, R254: the end of a job and the events of a core. -/
def Obligations.JobsAndCoreEvents : Prop :=
  Parts.JobsComplete ∧ Parts.CoreEvents

/-- R34, R38, R58, R86, R197-R203, R207, R208, R219, R220: the schedulers. -/
def Obligations.LaunchingAndScheduling : Prop :=
  Parts.LaunchesPlaceJobs ∧ Parts.LaunchesSetBanks ∧ Parts.GangGates ∧ Parts.PreemptionAndRestore

/-- R45, R46, R223-R226, R229: Markhor. -/
def Obligations.MarkhorResets : Prop :=
  Parts.EngineResets ∧ Parts.CoreResets

/-- R228, R230-R234, R255-R257, R424: resets, boot and the firmware. -/
def Obligations.ResetsOfDiesTenantsAndTheModule : Prop :=
  Parts.ResetRequests ∧ Parts.WarmResetPhases ∧ Parts.BootOutcomes ∧ Parts.FirmwareRuns

/-- R208, R235, R236, R239, R240, R242, R245, R246, R260: messages of the fabric. -/
def Obligations.FabricMessages : Prop :=
  Parts.HeadersRoundTrip ∧ Parts.FragmentsArrive ∧ Parts.RepliesEndMessages ∧ Parts.MessageDeadlines

/-- R179, R260-R267, R269, R271: checkpoints, reliability and debug. -/
def Obligations.CheckpointsAndReliability : Prop :=
  Parts.Snapshots ∧ Parts.RestoreAndDiscard ∧ Parts.ReliabilityAndDebug
end

