-- ==== Sys2Proof/Laws/Encoding.lean ====
section
/-! SUPPORT. The fields of the words that the encoder packs (R277). -/

namespace Sys2Proof

/-- A field inside the lower part of an append. -/
theorem extract_append_low {k m : Nat} (x : BitVec k) (y : BitVec m) (lo n : Nat) (h : lo + n ≤ m) :
    (x ++ y).extractLsb' lo n = y.extractLsb' lo n := by
  apply BitVec.eq_of_getLsbD_eq
  intro i hi
  have : lo + i < m := by omega
  simp [BitVec.getLsbD_append, hi, this]

/-- A field inside the upper part of an append. -/
theorem extract_append_high {k m : Nat} (x : BitVec k) (y : BitVec m) (lo n : Nat) (h : m ≤ lo) :
    (x ++ y).extractLsb' lo n = x.extractLsb' (lo - m) n := by
  apply BitVec.eq_of_getLsbD_eq
  intro i hi
  have h1 : ¬ lo + i < m := by omega
  have h2 : lo + i - m = lo - m + i := by omega
  simp [BitVec.getLsbD_append, hi, h1, h2]

/-- The two parts of an append. -/
theorem extract_append_right {k m : Nat} (x : BitVec k) (y : BitVec m) : (x ++ y).extractLsb' 0 m = y := by
  rw [extract_append_low _ _ _ _ (by omega)]; simp
theorem extract_append_left {k m : Nat} (x : BitVec k) (y : BitVec m) : (x ++ y).extractLsb' m k = x := by
  rw [extract_append_high _ _ _ _ (by omega)]; simp

@[simp] theorem bit_ofBit (b : Bool) : bit (ofBit b) = b := by cases b <;> rfl
@[simp] theorem ofBit_bit (b : BitVec 1) : ofBit (bit b) = b := by
  rcases (by revert b; decide : b = 0#1 ∨ b = 1#1) with h | h <;> subst h <;> rfl

@[simp] theorem fOp_packR (op : BitVec 6) (g : Guard) (d a b : BitVec 5) (fn : BitVec 7) : fOp (packR op g d a b fn) = op := by
  unfold fOp packR
  rw [extract_append_high _ _ _ _ (by decide), extract_append_high _ _ _ _ (by decide), extract_append_high _ _ _ _ (by decide), extract_append_high _ _ _ _ (by decide), extract_append_high _ _ _ _ (by decide), extract_append_high _ _ _ _ (by decide)]
  simp
@[simp] theorem fPr_packR (op : BitVec 6) (g : Guard) (d a b : BitVec 5) (fn : BitVec 7) : fPr (packR op g d a b fn) = g.p := by
  unfold fPr packR
  rw [extract_append_high _ _ _ _ (by decide), extract_append_high _ _ _ _ (by decide), extract_append_high _ _ _ _ (by decide), extract_append_high _ _ _ _ (by decide), extract_append_high _ _ _ _ (by decide), extract_append_low _ _ _ _ (by decide)]
  simp
@[simp] theorem fPn_packR (op : BitVec 6) (g : Guard) (d a b : BitVec 5) (fn : BitVec 7) : fPn (packR op g d a b fn) = ofBit g.n := by
  unfold fPn packR
  rw [extract_append_high _ _ _ _ (by decide), extract_append_high _ _ _ _ (by decide), extract_append_high _ _ _ _ (by decide), extract_append_high _ _ _ _ (by decide), extract_append_low _ _ _ _ (by decide)]
  simp
@[simp] theorem fD_packR (op : BitVec 6) (g : Guard) (d a b : BitVec 5) (fn : BitVec 7) : fD (packR op g d a b fn) = d := by
  unfold fD packR
  rw [extract_append_high _ _ _ _ (by decide), extract_append_high _ _ _ _ (by decide), extract_append_high _ _ _ _ (by decide), extract_append_low _ _ _ _ (by decide)]
  simp
@[simp] theorem fA_packR (op : BitVec 6) (g : Guard) (d a b : BitVec 5) (fn : BitVec 7) : fA (packR op g d a b fn) = a := by
  unfold fA packR
  rw [extract_append_high _ _ _ _ (by decide), extract_append_high _ _ _ _ (by decide), extract_append_low _ _ _ _ (by decide)]
  simp
@[simp] theorem fB_packR (op : BitVec 6) (g : Guard) (d a b : BitVec 5) (fn : BitVec 7) : fB (packR op g d a b fn) = b := by
  unfold fB packR
  rw [extract_append_high _ _ _ _ (by decide), extract_append_low _ _ _ _ (by decide)]
  simp
@[simp] theorem fFn_packR (op : BitVec 6) (g : Guard) (d a b : BitVec 5) (fn : BitVec 7) : fFn (packR op g d a b fn) = fn := by
  unfold fFn packR
  rw [extract_append_low _ _ _ _ (by decide)]
  simp
@[simp] theorem fG_packR (op : BitVec 6) (g : Guard) (d a b : BitVec 5) (fn : BitVec 7) : fG (packR op g d a b fn) = g := by simp [fG]

@[simp] theorem fOp_packI (op : BitVec 6) (g : Guard) (d a : BitVec 5) (i : BitVec 12) : fOp (packI op g d a i) = op := by
  unfold fOp packI
  rw [extract_append_high _ _ _ _ (by decide), extract_append_high _ _ _ _ (by decide), extract_append_high _ _ _ _ (by decide), extract_append_high _ _ _ _ (by decide), extract_append_high _ _ _ _ (by decide)]
  simp
@[simp] theorem fPr_packI (op : BitVec 6) (g : Guard) (d a : BitVec 5) (i : BitVec 12) : fPr (packI op g d a i) = g.p := by
  unfold fPr packI
  rw [extract_append_high _ _ _ _ (by decide), extract_append_high _ _ _ _ (by decide), extract_append_high _ _ _ _ (by decide), extract_append_high _ _ _ _ (by decide), extract_append_low _ _ _ _ (by decide)]
  simp
@[simp] theorem fPn_packI (op : BitVec 6) (g : Guard) (d a : BitVec 5) (i : BitVec 12) : fPn (packI op g d a i) = ofBit g.n := by
  unfold fPn packI
  rw [extract_append_high _ _ _ _ (by decide), extract_append_high _ _ _ _ (by decide), extract_append_high _ _ _ _ (by decide), extract_append_low _ _ _ _ (by decide)]
  simp
@[simp] theorem fD_packI (op : BitVec 6) (g : Guard) (d a : BitVec 5) (i : BitVec 12) : fD (packI op g d a i) = d := by
  unfold fD packI
  rw [extract_append_high _ _ _ _ (by decide), extract_append_high _ _ _ _ (by decide), extract_append_low _ _ _ _ (by decide)]
  simp
@[simp] theorem fA_packI (op : BitVec 6) (g : Guard) (d a : BitVec 5) (i : BitVec 12) : fA (packI op g d a i) = a := by
  unfold fA packI
  rw [extract_append_high _ _ _ _ (by decide), extract_append_low _ _ _ _ (by decide)]
  simp
@[simp] theorem fImm12_packI (op : BitVec 6) (g : Guard) (d a : BitVec 5) (i : BitVec 12) : fImm12 (packI op g d a i) = i := by
  unfold fImm12 packI
  rw [extract_append_low _ _ _ _ (by decide)]
  simp
@[simp] theorem fOff6_packI (op : BitVec 6) (g : Guard) (d a : BitVec 5) (i : BitVec 12) : fOff6 (packI op g d a i) = i.extractLsb' 0 6 := by
  unfold fOff6 packI
  rw [extract_append_low _ _ _ _ (by decide)]
@[simp] theorem fImm8_packI (op : BitVec 6) (g : Guard) (d a : BitVec 5) (i : BitVec 12) : fImm8 (packI op g d a i) = i.extractLsb' 0 8 := by
  unfold fImm8 packI
  rw [extract_append_low _ _ _ _ (by decide)]
@[simp] theorem fG_packI (op : BitVec 6) (g : Guard) (d a : BitVec 5) (i : BitVec 12) : fG (packI op g d a i) = g := by simp [fG]

@[simp] theorem fOp_packL (op : BitVec 6) (g : Guard) (d : BitVec 5) (i : BitVec 17) : fOp (packL op g d i) = op := by
  unfold fOp packL
  rw [extract_append_high _ _ _ _ (by decide), extract_append_high _ _ _ _ (by decide), extract_append_high _ _ _ _ (by decide), extract_append_high _ _ _ _ (by decide)]
  simp
@[simp] theorem fPr_packL (op : BitVec 6) (g : Guard) (d : BitVec 5) (i : BitVec 17) : fPr (packL op g d i) = g.p := by
  unfold fPr packL
  rw [extract_append_high _ _ _ _ (by decide), extract_append_high _ _ _ _ (by decide), extract_append_high _ _ _ _ (by decide), extract_append_low _ _ _ _ (by decide)]
  simp
@[simp] theorem fPn_packL (op : BitVec 6) (g : Guard) (d : BitVec 5) (i : BitVec 17) : fPn (packL op g d i) = ofBit g.n := by
  unfold fPn packL
  rw [extract_append_high _ _ _ _ (by decide), extract_append_high _ _ _ _ (by decide), extract_append_low _ _ _ _ (by decide)]
  simp
@[simp] theorem fD_packL (op : BitVec 6) (g : Guard) (d : BitVec 5) (i : BitVec 17) : fD (packL op g d i) = d := by
  unfold fD packL
  rw [extract_append_high _ _ _ _ (by decide), extract_append_low _ _ _ _ (by decide)]
  simp
@[simp] theorem fImm17_packL (op : BitVec 6) (g : Guard) (d : BitVec 5) (i : BitVec 17) : fImm17 (packL op g d i) = i := by
  unfold fImm17 packL
  rw [extract_append_low _ _ _ _ (by decide)]
  simp
@[simp] theorem fG_packL (op : BitVec 6) (g : Guard) (d : BitVec 5) (i : BitVec 17) : fG (packL op g d i) = g := by simp [fG]

@[simp] theorem fOp_packB (op : BitVec 6) (p : BitVec 3) (n : Bool) (l : BitVec 3) (o : BitVec 19) : fOp (packB op p n l o) = op := by
  unfold fOp packB
  rw [extract_append_high _ _ _ _ (by decide), extract_append_high _ _ _ _ (by decide), extract_append_high _ _ _ _ (by decide), extract_append_high _ _ _ _ (by decide)]
  simp
@[simp] theorem fPr_packB (op : BitVec 6) (p : BitVec 3) (n : Bool) (l : BitVec 3) (o : BitVec 19) : fPr (packB op p n l o) = p := by
  unfold fPr packB
  rw [extract_append_high _ _ _ _ (by decide), extract_append_high _ _ _ _ (by decide), extract_append_high _ _ _ _ (by decide), extract_append_low _ _ _ _ (by decide)]
  simp
@[simp] theorem fPn_packB (op : BitVec 6) (p : BitVec 3) (n : Bool) (l : BitVec 3) (o : BitVec 19) : fPn (packB op p n l o) = ofBit n := by
  unfold fPn packB
  rw [extract_append_high _ _ _ _ (by decide), extract_append_high _ _ _ _ (by decide), extract_append_low _ _ _ _ (by decide)]
  simp
@[simp] theorem fLn_packB (op : BitVec 6) (p : BitVec 3) (n : Bool) (l : BitVec 3) (o : BitVec 19) : fLn (packB op p n l o) = l := by
  unfold fLn packB
  rw [extract_append_high _ _ _ _ (by decide), extract_append_low _ _ _ _ (by decide)]
  simp
@[simp] theorem fOff19_packB (op : BitVec 6) (p : BitVec 3) (n : Bool) (l : BitVec 3) (o : BitVec 19) : fOff19 (packB op p n l o) = o := by
  unfold fOff19 packB
  rw [extract_append_low _ _ _ _ (by decide)]
  simp
@[simp] theorem fG_packB (op : BitVec 6) (p : BitVec 3) (n : Bool) (l : BitVec 3) (o : BitVec 19) : fG (packB op p n l o) = ⟨p, n⟩ := by simp [fG]

@[simp] theorem fOp_packM (op : BitVec 6) (g : Guard) (d a : BitVec 5) (c : BitVec 4) (z : BitVec 2) (o : BitVec 6) : fOp (packM op g d a c z o) = op := by
  unfold fOp packM
  rw [extract_append_high _ _ _ _ (by decide), extract_append_high _ _ _ _ (by decide), extract_append_high _ _ _ _ (by decide), extract_append_high _ _ _ _ (by decide), extract_append_high _ _ _ _ (by decide), extract_append_high _ _ _ _ (by decide), extract_append_high _ _ _ _ (by decide)]
  simp
@[simp] theorem fPr_packM (op : BitVec 6) (g : Guard) (d a : BitVec 5) (c : BitVec 4) (z : BitVec 2) (o : BitVec 6) : fPr (packM op g d a c z o) = g.p := by
  unfold fPr packM
  rw [extract_append_high _ _ _ _ (by decide), extract_append_high _ _ _ _ (by decide), extract_append_high _ _ _ _ (by decide), extract_append_high _ _ _ _ (by decide), extract_append_high _ _ _ _ (by decide), extract_append_high _ _ _ _ (by decide), extract_append_low _ _ _ _ (by decide)]
  simp
@[simp] theorem fPn_packM (op : BitVec 6) (g : Guard) (d a : BitVec 5) (c : BitVec 4) (z : BitVec 2) (o : BitVec 6) : fPn (packM op g d a c z o) = ofBit g.n := by
  unfold fPn packM
  rw [extract_append_high _ _ _ _ (by decide), extract_append_high _ _ _ _ (by decide), extract_append_high _ _ _ _ (by decide), extract_append_high _ _ _ _ (by decide), extract_append_high _ _ _ _ (by decide), extract_append_low _ _ _ _ (by decide)]
  simp
@[simp] theorem fD_packM (op : BitVec 6) (g : Guard) (d a : BitVec 5) (c : BitVec 4) (z : BitVec 2) (o : BitVec 6) : fD (packM op g d a c z o) = d := by
  unfold fD packM
  rw [extract_append_high _ _ _ _ (by decide), extract_append_high _ _ _ _ (by decide), extract_append_high _ _ _ _ (by decide), extract_append_high _ _ _ _ (by decide), extract_append_low _ _ _ _ (by decide)]
  simp
@[simp] theorem fA_packM (op : BitVec 6) (g : Guard) (d a : BitVec 5) (c : BitVec 4) (z : BitVec 2) (o : BitVec 6) : fA (packM op g d a c z o) = a := by
  unfold fA packM
  rw [extract_append_high _ _ _ _ (by decide), extract_append_high _ _ _ _ (by decide), extract_append_high _ _ _ _ (by decide), extract_append_low _ _ _ _ (by decide)]
  simp
@[simp] theorem fCls_packM (op : BitVec 6) (g : Guard) (d a : BitVec 5) (c : BitVec 4) (z : BitVec 2) (o : BitVec 6) : fCls (packM op g d a c z o) = c := by
  unfold fCls packM
  rw [extract_append_high _ _ _ _ (by decide), extract_append_high _ _ _ _ (by decide), extract_append_low _ _ _ _ (by decide)]
  simp
@[simp] theorem fSz_packM (op : BitVec 6) (g : Guard) (d a : BitVec 5) (c : BitVec 4) (z : BitVec 2) (o : BitVec 6) : fSz (packM op g d a c z o) = z := by
  unfold fSz packM
  rw [extract_append_high _ _ _ _ (by decide), extract_append_low _ _ _ _ (by decide)]
  simp
@[simp] theorem fOff6_packM (op : BitVec 6) (g : Guard) (d a : BitVec 5) (c : BitVec 4) (z : BitVec 2) (o : BitVec 6) : fOff6 (packM op g d a c z o) = o := by
  unfold fOff6 packM
  rw [extract_append_low _ _ _ _ (by decide)]
  simp
@[simp] theorem fG_packM (op : BitVec 6) (g : Guard) (d a : BitVec 5) (c : BitVec 4) (z : BitVec 2) (o : BitVec 6) : fG (packM op g d a c z o) = g := by simp [fG]

@[simp] theorem fOp_packV (op : BitVec 6) (k : MaskSel) (d a b : BitVec 5) (t : BitVec 4) (o : BitVec 3) : fOp (packV op k d a b t o) = op := by
  unfold fOp packV
  rw [extract_append_high _ _ _ _ (by decide), extract_append_high _ _ _ _ (by decide), extract_append_high _ _ _ _ (by decide), extract_append_high _ _ _ _ (by decide), extract_append_high _ _ _ _ (by decide), extract_append_high _ _ _ _ (by decide), extract_append_high _ _ _ _ (by decide)]
  simp
@[simp] theorem fPr_packV (op : BitVec 6) (k : MaskSel) (d a b : BitVec 5) (t : BitVec 4) (o : BitVec 3) : fPr (packV op k d a b t o) = k.m := by
  unfold fPr packV
  rw [extract_append_high _ _ _ _ (by decide), extract_append_high _ _ _ _ (by decide), extract_append_high _ _ _ _ (by decide), extract_append_high _ _ _ _ (by decide), extract_append_high _ _ _ _ (by decide), extract_append_high _ _ _ _ (by decide), extract_append_low _ _ _ _ (by decide)]
  simp
@[simp] theorem fPn_packV (op : BitVec 6) (k : MaskSel) (d a b : BitVec 5) (t : BitVec 4) (o : BitVec 3) : fPn (packV op k d a b t o) = ofBit k.z := by
  unfold fPn packV
  rw [extract_append_high _ _ _ _ (by decide), extract_append_high _ _ _ _ (by decide), extract_append_high _ _ _ _ (by decide), extract_append_high _ _ _ _ (by decide), extract_append_high _ _ _ _ (by decide), extract_append_low _ _ _ _ (by decide)]
  simp
@[simp] theorem fD_packV (op : BitVec 6) (k : MaskSel) (d a b : BitVec 5) (t : BitVec 4) (o : BitVec 3) : fD (packV op k d a b t o) = d := by
  unfold fD packV
  rw [extract_append_high _ _ _ _ (by decide), extract_append_high _ _ _ _ (by decide), extract_append_high _ _ _ _ (by decide), extract_append_high _ _ _ _ (by decide), extract_append_low _ _ _ _ (by decide)]
  simp
@[simp] theorem fA_packV (op : BitVec 6) (k : MaskSel) (d a b : BitVec 5) (t : BitVec 4) (o : BitVec 3) : fA (packV op k d a b t o) = a := by
  unfold fA packV
  rw [extract_append_high _ _ _ _ (by decide), extract_append_high _ _ _ _ (by decide), extract_append_high _ _ _ _ (by decide), extract_append_low _ _ _ _ (by decide)]
  simp
@[simp] theorem fB_packV (op : BitVec 6) (k : MaskSel) (d a b : BitVec 5) (t : BitVec 4) (o : BitVec 3) : fB (packV op k d a b t o) = b := by
  unfold fB packV
  rw [extract_append_high _ _ _ _ (by decide), extract_append_high _ _ _ _ (by decide), extract_append_low _ _ _ _ (by decide)]
  simp
@[simp] theorem fFn_packV (op : BitVec 6) (k : MaskSel) (d a b : BitVec 5) (t : BitVec 4) (o : BitVec 3) : fFn (packV op k d a b t o) = t ++ o := by
  unfold fFn packV
  apply BitVec.eq_of_getLsbD_eq
  intro i hi
  rw [BitVec.getLsbD_extractLsb', BitVec.getLsbD_append, BitVec.getLsbD_append,
    BitVec.getLsbD_append (x := t) (y := o)]
  have h5 : i - 3 < 4 := by omega
  by_cases h : i < 3 <;> simp only [hi, h, h5, Nat.zero_add, decide_true, Bool.true_and, if_true, if_false]
@[simp] theorem fM_packV (op : BitVec 6) (k : MaskSel) (d a b : BitVec 5) (t : BitVec 4) (o : BitVec 3) : fM (packV op k d a b t o) = k := by simp [fM]

@[simp] theorem fOp_packT (op : BitVec 6) (m : BitVec 3) (d a b : BitVec 5) (i : BitVec 8) : fOp (packT op m d a b i) = op := by
  unfold fOp packT
  rw [extract_append_high _ _ _ _ (by decide), extract_append_high _ _ _ _ (by decide), extract_append_high _ _ _ _ (by decide), extract_append_high _ _ _ _ (by decide), extract_append_high _ _ _ _ (by decide)]
  simp
@[simp] theorem fPr_packT (op : BitVec 6) (m : BitVec 3) (d a b : BitVec 5) (i : BitVec 8) : fPr (packT op m d a b i) = m := by
  unfold fPr packT
  rw [extract_append_high _ _ _ _ (by decide), extract_append_high _ _ _ _ (by decide), extract_append_high _ _ _ _ (by decide), extract_append_high _ _ _ _ (by decide), extract_append_low _ _ _ _ (by decide)]
  simp
@[simp] theorem fTd_packT (op : BitVec 6) (m : BitVec 3) (d a b : BitVec 5) (i : BitVec 8) : fTd (packT op m d a b i) = d := by
  unfold fTd packT
  rw [extract_append_high _ _ _ _ (by decide), extract_append_high _ _ _ _ (by decide), extract_append_high _ _ _ _ (by decide), extract_append_low _ _ _ _ (by decide)]
  simp
@[simp] theorem fTa_packT (op : BitVec 6) (m : BitVec 3) (d a b : BitVec 5) (i : BitVec 8) : fTa (packT op m d a b i) = a := by
  unfold fTa packT
  rw [extract_append_high _ _ _ _ (by decide), extract_append_high _ _ _ _ (by decide), extract_append_low _ _ _ _ (by decide)]
  simp
@[simp] theorem fTb_packT (op : BitVec 6) (m : BitVec 3) (d a b : BitVec 5) (i : BitVec 8) : fTb (packT op m d a b i) = b := by
  unfold fTb packT
  rw [extract_append_high _ _ _ _ (by decide), extract_append_low _ _ _ _ (by decide)]
  simp
@[simp] theorem fImm8_packT (op : BitVec 6) (m : BitVec 3) (d a b : BitVec 5) (i : BitVec 8) : fImm8 (packT op m d a b i) = i := by
  unfold fImm8 packT
  rw [extract_append_low _ _ _ _ (by decide)]
  simp

@[simp] theorem fOp_packK (op : BitVec 6) (g : Guard) (k : BitVec 3) (w s : BitVec 5) (x : BitVec 9) : fOp (packK op g k w s x) = op := by
  unfold fOp packK
  rw [extract_append_high _ _ _ _ (by decide), extract_append_high _ _ _ _ (by decide), extract_append_high _ _ _ _ (by decide), extract_append_high _ _ _ _ (by decide), extract_append_high _ _ _ _ (by decide), extract_append_high _ _ _ _ (by decide)]
  simp
@[simp] theorem fPr_packK (op : BitVec 6) (g : Guard) (k : BitVec 3) (w s : BitVec 5) (x : BitVec 9) : fPr (packK op g k w s x) = g.p := by
  unfold fPr packK
  rw [extract_append_high _ _ _ _ (by decide), extract_append_high _ _ _ _ (by decide), extract_append_high _ _ _ _ (by decide), extract_append_high _ _ _ _ (by decide), extract_append_high _ _ _ _ (by decide), extract_append_low _ _ _ _ (by decide)]
  simp
@[simp] theorem fPn_packK (op : BitVec 6) (g : Guard) (k : BitVec 3) (w s : BitVec 5) (x : BitVec 9) : fPn (packK op g k w s x) = ofBit g.n := by
  unfold fPn packK
  rw [extract_append_high _ _ _ _ (by decide), extract_append_high _ _ _ _ (by decide), extract_append_high _ _ _ _ (by decide), extract_append_high _ _ _ _ (by decide), extract_append_low _ _ _ _ (by decide)]
  simp
@[simp] theorem fKk_packK (op : BitVec 6) (g : Guard) (k : BitVec 3) (w s : BitVec 5) (x : BitVec 9) : fKk (packK op g k w s x) = k := by
  unfold fKk packK
  rw [extract_append_high _ _ _ _ (by decide), extract_append_high _ _ _ _ (by decide), extract_append_high _ _ _ _ (by decide), extract_append_low _ _ _ _ (by decide)]
  simp
@[simp] theorem fKw_packK (op : BitVec 6) (g : Guard) (k : BitVec 3) (w s : BitVec 5) (x : BitVec 9) : fKw (packK op g k w s x) = w := by
  unfold fKw packK
  rw [extract_append_high _ _ _ _ (by decide), extract_append_high _ _ _ _ (by decide), extract_append_low _ _ _ _ (by decide)]
  simp
@[simp] theorem fKs_packK (op : BitVec 6) (g : Guard) (k : BitVec 3) (w s : BitVec 5) (x : BitVec 9) : fKs (packK op g k w s x) = s := by
  unfold fKs packK
  rw [extract_append_high _ _ _ _ (by decide), extract_append_low _ _ _ _ (by decide)]
  simp
@[simp] theorem fKx_packK (op : BitVec 6) (g : Guard) (k : BitVec 3) (w s : BitVec 5) (x : BitVec 9) : fKx (packK op g k w s x) = x := by
  unfold fKx packK
  rw [extract_append_low _ _ _ _ (by decide)]
  simp
@[simp] theorem fG_packK (op : BitVec 6) (g : Guard) (k : BitVec 3) (w s : BitVec 5) (x : BitVec 9) : fG (packK op g k w s x) = g := by simp [fG]

@[simp] theorem fOp_packKI (op : BitVec 6) (g : Guard) (k : BitVec 3) (w : BitVec 5) (i : BitVec 14) : fOp (packKI op g k w i) = op := by
  unfold fOp packKI
  rw [extract_append_high _ _ _ _ (by decide), extract_append_high _ _ _ _ (by decide), extract_append_high _ _ _ _ (by decide), extract_append_high _ _ _ _ (by decide), extract_append_high _ _ _ _ (by decide)]
  simp
@[simp] theorem fPr_packKI (op : BitVec 6) (g : Guard) (k : BitVec 3) (w : BitVec 5) (i : BitVec 14) : fPr (packKI op g k w i) = g.p := by
  unfold fPr packKI
  rw [extract_append_high _ _ _ _ (by decide), extract_append_high _ _ _ _ (by decide), extract_append_high _ _ _ _ (by decide), extract_append_high _ _ _ _ (by decide), extract_append_low _ _ _ _ (by decide)]
  simp
@[simp] theorem fPn_packKI (op : BitVec 6) (g : Guard) (k : BitVec 3) (w : BitVec 5) (i : BitVec 14) : fPn (packKI op g k w i) = ofBit g.n := by
  unfold fPn packKI
  rw [extract_append_high _ _ _ _ (by decide), extract_append_high _ _ _ _ (by decide), extract_append_high _ _ _ _ (by decide), extract_append_low _ _ _ _ (by decide)]
  simp
@[simp] theorem fKk_packKI (op : BitVec 6) (g : Guard) (k : BitVec 3) (w : BitVec 5) (i : BitVec 14) : fKk (packKI op g k w i) = k := by
  unfold fKk packKI
  rw [extract_append_high _ _ _ _ (by decide), extract_append_high _ _ _ _ (by decide), extract_append_low _ _ _ _ (by decide)]
  simp
@[simp] theorem fKw_packKI (op : BitVec 6) (g : Guard) (k : BitVec 3) (w : BitVec 5) (i : BitVec 14) : fKw (packKI op g k w i) = w := by
  unfold fKw packKI
  rw [extract_append_high _ _ _ _ (by decide), extract_append_low _ _ _ _ (by decide)]
  simp
@[simp] theorem fImm14_packKI (op : BitVec 6) (g : Guard) (k : BitVec 3) (w : BitVec 5) (i : BitVec 14) : fImm14 (packKI op g k w i) = i := by
  unfold fImm14 packKI
  rw [extract_append_low _ _ _ _ (by decide)]
  simp
@[simp] theorem fG_packKI (op : BitVec 6) (g : Guard) (k : BitVec 3) (w : BitVec 5) (i : BitVec 14) : fG (packKI op g k w i) = g := by simp [fG]

/-- What the decoder does under each major opcode (R280). -/
theorem decodeWord_01 (w : LaneWord) (h : fOp w = 0x01#6) : decodeWord w = (decodeAlu w) := by
  unfold decodeWord; rw [h]; rfl
theorem decodeWord_02 (w : LaneWord) (h : fOp w = 0x02#6) : decodeWord w = (chk true (.addi (fG w) (fD w) (fA w) (fImm12 w))) := by
  unfold decodeWord; rw [h]; rfl
theorem decodeWord_03 (w : LaneWord) (h : fOp w = 0x03#6) : decodeWord w = (chk true (.andi (fG w) (fD w) (fA w) (fImm12 w))) := by
  unfold decodeWord; rw [h]; rfl
theorem decodeWord_04 (w : LaneWord) (h : fOp w = 0x04#6) : decodeWord w = (chk true (.ori (fG w) (fD w) (fA w) (fImm12 w))) := by
  unfold decodeWord; rw [h]; rfl
theorem decodeWord_05 (w : LaneWord) (h : fOp w = 0x05#6) : decodeWord w = (chk true (.xori (fG w) (fD w) (fA w) (fImm12 w))) := by
  unfold decodeWord; rw [h]; rfl
theorem decodeWord_06 (w : LaneWord) (h : fOp w = 0x06#6) : decodeWord w = (decodeShift w) := by
  unfold decodeWord; rw [h]; rfl
theorem decodeWord_07 (w : LaneWord) (h : fOp w = 0x07#6) : decodeWord w = (if (fFn w).extractLsb' 6 1 == 0 then chk true (.funl (fG w) (fD w) (fA w) (fB w) (fOff6 w)) else chk true (.funr (fG w) (fD w) (fA w) (fB w) (fOff6 w))) := by
  unfold decodeWord; rw [h]; rfl
theorem decodeWord_08 (w : LaneWord) (h : fOp w = 0x08#6) : decodeWord w = (chk ((fFn w).extractLsb' 6 1 == 0) (.cmp (fG w) ((fD w).extractLsb' 3 2) ((fD w).extractLsb' 0 3) (fA w) (fB w) ((fFn w).extractLsb' 4 2) ((fFn w).extractLsb' 0 4))) := by
  unfold decodeWord; rw [h]; rfl
theorem decodeWord_09 (w : LaneWord) (h : fOp w = 0x09#6) : decodeWord w = (chk true (.cmpi (fG w) ((fD w).extractLsb' 3 2) ((fD w).extractLsb' 0 3) (fA w) (fCls w) (fImm8 w))) := by
  unfold decodeWord; rw [h]; rfl
theorem decodeWord_0A (w : LaneWord) (h : fOp w = 0x0A#6) : decodeWord w = (chk true (.li (fG w) (fD w) (fImm17 w))) := by
  unfold decodeWord; rw [h]; rfl
theorem decodeWord_0B (w : LaneWord) (h : fOp w = 0x0B#6) : decodeWord w = (chk true (.lui (fG w) (fD w) (fImm17 w))) := by
  unfold decodeWord; rw [h]; rfl
theorem decodeWord_0C (w : LaneWord) (h : fOp w = 0x0C#6) : decodeWord w = (chk ((fD w).extractLsb' 3 2 == 0 && (fA w).extractLsb' 3 2 == 0 && (fB w).extractLsb' 3 2 == 0 && (fFn w).extractLsb' 4 3 == 0) (.plog (fG w) ((fD w).extractLsb' 0 3) ((fA w).extractLsb' 0 3) ((fB w).extractLsb' 0 3) ((fFn w).extractLsb' 0 4))) := by
  unfold decodeWord; rw [h]; rfl
theorem decodeWord_0D (w : LaneWord) (h : fOp w = 0x0D#6) : decodeWord w = (decodeAddr w) := by
  unfold decodeWord; rw [h]; rfl
theorem decodeWord_0E (w : LaneWord) (h : fOp w = 0x0E#6) : decodeWord w = (chk true (.addai (fG w) (fD w) (fA w) (fImm12 w))) := by
  unfold decodeWord; rw [h]; rfl
theorem decodeWord_10 (w : LaneWord) (h : fOp w = 0x10#6) : decodeWord w = (decodeFp w) := by
  unfold decodeWord; rw [h]; rfl
theorem decodeWord_11 (w : LaneWord) (h : fOp w = 0x11#6) : decodeWord w = (chk ((fFn w).extractLsb' 0 4 == 0) (.ffma (fG w) (fD w) (fA w) (fB w) ((fFn w).extractLsb' 4 3))) := by
  unfold decodeWord; rw [h]; rfl
theorem decodeWord_12 (w : LaneWord) (h : fOp w = 0x12#6) : decodeWord w = (chk ((fFn w).extractLsb' 3 1 == 0) (.fcmp (fG w) ((fD w).extractLsb' 3 2) ((fD w).extractLsb' 0 3) (fA w) (fB w) ((fFn w).extractLsb' 4 3) ((fFn w).extractLsb' 0 3))) := by
  unfold decodeWord; rw [h]; rfl
theorem decodeWord_13 (w : LaneWord) (h : fOp w = 0x13#6) : decodeWord w = (chk true (.fcvt (fG w) (fD w) (fA w) ((fB w).extractLsb' 1 4) (bit ((fB w).extractLsb' 0 1)) ((fFn w).extractLsb' 3 4) ((fFn w).extractLsb' 0 3))) := by
  unfold decodeWord; rw [h]; rfl
theorem decodeWord_14 (w : LaneWord) (h : fOp w = 0x14#6) : decodeWord w = (if fPr w == 0 && fPn w == 0 then chk true (.jmp (fLn w) (fOff19 w)) else chk true (.br (fG w) (fLn w) (fOff19 w))) := by
  unfold decodeWord; rw [h]; rfl
theorem decodeWord_15 (w : LaneWord) (h : fOp w = 0x15#6) : decodeWord w = (chk true (.call (fG w) (fLn w) (fOff19 w))) := by
  unfold decodeWord; rw [h]; rfl
theorem decodeWord_16 (w : LaneWord) (h : fOp w = 0x16#6) : decodeWord w = (decodeJump w) := by
  unfold decodeWord; rw [h]; rfl
theorem decodeWord_17 (w : LaneWord) (h : fOp w = 0x17#6) : decodeWord w = (chk true (.brx (fG w) (fLn w) (fOff19 w))) := by
  unfold decodeWord; rw [h]; rfl
theorem decodeWord_18 (w : LaneWord) (h : fOp w = 0x18#6) : decodeWord w = (if 3 ≤ (fPr w).toNat then .error .reserved else chk true (.brq (fPr w) (bit (fPn w)) (fLn w) (fOff19 w))) := by
  unfold decodeWord; rw [h]; rfl
theorem decodeWord_19 (w : LaneWord) (h : fOp w = 0x19#6) : decodeWord w = (chk ((fImm12 w).extractLsb' 0 9 == 0) (.loop (fG w) ((fD w).extractLsb' 1 4) (bit ((fD w).extractLsb' 0 1)) (fA w) ((fImm12 w).extractLsb' 9 3))) := by
  unfold decodeWord; rw [h]; rfl
theorem decodeWord_1A (w : LaneWord) (h : fOp w = 0x1A#6) : decodeWord w = (chk ((fA w) == 0 && fImm12 w == 0) (.endl (fG w) ((fD w).extractLsb' 1 4) (bit ((fD w).extractLsb' 0 1)))) := by
  unfold decodeWord; rw [h]; rfl
theorem decodeWord_1B (w : LaneWord) (h : fOp w = 0x1B#6) : decodeWord w = (chk true (.ld (fG w) (fD w) (fA w) (fCls w) (fSz w) (fOff6 w))) := by
  unfold decodeWord; rw [h]; rfl
theorem decodeWord_1C (w : LaneWord) (h : fOp w = 0x1C#6) : decodeWord w = (chk true (.lds (fG w) (fD w) (fA w) (fCls w) (fSz w) (fOff6 w))) := by
  unfold decodeWord; rw [h]; rfl
theorem decodeWord_1D (w : LaneWord) (h : fOp w = 0x1D#6) : decodeWord w = (chk true (.st (fG w) (fD w) (fA w) (fCls w) (fSz w) (fOff6 w))) := by
  unfold decodeWord; rw [h]; rfl
theorem decodeWord_1E (w : LaneWord) (h : fOp w = 0x1E#6) : decodeWord w = (chk ((fD w).extractLsb' 2 3 == 0 && fSz w == 3) (.ldq (fG w) ((fD w).extractLsb' 0 2) (fA w) (fCls w) (fOff6 w))) := by
  unfold decodeWord; rw [h]; rfl
theorem decodeWord_1F (w : LaneWord) (h : fOp w = 0x1F#6) : decodeWord w = (chk ((fD w) == 0) (.stq (fG w) (fA w) (fCls w) (fSz w) (fOff6 w))) := by
  unfold decodeWord; rw [h]; rfl
theorem decodeWord_20 (w : LaneWord) (h : fOp w = 0x20#6) : decodeWord w = (decodeVArith w) := by
  unfold decodeWord; rw [h]; rfl
theorem decodeWord_21 (w : LaneWord) (h : fOp w = 0x21#6) : decodeWord w = (chk (((fFn w).extractLsb' 0 3) == 0) (.vfma (fM w) (fD w) (fA w) (fB w) ((fFn w).extractLsb' 3 4))) := by
  unfold decodeWord; rw [h]; rfl
theorem decodeWord_22 (w : LaneWord) (h : fOp w = 0x22#6) : decodeWord w = (decodeVShift w) := by
  unfold decodeWord; rw [h]; rfl
theorem decodeWord_23 (w : LaneWord) (h : fOp w = 0x23#6) : decodeWord w = (chk true (.lut3 (fPr w) (fTd w) (fTa w) (fTb w) (fImm8 w))) := by
  unfold decodeWord; rw [h]; rfl
theorem decodeWord_24 (w : LaneWord) (h : fOp w = 0x24#6) : decodeWord w = (decodeVFunnel w) := by
  unfold decodeWord; rw [h]; rfl
theorem decodeWord_25 (w : LaneWord) (h : fOp w = 0x25#6) : decodeWord w = (chk (fPn w == 0 && (fD w).extractLsb' 3 2 == 0) (.vcmp (fPr w) ((fD w).extractLsb' 0 3) (fA w) (fB w) ((fFn w).extractLsb' 3 4) ((fFn w).extractLsb' 0 3))) := by
  unfold decodeWord; rw [h]; rfl
theorem decodeWord_26 (w : LaneWord) (h : fOp w = 0x26#6) : decodeWord w = (chk (fPn w == 0 && fFn w == 0) (.vsel (fPr w) (fD w) (fA w) (fB w))) := by
  unfold decodeWord; rw [h]; rfl
theorem decodeWord_27 (w : LaneWord) (h : fOp w = 0x27#6) : decodeWord w = (chk true (.vcvt (fM w) (fD w) (fA w) ((fB w).extractLsb' 1 4) (bit ((fB w).extractLsb' 0 1)) ((fFn w).extractLsb' 3 4) ((fFn w).extractLsb' 0 3))) := by
  unfold decodeWord; rw [h]; rfl
theorem decodeWord_28 (w : LaneWord) (h : fOp w = 0x28#6) : decodeWord w = (decodeVcvtb w) := by
  unfold decodeWord; rw [h]; rfl
theorem decodeWord_29 (w : LaneWord) (h : fOp w = 0x29#6) : decodeWord w = (chk (fPn w == 0 && (fB w) == 0) (.vred (fPr w) (fD w) (fA w) ((fFn w).extractLsb' 3 4) ((fFn w).extractLsb' 0 3))) := by
  unfold decodeWord; rw [h]; rfl
theorem decodeWord_2A (w : LaneWord) (h : fOp w = 0x2A#6) : decodeWord w = (chk ((fB w) == 0) (.vscan (fM w) (fD w) (fA w) ((fFn w).extractLsb' 3 4) ((fFn w).extractLsb' 0 3))) := by
  unfold decodeWord; rw [h]; rfl
theorem decodeWord_2B (w : LaneWord) (h : fOp w = 0x2B#6) : decodeWord w = (chk (fPn w == 0 && ((fFn w).extractLsb' 0 3).extractLsb' 0 1 == 0) (.vtopk (fPr w) (fD w) (fA w) (fB w) ((fFn w).extractLsb' 3 4) (((fFn w).extractLsb' 0 3).extractLsb' 1 2))) := by
  unfold decodeWord; rw [h]; rfl
theorem decodeWord_2C (w : LaneWord) (h : fOp w = 0x2C#6) : decodeWord w = (decodeVMove w) := by
  unfold decodeWord; rw [h]; rfl
theorem decodeWord_2D (w : LaneWord) (h : fOp w = 0x2D#6) : decodeWord w = (decodeVFunc w) := by
  unfold decodeWord; rw [h]; rfl
theorem decodeWord_2E (w : LaneWord) (h : fOp w = 0x2E#6) : decodeWord w = (chk (fFn w == 0 && (fA w) == 0 && (fB w) == 0) (.vrnd (fM w) (fD w))) := by
  unfold decodeWord; rw [h]; rfl
theorem decodeWord_2F (w : LaneWord) (h : fOp w = 0x2F#6) : decodeWord w = (decodeVBits w) := by
  unfold decodeWord; rw [h]; rfl
theorem decodeWord_30 (w : LaneWord) (h : fOp w = 0x30#6) : decodeWord w = (chk (fPn w == 0 && fSz w == 3) (.vld (bit ((fPr w).extractLsb' 2 1)) ((fPr w).extractLsb' 0 2) (fD w) (fA w) (fCls w) (fOff6 w))) := by
  unfold decodeWord; rw [h]; rfl
theorem decodeWord_31 (w : LaneWord) (h : fOp w = 0x31#6) : decodeWord w = (chk (fPn w == 0 && fSz w == 3) (.vst (bit ((fPr w).extractLsb' 2 1)) ((fPr w).extractLsb' 0 2) (fD w) (fA w) (fCls w) (fOff6 w))) := by
  unfold decodeWord; rw [h]; rfl
theorem decodeWord_32 (w : LaneWord) (h : fOp w = 0x32#6) : decodeWord w = (decodeK w) := by
  unfold decodeWord; rw [h]; rfl
theorem decodeWord_33 (w : LaneWord) (h : fOp w = 0x33#6) : decodeWord w = (chk true (.kseti (fG w) (fKk w) (fKw w) (fImm14 w))) := by
  unfold decodeWord; rw [h]; rfl
theorem decodeWord_34 (w : LaneWord) (h : fOp w = 0x34#6) : decodeWord w = (decodeRing w) := by
  unfold decodeWord; rw [h]; rfl
theorem decodeWord_35 (w : LaneWord) (h : fOp w = 0x35#6) : decodeWord w = (decodeQueue w) := by
  unfold decodeWord; rw [h]; rfl
theorem decodeWord_36 (w : LaneWord) (h : fOp w = 0x36#6) : decodeWord w = (decodeBank w) := by
  unfold decodeWord; rw [h]; rfl
theorem decodeWord_37 (w : LaneWord) (h : fOp w = 0x37#6) : decodeWord w = (decodeReuse w) := by
  unfold decodeWord; rw [h]; rfl
theorem decodeWord_38 (w : LaneWord) (h : fOp w = 0x38#6) : decodeWord w = (decodeCounter w) := by
  unfold decodeWord; rw [h]; rfl
theorem decodeWord_39 (w : LaneWord) (h : fOp w = 0x39#6) : decodeWord w = (decodeAmo w) := by
  unfold decodeWord; rw [h]; rfl
theorem decodeWord_3A (w : LaneWord) (h : fOp w = 0x3A#6) : decodeWord w = (decodeObject w) := by
  unfold decodeWord; rw [h]; rfl
theorem decodeWord_3B (w : LaneWord) (h : fOp w = 0x3B#6) : decodeWord w = (if (fImm17 w).extractLsb' 16 1 == 0 then chk ((fD w) == 0) (.fence (fG w) ((fImm17 w).extractLsb' 0 16)) else chk ((fD w) == 0 && (fImm17 w).extractLsb' 0 16 == 0) (.fencesc (fG w))) := by
  unfold decodeWord; rw [h]; rfl
theorem decodeWord_3C (w : LaneWord) (h : fOp w = 0x3C#6) : decodeWord w = (decodeSystem w) := by
  unfold decodeWord; rw [h]; rfl
theorem decodeWord_3D (w : LaneWord) (h : fOp w = 0x3D#6) : decodeWord w = (decodeGath w) := by
  unfold decodeWord; rw [h]; rfl
theorem decodeWord_3F (w : LaneWord) (h : fOp w = 0x3F#6) : decodeWord w = (chk true (.ximm (fImm26 w))) := by
  unfold decodeWord; rw [h]; rfl

end Sys2Proof
end

