-- ==== Sys2Proof/Laws/State.lean ====
section
/-! SUPPORT. What each update of the state leaves alone, one lemma per field, and what it writes. -/

namespace Sys2Proof.Machine

/-! ### Fields that an update leaves alone -/

@[simp] theorem State.setCore_mem (s : State) (c : Nat) (x : CoreState) : (s.setCore c x).mem = s.mem := rfl
@[simp] theorem State.setCore_damaged (s : State) (c : Nat) (x : CoreState) : (s.setCore c x).damaged = s.damaged := rfl
@[simp] theorem State.setCore_clusters (s : State) (c : Nat) (x : CoreState) : (s.setCore c x).clusters = s.clusters := rfl
@[simp] theorem State.setCore_dies (s : State) (c : Nat) (x : CoreState) : (s.setCore c x).dies = s.dies := rfl
@[simp] theorem State.setCore_tenants (s : State) (c : Nat) (x : CoreState) : (s.setCore c x).tenants = s.tenants := rfl
@[simp] theorem State.setCore_mod (s : State) (c : Nat) (x : CoreState) : (s.setCore c x).mod = s.mod := rfl
@[simp] theorem State.setCore_tick (s : State) (c : Nat) (x : CoreState) : (s.setCore c x).tick = s.tick := rfl
@[simp] theorem State.setCore_beat (s : State) (c : Nat) (x : CoreState) : (s.setCore c x).beat = s.beat := rfl
@[simp] theorem State.setCore_cycle (s : State) (c : Nat) (x : CoreState) : (s.setCore c x).cycle = s.cycle := rfl
@[simp] theorem State.setCore_hostReply (s : State) (c : Nat) (x : CoreState) : (s.setCore c x).hostReply = s.hostReply := rfl
@[simp] theorem State.setCore_script (s : State) (c : Nat) (x : CoreState) : (s.setCore c x).script = s.script := rfl
@[simp] theorem State.setCore_focusCore (s : State) (c : Nat) (x : CoreState) : (s.setCore c x).focusCore = s.focusCore := rfl
@[simp] theorem State.setCore_focusLane (s : State) (c : Nat) (x : CoreState) : (s.setCore c x).focusLane = s.focusLane := rfl
@[simp] theorem State.setCore_rotor (s : State) (c : Nat) (x : CoreState) : (s.setCore c x).rotor = s.rotor := rfl
@[simp] theorem State.setCore_fresh (s : State) (c : Nat) (x : CoreState) : (s.setCore c x).fresh = s.fresh := rfl
@[simp] theorem State.setCore_steps (s : State) (c : Nat) (x : CoreState) : (s.setCore c x).steps = s.steps := rfl

@[simp] theorem State.updCore_mem (s : State) (c : Nat) (f : CoreState → CoreState) : (s.updCore c f).mem = s.mem := rfl
@[simp] theorem State.updCore_damaged (s : State) (c : Nat) (f : CoreState → CoreState) : (s.updCore c f).damaged = s.damaged := rfl
@[simp] theorem State.updCore_clusters (s : State) (c : Nat) (f : CoreState → CoreState) : (s.updCore c f).clusters = s.clusters := rfl
@[simp] theorem State.updCore_dies (s : State) (c : Nat) (f : CoreState → CoreState) : (s.updCore c f).dies = s.dies := rfl
@[simp] theorem State.updCore_tenants (s : State) (c : Nat) (f : CoreState → CoreState) : (s.updCore c f).tenants = s.tenants := rfl
@[simp] theorem State.updCore_mod (s : State) (c : Nat) (f : CoreState → CoreState) : (s.updCore c f).mod = s.mod := rfl
@[simp] theorem State.updCore_tick (s : State) (c : Nat) (f : CoreState → CoreState) : (s.updCore c f).tick = s.tick := rfl
@[simp] theorem State.updCore_beat (s : State) (c : Nat) (f : CoreState → CoreState) : (s.updCore c f).beat = s.beat := rfl
@[simp] theorem State.updCore_cycle (s : State) (c : Nat) (f : CoreState → CoreState) : (s.updCore c f).cycle = s.cycle := rfl
@[simp] theorem State.updCore_hostReply (s : State) (c : Nat) (f : CoreState → CoreState) : (s.updCore c f).hostReply = s.hostReply := rfl
@[simp] theorem State.updCore_script (s : State) (c : Nat) (f : CoreState → CoreState) : (s.updCore c f).script = s.script := rfl
@[simp] theorem State.updCore_focusCore (s : State) (c : Nat) (f : CoreState → CoreState) : (s.updCore c f).focusCore = s.focusCore := rfl
@[simp] theorem State.updCore_focusLane (s : State) (c : Nat) (f : CoreState → CoreState) : (s.updCore c f).focusLane = s.focusLane := rfl
@[simp] theorem State.updCore_rotor (s : State) (c : Nat) (f : CoreState → CoreState) : (s.updCore c f).rotor = s.rotor := rfl
@[simp] theorem State.updCore_fresh (s : State) (c : Nat) (f : CoreState → CoreState) : (s.updCore c f).fresh = s.fresh := rfl
@[simp] theorem State.updCore_steps (s : State) (c : Nat) (f : CoreState → CoreState) : (s.updCore c f).steps = s.steps := rfl

@[simp] theorem State.updCluster_mem (s : State) (c : Nat) (f : ClusterState → ClusterState) : (s.updCluster c f).mem = s.mem := rfl
@[simp] theorem State.updCluster_damaged (s : State) (c : Nat) (f : ClusterState → ClusterState) : (s.updCluster c f).damaged = s.damaged := rfl
@[simp] theorem State.updCluster_cores (s : State) (c : Nat) (f : ClusterState → ClusterState) : (s.updCluster c f).cores = s.cores := rfl
@[simp] theorem State.updCluster_dies (s : State) (c : Nat) (f : ClusterState → ClusterState) : (s.updCluster c f).dies = s.dies := rfl
@[simp] theorem State.updCluster_tenants (s : State) (c : Nat) (f : ClusterState → ClusterState) : (s.updCluster c f).tenants = s.tenants := rfl
@[simp] theorem State.updCluster_mod (s : State) (c : Nat) (f : ClusterState → ClusterState) : (s.updCluster c f).mod = s.mod := rfl
@[simp] theorem State.updCluster_tick (s : State) (c : Nat) (f : ClusterState → ClusterState) : (s.updCluster c f).tick = s.tick := rfl
@[simp] theorem State.updCluster_beat (s : State) (c : Nat) (f : ClusterState → ClusterState) : (s.updCluster c f).beat = s.beat := rfl
@[simp] theorem State.updCluster_cycle (s : State) (c : Nat) (f : ClusterState → ClusterState) : (s.updCluster c f).cycle = s.cycle := rfl
@[simp] theorem State.updCluster_hostReply (s : State) (c : Nat) (f : ClusterState → ClusterState) : (s.updCluster c f).hostReply = s.hostReply := rfl
@[simp] theorem State.updCluster_script (s : State) (c : Nat) (f : ClusterState → ClusterState) : (s.updCluster c f).script = s.script := rfl
@[simp] theorem State.updCluster_focusCore (s : State) (c : Nat) (f : ClusterState → ClusterState) : (s.updCluster c f).focusCore = s.focusCore := rfl
@[simp] theorem State.updCluster_focusLane (s : State) (c : Nat) (f : ClusterState → ClusterState) : (s.updCluster c f).focusLane = s.focusLane := rfl
@[simp] theorem State.updCluster_rotor (s : State) (c : Nat) (f : ClusterState → ClusterState) : (s.updCluster c f).rotor = s.rotor := rfl
@[simp] theorem State.updCluster_fresh (s : State) (c : Nat) (f : ClusterState → ClusterState) : (s.updCluster c f).fresh = s.fresh := rfl
@[simp] theorem State.updCluster_steps (s : State) (c : Nat) (f : ClusterState → ClusterState) : (s.updCluster c f).steps = s.steps := rfl

@[simp] theorem State.updDie_mem (s : State) (d : Nat) (f : DieState → DieState) : (s.updDie d f).mem = s.mem := rfl
@[simp] theorem State.updDie_damaged (s : State) (d : Nat) (f : DieState → DieState) : (s.updDie d f).damaged = s.damaged := rfl
@[simp] theorem State.updDie_cores (s : State) (d : Nat) (f : DieState → DieState) : (s.updDie d f).cores = s.cores := rfl
@[simp] theorem State.updDie_clusters (s : State) (d : Nat) (f : DieState → DieState) : (s.updDie d f).clusters = s.clusters := rfl
@[simp] theorem State.updDie_tenants (s : State) (d : Nat) (f : DieState → DieState) : (s.updDie d f).tenants = s.tenants := rfl
@[simp] theorem State.updDie_mod (s : State) (d : Nat) (f : DieState → DieState) : (s.updDie d f).mod = s.mod := rfl
@[simp] theorem State.updDie_tick (s : State) (d : Nat) (f : DieState → DieState) : (s.updDie d f).tick = s.tick := rfl
@[simp] theorem State.updDie_beat (s : State) (d : Nat) (f : DieState → DieState) : (s.updDie d f).beat = s.beat := rfl
@[simp] theorem State.updDie_cycle (s : State) (d : Nat) (f : DieState → DieState) : (s.updDie d f).cycle = s.cycle := rfl
@[simp] theorem State.updDie_hostReply (s : State) (d : Nat) (f : DieState → DieState) : (s.updDie d f).hostReply = s.hostReply := rfl
@[simp] theorem State.updDie_script (s : State) (d : Nat) (f : DieState → DieState) : (s.updDie d f).script = s.script := rfl
@[simp] theorem State.updDie_focusCore (s : State) (d : Nat) (f : DieState → DieState) : (s.updDie d f).focusCore = s.focusCore := rfl
@[simp] theorem State.updDie_focusLane (s : State) (d : Nat) (f : DieState → DieState) : (s.updDie d f).focusLane = s.focusLane := rfl
@[simp] theorem State.updDie_rotor (s : State) (d : Nat) (f : DieState → DieState) : (s.updDie d f).rotor = s.rotor := rfl
@[simp] theorem State.updDie_fresh (s : State) (d : Nat) (f : DieState → DieState) : (s.updDie d f).fresh = s.fresh := rfl
@[simp] theorem State.updDie_steps (s : State) (d : Nat) (f : DieState → DieState) : (s.updDie d f).steps = s.steps := rfl

@[simp] theorem State.updTenant_mem (s : State) (t : Nat) (f : TenantState → TenantState) : (s.updTenant t f).mem = s.mem := rfl
@[simp] theorem State.updTenant_damaged (s : State) (t : Nat) (f : TenantState → TenantState) : (s.updTenant t f).damaged = s.damaged := rfl
@[simp] theorem State.updTenant_cores (s : State) (t : Nat) (f : TenantState → TenantState) : (s.updTenant t f).cores = s.cores := rfl
@[simp] theorem State.updTenant_clusters (s : State) (t : Nat) (f : TenantState → TenantState) : (s.updTenant t f).clusters = s.clusters := rfl
@[simp] theorem State.updTenant_dies (s : State) (t : Nat) (f : TenantState → TenantState) : (s.updTenant t f).dies = s.dies := rfl
@[simp] theorem State.updTenant_mod (s : State) (t : Nat) (f : TenantState → TenantState) : (s.updTenant t f).mod = s.mod := rfl
@[simp] theorem State.updTenant_tick (s : State) (t : Nat) (f : TenantState → TenantState) : (s.updTenant t f).tick = s.tick := rfl
@[simp] theorem State.updTenant_beat (s : State) (t : Nat) (f : TenantState → TenantState) : (s.updTenant t f).beat = s.beat := rfl
@[simp] theorem State.updTenant_cycle (s : State) (t : Nat) (f : TenantState → TenantState) : (s.updTenant t f).cycle = s.cycle := rfl
@[simp] theorem State.updTenant_hostReply (s : State) (t : Nat) (f : TenantState → TenantState) : (s.updTenant t f).hostReply = s.hostReply := rfl
@[simp] theorem State.updTenant_script (s : State) (t : Nat) (f : TenantState → TenantState) : (s.updTenant t f).script = s.script := rfl
@[simp] theorem State.updTenant_focusCore (s : State) (t : Nat) (f : TenantState → TenantState) : (s.updTenant t f).focusCore = s.focusCore := rfl
@[simp] theorem State.updTenant_focusLane (s : State) (t : Nat) (f : TenantState → TenantState) : (s.updTenant t f).focusLane = s.focusLane := rfl
@[simp] theorem State.updTenant_rotor (s : State) (t : Nat) (f : TenantState → TenantState) : (s.updTenant t f).rotor = s.rotor := rfl
@[simp] theorem State.updTenant_fresh (s : State) (t : Nat) (f : TenantState → TenantState) : (s.updTenant t f).fresh = s.fresh := rfl
@[simp] theorem State.updTenant_steps (s : State) (t : Nat) (f : TenantState → TenantState) : (s.updTenant t f).steps = s.steps := rfl

@[simp] theorem State.updMod_mem (s : State) (f : ModuleState → ModuleState) : (s.updMod f).mem = s.mem := rfl
@[simp] theorem State.updMod_damaged (s : State) (f : ModuleState → ModuleState) : (s.updMod f).damaged = s.damaged := rfl
@[simp] theorem State.updMod_cores (s : State) (f : ModuleState → ModuleState) : (s.updMod f).cores = s.cores := rfl
@[simp] theorem State.updMod_clusters (s : State) (f : ModuleState → ModuleState) : (s.updMod f).clusters = s.clusters := rfl
@[simp] theorem State.updMod_dies (s : State) (f : ModuleState → ModuleState) : (s.updMod f).dies = s.dies := rfl
@[simp] theorem State.updMod_tenants (s : State) (f : ModuleState → ModuleState) : (s.updMod f).tenants = s.tenants := rfl
@[simp] theorem State.updMod_tick (s : State) (f : ModuleState → ModuleState) : (s.updMod f).tick = s.tick := rfl
@[simp] theorem State.updMod_beat (s : State) (f : ModuleState → ModuleState) : (s.updMod f).beat = s.beat := rfl
@[simp] theorem State.updMod_cycle (s : State) (f : ModuleState → ModuleState) : (s.updMod f).cycle = s.cycle := rfl
@[simp] theorem State.updMod_hostReply (s : State) (f : ModuleState → ModuleState) : (s.updMod f).hostReply = s.hostReply := rfl
@[simp] theorem State.updMod_script (s : State) (f : ModuleState → ModuleState) : (s.updMod f).script = s.script := rfl
@[simp] theorem State.updMod_focusCore (s : State) (f : ModuleState → ModuleState) : (s.updMod f).focusCore = s.focusCore := rfl
@[simp] theorem State.updMod_focusLane (s : State) (f : ModuleState → ModuleState) : (s.updMod f).focusLane = s.focusLane := rfl
@[simp] theorem State.updMod_rotor (s : State) (f : ModuleState → ModuleState) : (s.updMod f).rotor = s.rotor := rfl
@[simp] theorem State.updMod_fresh (s : State) (f : ModuleState → ModuleState) : (s.updMod f).fresh = s.fresh := rfl
@[simp] theorem State.updMod_steps (s : State) (f : ModuleState → ModuleState) : (s.updMod f).steps = s.steps := rfl

@[simp] theorem State.updStr_mem (s : State) (c : Nat) (l : Lane) (f : StreamState → StreamState) : (s.updStr c l f).mem = s.mem := rfl
@[simp] theorem State.updStr_damaged (s : State) (c : Nat) (l : Lane) (f : StreamState → StreamState) : (s.updStr c l f).damaged = s.damaged := rfl
@[simp] theorem State.updStr_clusters (s : State) (c : Nat) (l : Lane) (f : StreamState → StreamState) : (s.updStr c l f).clusters = s.clusters := rfl
@[simp] theorem State.updStr_dies (s : State) (c : Nat) (l : Lane) (f : StreamState → StreamState) : (s.updStr c l f).dies = s.dies := rfl
@[simp] theorem State.updStr_tenants (s : State) (c : Nat) (l : Lane) (f : StreamState → StreamState) : (s.updStr c l f).tenants = s.tenants := rfl
@[simp] theorem State.updStr_mod (s : State) (c : Nat) (l : Lane) (f : StreamState → StreamState) : (s.updStr c l f).mod = s.mod := rfl
@[simp] theorem State.updStr_tick (s : State) (c : Nat) (l : Lane) (f : StreamState → StreamState) : (s.updStr c l f).tick = s.tick := rfl
@[simp] theorem State.updStr_beat (s : State) (c : Nat) (l : Lane) (f : StreamState → StreamState) : (s.updStr c l f).beat = s.beat := rfl
@[simp] theorem State.updStr_cycle (s : State) (c : Nat) (l : Lane) (f : StreamState → StreamState) : (s.updStr c l f).cycle = s.cycle := rfl
@[simp] theorem State.updStr_hostReply (s : State) (c : Nat) (l : Lane) (f : StreamState → StreamState) : (s.updStr c l f).hostReply = s.hostReply := rfl
@[simp] theorem State.updStr_script (s : State) (c : Nat) (l : Lane) (f : StreamState → StreamState) : (s.updStr c l f).script = s.script := rfl
@[simp] theorem State.updStr_focusCore (s : State) (c : Nat) (l : Lane) (f : StreamState → StreamState) : (s.updStr c l f).focusCore = s.focusCore := rfl
@[simp] theorem State.updStr_focusLane (s : State) (c : Nat) (l : Lane) (f : StreamState → StreamState) : (s.updStr c l f).focusLane = s.focusLane := rfl
@[simp] theorem State.updStr_rotor (s : State) (c : Nat) (l : Lane) (f : StreamState → StreamState) : (s.updStr c l f).rotor = s.rotor := rfl
@[simp] theorem State.updStr_fresh (s : State) (c : Nat) (l : Lane) (f : StreamState → StreamState) : (s.updStr c l f).fresh = s.fresh := rfl
@[simp] theorem State.updStr_steps (s : State) (c : Nat) (l : Lane) (f : StreamState → StreamState) : (s.updStr c l f).steps = s.steps := rfl

@[simp] theorem State.updMe_mem (s : State) (f : StreamState → StreamState) : (s.updMe f).mem = s.mem := rfl
@[simp] theorem State.updMe_damaged (s : State) (f : StreamState → StreamState) : (s.updMe f).damaged = s.damaged := rfl
@[simp] theorem State.updMe_clusters (s : State) (f : StreamState → StreamState) : (s.updMe f).clusters = s.clusters := rfl
@[simp] theorem State.updMe_dies (s : State) (f : StreamState → StreamState) : (s.updMe f).dies = s.dies := rfl
@[simp] theorem State.updMe_tenants (s : State) (f : StreamState → StreamState) : (s.updMe f).tenants = s.tenants := rfl
@[simp] theorem State.updMe_mod (s : State) (f : StreamState → StreamState) : (s.updMe f).mod = s.mod := rfl
@[simp] theorem State.updMe_tick (s : State) (f : StreamState → StreamState) : (s.updMe f).tick = s.tick := rfl
@[simp] theorem State.updMe_beat (s : State) (f : StreamState → StreamState) : (s.updMe f).beat = s.beat := rfl
@[simp] theorem State.updMe_cycle (s : State) (f : StreamState → StreamState) : (s.updMe f).cycle = s.cycle := rfl
@[simp] theorem State.updMe_hostReply (s : State) (f : StreamState → StreamState) : (s.updMe f).hostReply = s.hostReply := rfl
@[simp] theorem State.updMe_script (s : State) (f : StreamState → StreamState) : (s.updMe f).script = s.script := rfl
@[simp] theorem State.updMe_focusCore (s : State) (f : StreamState → StreamState) : (s.updMe f).focusCore = s.focusCore := rfl
@[simp] theorem State.updMe_focusLane (s : State) (f : StreamState → StreamState) : (s.updMe f).focusLane = s.focusLane := rfl
@[simp] theorem State.updMe_rotor (s : State) (f : StreamState → StreamState) : (s.updMe f).rotor = s.rotor := rfl
@[simp] theorem State.updMe_fresh (s : State) (f : StreamState → StreamState) : (s.updMe f).fresh = s.fresh := rfl
@[simp] theorem State.updMe_steps (s : State) (f : StreamState → StreamState) : (s.updMe f).steps = s.steps := rfl

@[simp] theorem State.updMyCore_mem (s : State) (f : CoreState → CoreState) : (s.updMyCore f).mem = s.mem := rfl
@[simp] theorem State.updMyCore_damaged (s : State) (f : CoreState → CoreState) : (s.updMyCore f).damaged = s.damaged := rfl
@[simp] theorem State.updMyCore_clusters (s : State) (f : CoreState → CoreState) : (s.updMyCore f).clusters = s.clusters := rfl
@[simp] theorem State.updMyCore_dies (s : State) (f : CoreState → CoreState) : (s.updMyCore f).dies = s.dies := rfl
@[simp] theorem State.updMyCore_tenants (s : State) (f : CoreState → CoreState) : (s.updMyCore f).tenants = s.tenants := rfl
@[simp] theorem State.updMyCore_mod (s : State) (f : CoreState → CoreState) : (s.updMyCore f).mod = s.mod := rfl
@[simp] theorem State.updMyCore_tick (s : State) (f : CoreState → CoreState) : (s.updMyCore f).tick = s.tick := rfl
@[simp] theorem State.updMyCore_beat (s : State) (f : CoreState → CoreState) : (s.updMyCore f).beat = s.beat := rfl
@[simp] theorem State.updMyCore_cycle (s : State) (f : CoreState → CoreState) : (s.updMyCore f).cycle = s.cycle := rfl
@[simp] theorem State.updMyCore_hostReply (s : State) (f : CoreState → CoreState) : (s.updMyCore f).hostReply = s.hostReply := rfl
@[simp] theorem State.updMyCore_script (s : State) (f : CoreState → CoreState) : (s.updMyCore f).script = s.script := rfl
@[simp] theorem State.updMyCore_focusCore (s : State) (f : CoreState → CoreState) : (s.updMyCore f).focusCore = s.focusCore := rfl
@[simp] theorem State.updMyCore_focusLane (s : State) (f : CoreState → CoreState) : (s.updMyCore f).focusLane = s.focusLane := rfl
@[simp] theorem State.updMyCore_rotor (s : State) (f : CoreState → CoreState) : (s.updMyCore f).rotor = s.rotor := rfl
@[simp] theorem State.updMyCore_fresh (s : State) (f : CoreState → CoreState) : (s.updMyCore f).fresh = s.fresh := rfl
@[simp] theorem State.updMyCore_steps (s : State) (f : CoreState → CoreState) : (s.updMyCore f).steps = s.steps := rfl

@[simp] theorem State.updBank_mem (s : State) (c b : Nat) (f : Bank → Bank) : (s.updBank c b f).mem = s.mem := rfl
@[simp] theorem State.updBank_damaged (s : State) (c b : Nat) (f : Bank → Bank) : (s.updBank c b f).damaged = s.damaged := rfl
@[simp] theorem State.updBank_cores (s : State) (c b : Nat) (f : Bank → Bank) : (s.updBank c b f).cores = s.cores := rfl
@[simp] theorem State.updBank_dies (s : State) (c b : Nat) (f : Bank → Bank) : (s.updBank c b f).dies = s.dies := rfl
@[simp] theorem State.updBank_tenants (s : State) (c b : Nat) (f : Bank → Bank) : (s.updBank c b f).tenants = s.tenants := rfl
@[simp] theorem State.updBank_mod (s : State) (c b : Nat) (f : Bank → Bank) : (s.updBank c b f).mod = s.mod := rfl
@[simp] theorem State.updBank_tick (s : State) (c b : Nat) (f : Bank → Bank) : (s.updBank c b f).tick = s.tick := rfl
@[simp] theorem State.updBank_beat (s : State) (c b : Nat) (f : Bank → Bank) : (s.updBank c b f).beat = s.beat := rfl
@[simp] theorem State.updBank_cycle (s : State) (c b : Nat) (f : Bank → Bank) : (s.updBank c b f).cycle = s.cycle := rfl
@[simp] theorem State.updBank_hostReply (s : State) (c b : Nat) (f : Bank → Bank) : (s.updBank c b f).hostReply = s.hostReply := rfl
@[simp] theorem State.updBank_script (s : State) (c b : Nat) (f : Bank → Bank) : (s.updBank c b f).script = s.script := rfl
@[simp] theorem State.updBank_focusCore (s : State) (c b : Nat) (f : Bank → Bank) : (s.updBank c b f).focusCore = s.focusCore := rfl
@[simp] theorem State.updBank_focusLane (s : State) (c b : Nat) (f : Bank → Bank) : (s.updBank c b f).focusLane = s.focusLane := rfl
@[simp] theorem State.updBank_rotor (s : State) (c b : Nat) (f : Bank → Bank) : (s.updBank c b f).rotor = s.rotor := rfl
@[simp] theorem State.updBank_fresh (s : State) (c b : Nat) (f : Bank → Bank) : (s.updBank c b f).fresh = s.fresh := rfl
@[simp] theorem State.updBank_steps (s : State) (c b : Nat) (f : Bank → Bank) : (s.updBank c b f).steps = s.steps := rfl

@[simp] theorem State.updAcc_mem (s : State) (c b : Nat) (f : AccBank → AccBank) : (s.updAcc c b f).mem = s.mem := rfl
@[simp] theorem State.updAcc_damaged (s : State) (c b : Nat) (f : AccBank → AccBank) : (s.updAcc c b f).damaged = s.damaged := rfl
@[simp] theorem State.updAcc_cores (s : State) (c b : Nat) (f : AccBank → AccBank) : (s.updAcc c b f).cores = s.cores := rfl
@[simp] theorem State.updAcc_dies (s : State) (c b : Nat) (f : AccBank → AccBank) : (s.updAcc c b f).dies = s.dies := rfl
@[simp] theorem State.updAcc_tenants (s : State) (c b : Nat) (f : AccBank → AccBank) : (s.updAcc c b f).tenants = s.tenants := rfl
@[simp] theorem State.updAcc_mod (s : State) (c b : Nat) (f : AccBank → AccBank) : (s.updAcc c b f).mod = s.mod := rfl
@[simp] theorem State.updAcc_tick (s : State) (c b : Nat) (f : AccBank → AccBank) : (s.updAcc c b f).tick = s.tick := rfl
@[simp] theorem State.updAcc_beat (s : State) (c b : Nat) (f : AccBank → AccBank) : (s.updAcc c b f).beat = s.beat := rfl
@[simp] theorem State.updAcc_cycle (s : State) (c b : Nat) (f : AccBank → AccBank) : (s.updAcc c b f).cycle = s.cycle := rfl
@[simp] theorem State.updAcc_hostReply (s : State) (c b : Nat) (f : AccBank → AccBank) : (s.updAcc c b f).hostReply = s.hostReply := rfl
@[simp] theorem State.updAcc_script (s : State) (c b : Nat) (f : AccBank → AccBank) : (s.updAcc c b f).script = s.script := rfl
@[simp] theorem State.updAcc_focusCore (s : State) (c b : Nat) (f : AccBank → AccBank) : (s.updAcc c b f).focusCore = s.focusCore := rfl
@[simp] theorem State.updAcc_focusLane (s : State) (c b : Nat) (f : AccBank → AccBank) : (s.updAcc c b f).focusLane = s.focusLane := rfl
@[simp] theorem State.updAcc_rotor (s : State) (c b : Nat) (f : AccBank → AccBank) : (s.updAcc c b f).rotor = s.rotor := rfl
@[simp] theorem State.updAcc_fresh (s : State) (c b : Nat) (f : AccBank → AccBank) : (s.updAcc c b f).fresh = s.fresh := rfl
@[simp] theorem State.updAcc_steps (s : State) (c b : Nat) (f : AccBank → AccBank) : (s.updAcc c b f).steps = s.steps := rfl

@[simp] theorem State.zeroLoc_cores (s : State) (k n : Nat) : (s.zeroLoc k n).cores = s.cores := rfl
@[simp] theorem State.zeroLoc_clusters (s : State) (k n : Nat) : (s.zeroLoc k n).clusters = s.clusters := rfl
@[simp] theorem State.zeroLoc_dies (s : State) (k n : Nat) : (s.zeroLoc k n).dies = s.dies := rfl
@[simp] theorem State.zeroLoc_tenants (s : State) (k n : Nat) : (s.zeroLoc k n).tenants = s.tenants := rfl
@[simp] theorem State.zeroLoc_mod (s : State) (k n : Nat) : (s.zeroLoc k n).mod = s.mod := rfl
@[simp] theorem State.zeroLoc_tick (s : State) (k n : Nat) : (s.zeroLoc k n).tick = s.tick := rfl
@[simp] theorem State.zeroLoc_beat (s : State) (k n : Nat) : (s.zeroLoc k n).beat = s.beat := rfl
@[simp] theorem State.zeroLoc_cycle (s : State) (k n : Nat) : (s.zeroLoc k n).cycle = s.cycle := rfl
@[simp] theorem State.zeroLoc_hostReply (s : State) (k n : Nat) : (s.zeroLoc k n).hostReply = s.hostReply := rfl
@[simp] theorem State.zeroLoc_script (s : State) (k n : Nat) : (s.zeroLoc k n).script = s.script := rfl
@[simp] theorem State.zeroLoc_focusCore (s : State) (k n : Nat) : (s.zeroLoc k n).focusCore = s.focusCore := rfl
@[simp] theorem State.zeroLoc_focusLane (s : State) (k n : Nat) : (s.zeroLoc k n).focusLane = s.focusLane := rfl
@[simp] theorem State.zeroLoc_rotor (s : State) (k n : Nat) : (s.zeroLoc k n).rotor = s.rotor := rfl
@[simp] theorem State.zeroLoc_fresh (s : State) (k n : Nat) : (s.zeroLoc k n).fresh = s.fresh := rfl
@[simp] theorem State.zeroLoc_steps (s : State) (k n : Nat) : (s.zeroLoc k n).steps = s.steps := rfl

@[simp] theorem State.repair_mem (s : State) (k n : Nat) : (s.repair k n).mem = s.mem := rfl
@[simp] theorem State.repair_cores (s : State) (k n : Nat) : (s.repair k n).cores = s.cores := rfl
@[simp] theorem State.repair_clusters (s : State) (k n : Nat) : (s.repair k n).clusters = s.clusters := rfl
@[simp] theorem State.repair_dies (s : State) (k n : Nat) : (s.repair k n).dies = s.dies := rfl
@[simp] theorem State.repair_tenants (s : State) (k n : Nat) : (s.repair k n).tenants = s.tenants := rfl
@[simp] theorem State.repair_mod (s : State) (k n : Nat) : (s.repair k n).mod = s.mod := rfl
@[simp] theorem State.repair_tick (s : State) (k n : Nat) : (s.repair k n).tick = s.tick := rfl
@[simp] theorem State.repair_beat (s : State) (k n : Nat) : (s.repair k n).beat = s.beat := rfl
@[simp] theorem State.repair_cycle (s : State) (k n : Nat) : (s.repair k n).cycle = s.cycle := rfl
@[simp] theorem State.repair_hostReply (s : State) (k n : Nat) : (s.repair k n).hostReply = s.hostReply := rfl
@[simp] theorem State.repair_script (s : State) (k n : Nat) : (s.repair k n).script = s.script := rfl
@[simp] theorem State.repair_focusCore (s : State) (k n : Nat) : (s.repair k n).focusCore = s.focusCore := rfl
@[simp] theorem State.repair_focusLane (s : State) (k n : Nat) : (s.repair k n).focusLane = s.focusLane := rfl
@[simp] theorem State.repair_rotor (s : State) (k n : Nat) : (s.repair k n).rotor = s.rotor := rfl
@[simp] theorem State.repair_fresh (s : State) (k n : Nat) : (s.repair k n).fresh = s.fresh := rfl
@[simp] theorem State.repair_steps (s : State) (k n : Nat) : (s.repair k n).steps = s.steps := rfl

@[simp] theorem State.passCycles_mem (s : State) (n : Nat) : (s.passCycles n).mem = s.mem := rfl
@[simp] theorem State.passCycles_damaged (s : State) (n : Nat) : (s.passCycles n).damaged = s.damaged := rfl
@[simp] theorem State.passCycles_cores (s : State) (n : Nat) : (s.passCycles n).cores = s.cores := rfl
@[simp] theorem State.passCycles_clusters (s : State) (n : Nat) : (s.passCycles n).clusters = s.clusters := rfl
@[simp] theorem State.passCycles_dies (s : State) (n : Nat) : (s.passCycles n).dies = s.dies := rfl
@[simp] theorem State.passCycles_tenants (s : State) (n : Nat) : (s.passCycles n).tenants = s.tenants := rfl
@[simp] theorem State.passCycles_mod (s : State) (n : Nat) : (s.passCycles n).mod = s.mod := rfl
@[simp] theorem State.passCycles_hostReply (s : State) (n : Nat) : (s.passCycles n).hostReply = s.hostReply := rfl
@[simp] theorem State.passCycles_script (s : State) (n : Nat) : (s.passCycles n).script = s.script := rfl
@[simp] theorem State.passCycles_focusCore (s : State) (n : Nat) : (s.passCycles n).focusCore = s.focusCore := rfl
@[simp] theorem State.passCycles_focusLane (s : State) (n : Nat) : (s.passCycles n).focusLane = s.focusLane := rfl
@[simp] theorem State.passCycles_rotor (s : State) (n : Nat) : (s.passCycles n).rotor = s.rotor := rfl
@[simp] theorem State.passCycles_fresh (s : State) (n : Nat) : (s.passCycles n).fresh = s.fresh := rfl
@[simp] theorem State.passCycles_steps (s : State) (n : Nat) : (s.passCycles n).steps = s.steps := rfl

/-! ### A stream -/

@[simp] theorem StreamState.ws_a (t : StreamState) (r : BitVec 5) (x : Word) : (t.ws r x).a = t.a := rfl
@[simp] theorem StreamState.ws_p (t : StreamState) (r : BitVec 5) (x : Word) : (t.ws r x).p = t.p := rfl
@[simp] theorem StreamState.ws_k (t : StreamState) (r : BitVec 5) (x : Word) : (t.ws r x).k = t.k := rfl
@[simp] theorem StreamState.ws_v (t : StreamState) (r : BitVec 5) (x : Word) : (t.ws r x).v = t.v := rfl
@[simp] theorem StreamState.ws_m (t : StreamState) (r : BitVec 5) (x : Word) : (t.ws r x).m = t.m := rfl
@[simp] theorem StreamState.ws_pc (t : StreamState) (r : BitVec 5) (x : Word) : (t.ws r x).pc = t.pc := rfl
@[simp] theorem StreamState.ws_ended (t : StreamState) (r : BitVec 5) (x : Word) : (t.ws r x).ended = t.ended := rfl
@[simp] theorem StreamState.ws_wait (t : StreamState) (r : BitVec 5) (x : Word) : (t.ws r x).wait = t.wait := rfl
@[simp] theorem StreamState.ws_halted (t : StreamState) (r : BitVec 5) (x : Word) : (t.ws r x).halted = t.halted := rfl
@[simp] theorem StreamState.ws_loops (t : StreamState) (r : BitVec 5) (x : Word) : (t.ws r x).loops = t.loops := rfl
@[simp] theorem StreamState.ws_fpctl (t : StreamState) (r : BitVec 5) (x : Word) : (t.ws r x).fpctl = t.fpctl := rfl
@[simp] theorem StreamState.ws_fpflags (t : StreamState) (r : BitVec 5) (x : Word) : (t.ws r x).fpflags = t.fpflags := rfl
@[simp] theorem StreamState.ws_seed (t : StreamState) (r : BitVec 5) (x : Word) : (t.ws r x).seed = t.seed := rfl
@[simp] theorem StreamState.ws_wstat (t : StreamState) (r : BitVec 5) (x : Word) : (t.ws r x).wstat = t.wstat := rfl
@[simp] theorem StreamState.ws_pushes (t : StreamState) (r : BitVec 5) (x : Word) : (t.ws r x).pushes = t.pushes := rfl
@[simp] theorem StreamState.ws_pops (t : StreamState) (r : BitVec 5) (x : Word) : (t.ws r x).pops = t.pops := rfl
@[simp] theorem StreamState.ws_mark (t : StreamState) (r : BitVec 5) (x : Word) : (t.ws r x).mark = t.mark := rfl
@[simp] theorem StreamState.ws_abandoned (t : StreamState) (r : BitVec 5) (x : Word) : (t.ws r x).abandoned = t.abandoned := rfl
@[simp] theorem StreamState.ws_earlier (t : StreamState) (r : BitVec 5) (x : Word) : (t.ws r x).earlier = t.earlier := rfl
@[simp] theorem StreamState.ws_granted (t : StreamState) (r : BitVec 5) (x : Word) : (t.ws r x).granted = t.granted := rfl
@[simp] theorem StreamState.ws_ibuf (t : StreamState) (r : BitVec 5) (x : Word) : (t.ws r x).ibuf = t.ibuf := rfl
@[simp] theorem StreamState.ws_worked (t : StreamState) (r : BitVec 5) (x : Word) : (t.ws r x).worked = t.worked := rfl
@[simp] theorem StreamState.ws_since (t : StreamState) (r : BitVec 5) (x : Word) : (t.ws r x).since = t.since := rfl
@[simp] theorem StreamState.ws_moved (t : StreamState) (r : BitVec 5) (x : Word) : (t.ws r x).moved = t.moved := rfl
@[simp] theorem StreamState.ws_fpUses (t : StreamState) (r : BitVec 5) (x : Word) : (t.ws r x).fpUses = t.fpUses := rfl
@[simp] theorem StreamState.ws_fpTop (t : StreamState) (r : BitVec 5) (x : Word) : (t.ws r x).fpTop = t.fpTop := rfl

@[simp] theorem StreamState.wa_s (t : StreamState) (r : BitVec 5) (x : Word) : (t.wa r x).s = t.s := rfl
@[simp] theorem StreamState.wa_p (t : StreamState) (r : BitVec 5) (x : Word) : (t.wa r x).p = t.p := rfl
@[simp] theorem StreamState.wa_k (t : StreamState) (r : BitVec 5) (x : Word) : (t.wa r x).k = t.k := rfl
@[simp] theorem StreamState.wa_v (t : StreamState) (r : BitVec 5) (x : Word) : (t.wa r x).v = t.v := rfl
@[simp] theorem StreamState.wa_m (t : StreamState) (r : BitVec 5) (x : Word) : (t.wa r x).m = t.m := rfl
@[simp] theorem StreamState.wa_pc (t : StreamState) (r : BitVec 5) (x : Word) : (t.wa r x).pc = t.pc := rfl
@[simp] theorem StreamState.wa_ended (t : StreamState) (r : BitVec 5) (x : Word) : (t.wa r x).ended = t.ended := rfl
@[simp] theorem StreamState.wa_wait (t : StreamState) (r : BitVec 5) (x : Word) : (t.wa r x).wait = t.wait := rfl
@[simp] theorem StreamState.wa_halted (t : StreamState) (r : BitVec 5) (x : Word) : (t.wa r x).halted = t.halted := rfl
@[simp] theorem StreamState.wa_loops (t : StreamState) (r : BitVec 5) (x : Word) : (t.wa r x).loops = t.loops := rfl
@[simp] theorem StreamState.wa_fpctl (t : StreamState) (r : BitVec 5) (x : Word) : (t.wa r x).fpctl = t.fpctl := rfl
@[simp] theorem StreamState.wa_fpflags (t : StreamState) (r : BitVec 5) (x : Word) : (t.wa r x).fpflags = t.fpflags := rfl
@[simp] theorem StreamState.wa_seed (t : StreamState) (r : BitVec 5) (x : Word) : (t.wa r x).seed = t.seed := rfl
@[simp] theorem StreamState.wa_wstat (t : StreamState) (r : BitVec 5) (x : Word) : (t.wa r x).wstat = t.wstat := rfl
@[simp] theorem StreamState.wa_pushes (t : StreamState) (r : BitVec 5) (x : Word) : (t.wa r x).pushes = t.pushes := rfl
@[simp] theorem StreamState.wa_pops (t : StreamState) (r : BitVec 5) (x : Word) : (t.wa r x).pops = t.pops := rfl
@[simp] theorem StreamState.wa_mark (t : StreamState) (r : BitVec 5) (x : Word) : (t.wa r x).mark = t.mark := rfl
@[simp] theorem StreamState.wa_abandoned (t : StreamState) (r : BitVec 5) (x : Word) : (t.wa r x).abandoned = t.abandoned := rfl
@[simp] theorem StreamState.wa_earlier (t : StreamState) (r : BitVec 5) (x : Word) : (t.wa r x).earlier = t.earlier := rfl
@[simp] theorem StreamState.wa_granted (t : StreamState) (r : BitVec 5) (x : Word) : (t.wa r x).granted = t.granted := rfl
@[simp] theorem StreamState.wa_ibuf (t : StreamState) (r : BitVec 5) (x : Word) : (t.wa r x).ibuf = t.ibuf := rfl
@[simp] theorem StreamState.wa_worked (t : StreamState) (r : BitVec 5) (x : Word) : (t.wa r x).worked = t.worked := rfl
@[simp] theorem StreamState.wa_since (t : StreamState) (r : BitVec 5) (x : Word) : (t.wa r x).since = t.since := rfl
@[simp] theorem StreamState.wa_moved (t : StreamState) (r : BitVec 5) (x : Word) : (t.wa r x).moved = t.moved := rfl
@[simp] theorem StreamState.wa_fpUses (t : StreamState) (r : BitVec 5) (x : Word) : (t.wa r x).fpUses = t.fpUses := rfl
@[simp] theorem StreamState.wa_fpTop (t : StreamState) (r : BitVec 5) (x : Word) : (t.wa r x).fpTop = t.fpTop := rfl

@[simp] theorem StreamState.wv_s (t : StreamState) (r : BitVec 5) (x : Vec) : (t.wv r x).s = t.s := rfl
@[simp] theorem StreamState.wv_a (t : StreamState) (r : BitVec 5) (x : Vec) : (t.wv r x).a = t.a := rfl
@[simp] theorem StreamState.wv_p (t : StreamState) (r : BitVec 5) (x : Vec) : (t.wv r x).p = t.p := rfl
@[simp] theorem StreamState.wv_k (t : StreamState) (r : BitVec 5) (x : Vec) : (t.wv r x).k = t.k := rfl
@[simp] theorem StreamState.wv_m (t : StreamState) (r : BitVec 5) (x : Vec) : (t.wv r x).m = t.m := rfl
@[simp] theorem StreamState.wv_pc (t : StreamState) (r : BitVec 5) (x : Vec) : (t.wv r x).pc = t.pc := rfl
@[simp] theorem StreamState.wv_ended (t : StreamState) (r : BitVec 5) (x : Vec) : (t.wv r x).ended = t.ended := rfl
@[simp] theorem StreamState.wv_wait (t : StreamState) (r : BitVec 5) (x : Vec) : (t.wv r x).wait = t.wait := rfl
@[simp] theorem StreamState.wv_halted (t : StreamState) (r : BitVec 5) (x : Vec) : (t.wv r x).halted = t.halted := rfl
@[simp] theorem StreamState.wv_loops (t : StreamState) (r : BitVec 5) (x : Vec) : (t.wv r x).loops = t.loops := rfl
@[simp] theorem StreamState.wv_fpctl (t : StreamState) (r : BitVec 5) (x : Vec) : (t.wv r x).fpctl = t.fpctl := rfl
@[simp] theorem StreamState.wv_fpflags (t : StreamState) (r : BitVec 5) (x : Vec) : (t.wv r x).fpflags = t.fpflags := rfl
@[simp] theorem StreamState.wv_seed (t : StreamState) (r : BitVec 5) (x : Vec) : (t.wv r x).seed = t.seed := rfl
@[simp] theorem StreamState.wv_wstat (t : StreamState) (r : BitVec 5) (x : Vec) : (t.wv r x).wstat = t.wstat := rfl
@[simp] theorem StreamState.wv_pushes (t : StreamState) (r : BitVec 5) (x : Vec) : (t.wv r x).pushes = t.pushes := rfl
@[simp] theorem StreamState.wv_pops (t : StreamState) (r : BitVec 5) (x : Vec) : (t.wv r x).pops = t.pops := rfl
@[simp] theorem StreamState.wv_mark (t : StreamState) (r : BitVec 5) (x : Vec) : (t.wv r x).mark = t.mark := rfl
@[simp] theorem StreamState.wv_abandoned (t : StreamState) (r : BitVec 5) (x : Vec) : (t.wv r x).abandoned = t.abandoned := rfl
@[simp] theorem StreamState.wv_earlier (t : StreamState) (r : BitVec 5) (x : Vec) : (t.wv r x).earlier = t.earlier := rfl
@[simp] theorem StreamState.wv_granted (t : StreamState) (r : BitVec 5) (x : Vec) : (t.wv r x).granted = t.granted := rfl
@[simp] theorem StreamState.wv_ibuf (t : StreamState) (r : BitVec 5) (x : Vec) : (t.wv r x).ibuf = t.ibuf := rfl
@[simp] theorem StreamState.wv_worked (t : StreamState) (r : BitVec 5) (x : Vec) : (t.wv r x).worked = t.worked := rfl
@[simp] theorem StreamState.wv_since (t : StreamState) (r : BitVec 5) (x : Vec) : (t.wv r x).since = t.since := rfl
@[simp] theorem StreamState.wv_moved (t : StreamState) (r : BitVec 5) (x : Vec) : (t.wv r x).moved = t.moved := rfl
@[simp] theorem StreamState.wv_fpUses (t : StreamState) (r : BitVec 5) (x : Vec) : (t.wv r x).fpUses = t.fpUses := rfl
@[simp] theorem StreamState.wv_fpTop (t : StreamState) (r : BitVec 5) (x : Vec) : (t.wv r x).fpTop = t.fpTop := rfl

@[simp] theorem StreamState.wk_s (t : StreamState) (r : BitVec 3) (x : Vec) : (t.wk r x).s = t.s := rfl
@[simp] theorem StreamState.wk_a (t : StreamState) (r : BitVec 3) (x : Vec) : (t.wk r x).a = t.a := rfl
@[simp] theorem StreamState.wk_p (t : StreamState) (r : BitVec 3) (x : Vec) : (t.wk r x).p = t.p := rfl
@[simp] theorem StreamState.wk_v (t : StreamState) (r : BitVec 3) (x : Vec) : (t.wk r x).v = t.v := rfl
@[simp] theorem StreamState.wk_m (t : StreamState) (r : BitVec 3) (x : Vec) : (t.wk r x).m = t.m := rfl
@[simp] theorem StreamState.wk_pc (t : StreamState) (r : BitVec 3) (x : Vec) : (t.wk r x).pc = t.pc := rfl
@[simp] theorem StreamState.wk_ended (t : StreamState) (r : BitVec 3) (x : Vec) : (t.wk r x).ended = t.ended := rfl
@[simp] theorem StreamState.wk_wait (t : StreamState) (r : BitVec 3) (x : Vec) : (t.wk r x).wait = t.wait := rfl
@[simp] theorem StreamState.wk_halted (t : StreamState) (r : BitVec 3) (x : Vec) : (t.wk r x).halted = t.halted := rfl
@[simp] theorem StreamState.wk_loops (t : StreamState) (r : BitVec 3) (x : Vec) : (t.wk r x).loops = t.loops := rfl
@[simp] theorem StreamState.wk_fpctl (t : StreamState) (r : BitVec 3) (x : Vec) : (t.wk r x).fpctl = t.fpctl := rfl
@[simp] theorem StreamState.wk_fpflags (t : StreamState) (r : BitVec 3) (x : Vec) : (t.wk r x).fpflags = t.fpflags := rfl
@[simp] theorem StreamState.wk_seed (t : StreamState) (r : BitVec 3) (x : Vec) : (t.wk r x).seed = t.seed := rfl
@[simp] theorem StreamState.wk_wstat (t : StreamState) (r : BitVec 3) (x : Vec) : (t.wk r x).wstat = t.wstat := rfl
@[simp] theorem StreamState.wk_pushes (t : StreamState) (r : BitVec 3) (x : Vec) : (t.wk r x).pushes = t.pushes := rfl
@[simp] theorem StreamState.wk_pops (t : StreamState) (r : BitVec 3) (x : Vec) : (t.wk r x).pops = t.pops := rfl
@[simp] theorem StreamState.wk_mark (t : StreamState) (r : BitVec 3) (x : Vec) : (t.wk r x).mark = t.mark := rfl
@[simp] theorem StreamState.wk_abandoned (t : StreamState) (r : BitVec 3) (x : Vec) : (t.wk r x).abandoned = t.abandoned := rfl
@[simp] theorem StreamState.wk_earlier (t : StreamState) (r : BitVec 3) (x : Vec) : (t.wk r x).earlier = t.earlier := rfl
@[simp] theorem StreamState.wk_granted (t : StreamState) (r : BitVec 3) (x : Vec) : (t.wk r x).granted = t.granted := rfl
@[simp] theorem StreamState.wk_ibuf (t : StreamState) (r : BitVec 3) (x : Vec) : (t.wk r x).ibuf = t.ibuf := rfl
@[simp] theorem StreamState.wk_worked (t : StreamState) (r : BitVec 3) (x : Vec) : (t.wk r x).worked = t.worked := rfl
@[simp] theorem StreamState.wk_since (t : StreamState) (r : BitVec 3) (x : Vec) : (t.wk r x).since = t.since := rfl
@[simp] theorem StreamState.wk_moved (t : StreamState) (r : BitVec 3) (x : Vec) : (t.wk r x).moved = t.moved := rfl
@[simp] theorem StreamState.wk_fpUses (t : StreamState) (r : BitVec 3) (x : Vec) : (t.wk r x).fpUses = t.fpUses := rfl
@[simp] theorem StreamState.wk_fpTop (t : StreamState) (r : BitVec 3) (x : Vec) : (t.wk r x).fpTop = t.fpTop := rfl

@[simp] theorem StreamState.done_s (t : StreamState) : (t.done).s = t.s := rfl
@[simp] theorem StreamState.done_a (t : StreamState) : (t.done).a = t.a := rfl
@[simp] theorem StreamState.done_p (t : StreamState) : (t.done).p = t.p := rfl
@[simp] theorem StreamState.done_k (t : StreamState) : (t.done).k = t.k := rfl
@[simp] theorem StreamState.done_v (t : StreamState) : (t.done).v = t.v := rfl
@[simp] theorem StreamState.done_m (t : StreamState) : (t.done).m = t.m := rfl
@[simp] theorem StreamState.done_ended (t : StreamState) : (t.done).ended = t.ended := rfl
@[simp] theorem StreamState.done_halted (t : StreamState) : (t.done).halted = t.halted := rfl
@[simp] theorem StreamState.done_loops (t : StreamState) : (t.done).loops = t.loops := rfl
@[simp] theorem StreamState.done_fpctl (t : StreamState) : (t.done).fpctl = t.fpctl := rfl
@[simp] theorem StreamState.done_fpflags (t : StreamState) : (t.done).fpflags = t.fpflags := rfl
@[simp] theorem StreamState.done_seed (t : StreamState) : (t.done).seed = t.seed := rfl
@[simp] theorem StreamState.done_wstat (t : StreamState) : (t.done).wstat = t.wstat := rfl
@[simp] theorem StreamState.done_pushes (t : StreamState) : (t.done).pushes = t.pushes := rfl
@[simp] theorem StreamState.done_pops (t : StreamState) : (t.done).pops = t.pops := rfl
@[simp] theorem StreamState.done_mark (t : StreamState) : (t.done).mark = t.mark := rfl
@[simp] theorem StreamState.done_abandoned (t : StreamState) : (t.done).abandoned = t.abandoned := rfl
@[simp] theorem StreamState.done_earlier (t : StreamState) : (t.done).earlier = t.earlier := rfl
@[simp] theorem StreamState.done_granted (t : StreamState) : (t.done).granted = t.granted := rfl
@[simp] theorem StreamState.done_ibuf (t : StreamState) : (t.done).ibuf = t.ibuf := rfl
@[simp] theorem StreamState.done_worked (t : StreamState) : (t.done).worked = t.worked := rfl
@[simp] theorem StreamState.done_since (t : StreamState) : (t.done).since = t.since := rfl
@[simp] theorem StreamState.done_moved (t : StreamState) : (t.done).moved = t.moved := rfl
@[simp] theorem StreamState.done_fpUses (t : StreamState) : (t.done).fpUses = t.fpUses := rfl
@[simp] theorem StreamState.done_fpTop (t : StreamState) : (t.done).fpTop = t.fpTop := rfl

@[simp] theorem StreamState.doneAt_s (t : StreamState) (pc : Pc) : (t.doneAt pc).s = t.s := rfl
@[simp] theorem StreamState.doneAt_a (t : StreamState) (pc : Pc) : (t.doneAt pc).a = t.a := rfl
@[simp] theorem StreamState.doneAt_p (t : StreamState) (pc : Pc) : (t.doneAt pc).p = t.p := rfl
@[simp] theorem StreamState.doneAt_k (t : StreamState) (pc : Pc) : (t.doneAt pc).k = t.k := rfl
@[simp] theorem StreamState.doneAt_v (t : StreamState) (pc : Pc) : (t.doneAt pc).v = t.v := rfl
@[simp] theorem StreamState.doneAt_m (t : StreamState) (pc : Pc) : (t.doneAt pc).m = t.m := rfl
@[simp] theorem StreamState.doneAt_ended (t : StreamState) (pc : Pc) : (t.doneAt pc).ended = t.ended := rfl
@[simp] theorem StreamState.doneAt_halted (t : StreamState) (pc : Pc) : (t.doneAt pc).halted = t.halted := rfl
@[simp] theorem StreamState.doneAt_loops (t : StreamState) (pc : Pc) : (t.doneAt pc).loops = t.loops := rfl
@[simp] theorem StreamState.doneAt_fpctl (t : StreamState) (pc : Pc) : (t.doneAt pc).fpctl = t.fpctl := rfl
@[simp] theorem StreamState.doneAt_fpflags (t : StreamState) (pc : Pc) : (t.doneAt pc).fpflags = t.fpflags := rfl
@[simp] theorem StreamState.doneAt_seed (t : StreamState) (pc : Pc) : (t.doneAt pc).seed = t.seed := rfl
@[simp] theorem StreamState.doneAt_wstat (t : StreamState) (pc : Pc) : (t.doneAt pc).wstat = t.wstat := rfl
@[simp] theorem StreamState.doneAt_pushes (t : StreamState) (pc : Pc) : (t.doneAt pc).pushes = t.pushes := rfl
@[simp] theorem StreamState.doneAt_pops (t : StreamState) (pc : Pc) : (t.doneAt pc).pops = t.pops := rfl
@[simp] theorem StreamState.doneAt_mark (t : StreamState) (pc : Pc) : (t.doneAt pc).mark = t.mark := rfl
@[simp] theorem StreamState.doneAt_abandoned (t : StreamState) (pc : Pc) : (t.doneAt pc).abandoned = t.abandoned := rfl
@[simp] theorem StreamState.doneAt_earlier (t : StreamState) (pc : Pc) : (t.doneAt pc).earlier = t.earlier := rfl
@[simp] theorem StreamState.doneAt_granted (t : StreamState) (pc : Pc) : (t.doneAt pc).granted = t.granted := rfl
@[simp] theorem StreamState.doneAt_ibuf (t : StreamState) (pc : Pc) : (t.doneAt pc).ibuf = t.ibuf := rfl
@[simp] theorem StreamState.doneAt_worked (t : StreamState) (pc : Pc) : (t.doneAt pc).worked = t.worked := rfl
@[simp] theorem StreamState.doneAt_since (t : StreamState) (pc : Pc) : (t.doneAt pc).since = t.since := rfl
@[simp] theorem StreamState.doneAt_moved (t : StreamState) (pc : Pc) : (t.doneAt pc).moved = t.moved := rfl
@[simp] theorem StreamState.doneAt_fpUses (t : StreamState) (pc : Pc) : (t.doneAt pc).fpUses = t.fpUses := rfl
@[simp] theorem StreamState.doneAt_fpTop (t : StreamState) (pc : Pc) : (t.doneAt pc).fpTop = t.fpTop := rfl

@[simp] theorem StreamState.goto_s (t : StreamState) (l : Word) (i : BitVec 3) : (t.goto l i).s = t.s := rfl
@[simp] theorem StreamState.goto_a (t : StreamState) (l : Word) (i : BitVec 3) : (t.goto l i).a = t.a := rfl
@[simp] theorem StreamState.goto_p (t : StreamState) (l : Word) (i : BitVec 3) : (t.goto l i).p = t.p := rfl
@[simp] theorem StreamState.goto_k (t : StreamState) (l : Word) (i : BitVec 3) : (t.goto l i).k = t.k := rfl
@[simp] theorem StreamState.goto_v (t : StreamState) (l : Word) (i : BitVec 3) : (t.goto l i).v = t.v := rfl
@[simp] theorem StreamState.goto_m (t : StreamState) (l : Word) (i : BitVec 3) : (t.goto l i).m = t.m := rfl
@[simp] theorem StreamState.goto_ended (t : StreamState) (l : Word) (i : BitVec 3) : (t.goto l i).ended = t.ended := rfl
@[simp] theorem StreamState.goto_halted (t : StreamState) (l : Word) (i : BitVec 3) : (t.goto l i).halted = t.halted := rfl
@[simp] theorem StreamState.goto_loops (t : StreamState) (l : Word) (i : BitVec 3) : (t.goto l i).loops = t.loops := rfl
@[simp] theorem StreamState.goto_fpctl (t : StreamState) (l : Word) (i : BitVec 3) : (t.goto l i).fpctl = t.fpctl := rfl
@[simp] theorem StreamState.goto_fpflags (t : StreamState) (l : Word) (i : BitVec 3) : (t.goto l i).fpflags = t.fpflags := rfl
@[simp] theorem StreamState.goto_seed (t : StreamState) (l : Word) (i : BitVec 3) : (t.goto l i).seed = t.seed := rfl
@[simp] theorem StreamState.goto_wstat (t : StreamState) (l : Word) (i : BitVec 3) : (t.goto l i).wstat = t.wstat := rfl
@[simp] theorem StreamState.goto_pushes (t : StreamState) (l : Word) (i : BitVec 3) : (t.goto l i).pushes = t.pushes := rfl
@[simp] theorem StreamState.goto_pops (t : StreamState) (l : Word) (i : BitVec 3) : (t.goto l i).pops = t.pops := rfl
@[simp] theorem StreamState.goto_mark (t : StreamState) (l : Word) (i : BitVec 3) : (t.goto l i).mark = t.mark := rfl
@[simp] theorem StreamState.goto_abandoned (t : StreamState) (l : Word) (i : BitVec 3) : (t.goto l i).abandoned = t.abandoned := rfl
@[simp] theorem StreamState.goto_earlier (t : StreamState) (l : Word) (i : BitVec 3) : (t.goto l i).earlier = t.earlier := rfl
@[simp] theorem StreamState.goto_granted (t : StreamState) (l : Word) (i : BitVec 3) : (t.goto l i).granted = t.granted := rfl
@[simp] theorem StreamState.goto_ibuf (t : StreamState) (l : Word) (i : BitVec 3) : (t.goto l i).ibuf = t.ibuf := rfl
@[simp] theorem StreamState.goto_worked (t : StreamState) (l : Word) (i : BitVec 3) : (t.goto l i).worked = t.worked := rfl
@[simp] theorem StreamState.goto_since (t : StreamState) (l : Word) (i : BitVec 3) : (t.goto l i).since = t.since := rfl
@[simp] theorem StreamState.goto_moved (t : StreamState) (l : Word) (i : BitVec 3) : (t.goto l i).moved = t.moved := rfl
@[simp] theorem StreamState.goto_fpUses (t : StreamState) (l : Word) (i : BitVec 3) : (t.goto l i).fpUses = t.fpUses := rfl
@[simp] theorem StreamState.goto_fpTop (t : StreamState) (l : Word) (i : BitVec 3) : (t.goto l i).fpTop = t.fpTop := rfl

@[simp] theorem StreamState.stalls_s (t : StreamState) (w : Wait) : (t.stalls w).s = t.s := rfl
@[simp] theorem StreamState.stalls_a (t : StreamState) (w : Wait) : (t.stalls w).a = t.a := rfl
@[simp] theorem StreamState.stalls_p (t : StreamState) (w : Wait) : (t.stalls w).p = t.p := rfl
@[simp] theorem StreamState.stalls_k (t : StreamState) (w : Wait) : (t.stalls w).k = t.k := rfl
@[simp] theorem StreamState.stalls_v (t : StreamState) (w : Wait) : (t.stalls w).v = t.v := rfl
@[simp] theorem StreamState.stalls_m (t : StreamState) (w : Wait) : (t.stalls w).m = t.m := rfl
@[simp] theorem StreamState.stalls_pc (t : StreamState) (w : Wait) : (t.stalls w).pc = t.pc := rfl
@[simp] theorem StreamState.stalls_ended (t : StreamState) (w : Wait) : (t.stalls w).ended = t.ended := rfl
@[simp] theorem StreamState.stalls_halted (t : StreamState) (w : Wait) : (t.stalls w).halted = t.halted := rfl
@[simp] theorem StreamState.stalls_loops (t : StreamState) (w : Wait) : (t.stalls w).loops = t.loops := rfl
@[simp] theorem StreamState.stalls_fpctl (t : StreamState) (w : Wait) : (t.stalls w).fpctl = t.fpctl := rfl
@[simp] theorem StreamState.stalls_fpflags (t : StreamState) (w : Wait) : (t.stalls w).fpflags = t.fpflags := rfl
@[simp] theorem StreamState.stalls_seed (t : StreamState) (w : Wait) : (t.stalls w).seed = t.seed := rfl
@[simp] theorem StreamState.stalls_wstat (t : StreamState) (w : Wait) : (t.stalls w).wstat = t.wstat := rfl
@[simp] theorem StreamState.stalls_pushes (t : StreamState) (w : Wait) : (t.stalls w).pushes = t.pushes := rfl
@[simp] theorem StreamState.stalls_pops (t : StreamState) (w : Wait) : (t.stalls w).pops = t.pops := rfl
@[simp] theorem StreamState.stalls_mark (t : StreamState) (w : Wait) : (t.stalls w).mark = t.mark := rfl
@[simp] theorem StreamState.stalls_abandoned (t : StreamState) (w : Wait) : (t.stalls w).abandoned = t.abandoned := rfl
@[simp] theorem StreamState.stalls_earlier (t : StreamState) (w : Wait) : (t.stalls w).earlier = t.earlier := rfl
@[simp] theorem StreamState.stalls_granted (t : StreamState) (w : Wait) : (t.stalls w).granted = t.granted := rfl
@[simp] theorem StreamState.stalls_ibuf (t : StreamState) (w : Wait) : (t.stalls w).ibuf = t.ibuf := rfl
@[simp] theorem StreamState.stalls_worked (t : StreamState) (w : Wait) : (t.stalls w).worked = t.worked := rfl
@[simp] theorem StreamState.stalls_since (t : StreamState) (w : Wait) : (t.stalls w).since = t.since := rfl
@[simp] theorem StreamState.stalls_moved (t : StreamState) (w : Wait) : (t.stalls w).moved = t.moved := rfl
@[simp] theorem StreamState.stalls_fpUses (t : StreamState) (w : Wait) : (t.stalls w).fpUses = t.fpUses := rfl
@[simp] theorem StreamState.stalls_fpTop (t : StreamState) (w : Wait) : (t.stalls w).fpTop = t.fpTop := rfl

@[simp] theorem StreamState.addPush_s (t : StreamState) (c n : Nat) : (t.addPush c n).s = t.s := rfl
@[simp] theorem StreamState.addPush_a (t : StreamState) (c n : Nat) : (t.addPush c n).a = t.a := rfl
@[simp] theorem StreamState.addPush_p (t : StreamState) (c n : Nat) : (t.addPush c n).p = t.p := rfl
@[simp] theorem StreamState.addPush_k (t : StreamState) (c n : Nat) : (t.addPush c n).k = t.k := rfl
@[simp] theorem StreamState.addPush_v (t : StreamState) (c n : Nat) : (t.addPush c n).v = t.v := rfl
@[simp] theorem StreamState.addPush_m (t : StreamState) (c n : Nat) : (t.addPush c n).m = t.m := rfl
@[simp] theorem StreamState.addPush_pc (t : StreamState) (c n : Nat) : (t.addPush c n).pc = t.pc := rfl
@[simp] theorem StreamState.addPush_ended (t : StreamState) (c n : Nat) : (t.addPush c n).ended = t.ended := rfl
@[simp] theorem StreamState.addPush_wait (t : StreamState) (c n : Nat) : (t.addPush c n).wait = t.wait := rfl
@[simp] theorem StreamState.addPush_halted (t : StreamState) (c n : Nat) : (t.addPush c n).halted = t.halted := rfl
@[simp] theorem StreamState.addPush_loops (t : StreamState) (c n : Nat) : (t.addPush c n).loops = t.loops := rfl
@[simp] theorem StreamState.addPush_fpctl (t : StreamState) (c n : Nat) : (t.addPush c n).fpctl = t.fpctl := rfl
@[simp] theorem StreamState.addPush_fpflags (t : StreamState) (c n : Nat) : (t.addPush c n).fpflags = t.fpflags := rfl
@[simp] theorem StreamState.addPush_seed (t : StreamState) (c n : Nat) : (t.addPush c n).seed = t.seed := rfl
@[simp] theorem StreamState.addPush_wstat (t : StreamState) (c n : Nat) : (t.addPush c n).wstat = t.wstat := rfl
@[simp] theorem StreamState.addPush_pops (t : StreamState) (c n : Nat) : (t.addPush c n).pops = t.pops := rfl
@[simp] theorem StreamState.addPush_mark (t : StreamState) (c n : Nat) : (t.addPush c n).mark = t.mark := rfl
@[simp] theorem StreamState.addPush_abandoned (t : StreamState) (c n : Nat) : (t.addPush c n).abandoned = t.abandoned := rfl
@[simp] theorem StreamState.addPush_earlier (t : StreamState) (c n : Nat) : (t.addPush c n).earlier = t.earlier := rfl
@[simp] theorem StreamState.addPush_granted (t : StreamState) (c n : Nat) : (t.addPush c n).granted = t.granted := rfl
@[simp] theorem StreamState.addPush_ibuf (t : StreamState) (c n : Nat) : (t.addPush c n).ibuf = t.ibuf := rfl
@[simp] theorem StreamState.addPush_worked (t : StreamState) (c n : Nat) : (t.addPush c n).worked = t.worked := rfl
@[simp] theorem StreamState.addPush_since (t : StreamState) (c n : Nat) : (t.addPush c n).since = t.since := rfl
@[simp] theorem StreamState.addPush_moved (t : StreamState) (c n : Nat) : (t.addPush c n).moved = t.moved := rfl
@[simp] theorem StreamState.addPush_fpUses (t : StreamState) (c n : Nat) : (t.addPush c n).fpUses = t.fpUses := rfl
@[simp] theorem StreamState.addPush_fpTop (t : StreamState) (c n : Nat) : (t.addPush c n).fpTop = t.fpTop := rfl

@[simp] theorem StreamState.useFp_s (t : StreamState) : t.useFp.s = t.s := rfl
@[simp] theorem StreamState.useFp_a (t : StreamState) : t.useFp.a = t.a := rfl
@[simp] theorem StreamState.useFp_p (t : StreamState) : t.useFp.p = t.p := rfl
@[simp] theorem StreamState.useFp_k (t : StreamState) : t.useFp.k = t.k := rfl
@[simp] theorem StreamState.useFp_v (t : StreamState) : t.useFp.v = t.v := rfl
@[simp] theorem StreamState.useFp_m (t : StreamState) : t.useFp.m = t.m := rfl
@[simp] theorem StreamState.useFp_pc (t : StreamState) : t.useFp.pc = t.pc := rfl
@[simp] theorem StreamState.useFp_ended (t : StreamState) : t.useFp.ended = t.ended := rfl
@[simp] theorem StreamState.useFp_wait (t : StreamState) : t.useFp.wait = t.wait := rfl
@[simp] theorem StreamState.useFp_halted (t : StreamState) : t.useFp.halted = t.halted := rfl
@[simp] theorem StreamState.useFp_loops (t : StreamState) : t.useFp.loops = t.loops := rfl
@[simp] theorem StreamState.useFp_fpctl (t : StreamState) : t.useFp.fpctl = t.fpctl := rfl
@[simp] theorem StreamState.useFp_fpflags (t : StreamState) : t.useFp.fpflags = t.fpflags := rfl
@[simp] theorem StreamState.useFp_seed (t : StreamState) : t.useFp.seed = t.seed := rfl
@[simp] theorem StreamState.useFp_wstat (t : StreamState) : t.useFp.wstat = t.wstat := rfl
@[simp] theorem StreamState.useFp_pushes (t : StreamState) : t.useFp.pushes = t.pushes := rfl
@[simp] theorem StreamState.useFp_pops (t : StreamState) : t.useFp.pops = t.pops := rfl
@[simp] theorem StreamState.useFp_mark (t : StreamState) : t.useFp.mark = t.mark := rfl
@[simp] theorem StreamState.useFp_earlier (t : StreamState) : t.useFp.earlier = t.earlier := rfl
@[simp] theorem StreamState.useFp_abandoned (t : StreamState) : t.useFp.abandoned = t.abandoned := rfl
@[simp] theorem StreamState.useFp_granted (t : StreamState) : t.useFp.granted = t.granted := rfl
@[simp] theorem StreamState.useFp_ibuf (t : StreamState) : t.useFp.ibuf = t.ibuf := rfl
@[simp] theorem StreamState.useFp_worked (t : StreamState) : t.useFp.worked = t.worked := rfl
@[simp] theorem StreamState.useFp_since (t : StreamState) : t.useFp.since = t.since := rfl
@[simp] theorem StreamState.useFp_moved (t : StreamState) : t.useFp.moved = t.moved := rfl

@[simp] theorem StreamState.setPop_s (t : StreamState) (c n : Nat) : (t.setPop c n).s = t.s := rfl
@[simp] theorem StreamState.setPop_a (t : StreamState) (c n : Nat) : (t.setPop c n).a = t.a := rfl
@[simp] theorem StreamState.setPop_p (t : StreamState) (c n : Nat) : (t.setPop c n).p = t.p := rfl
@[simp] theorem StreamState.setPop_k (t : StreamState) (c n : Nat) : (t.setPop c n).k = t.k := rfl
@[simp] theorem StreamState.setPop_v (t : StreamState) (c n : Nat) : (t.setPop c n).v = t.v := rfl
@[simp] theorem StreamState.setPop_m (t : StreamState) (c n : Nat) : (t.setPop c n).m = t.m := rfl
@[simp] theorem StreamState.setPop_pc (t : StreamState) (c n : Nat) : (t.setPop c n).pc = t.pc := rfl
@[simp] theorem StreamState.setPop_ended (t : StreamState) (c n : Nat) : (t.setPop c n).ended = t.ended := rfl
@[simp] theorem StreamState.setPop_wait (t : StreamState) (c n : Nat) : (t.setPop c n).wait = t.wait := rfl
@[simp] theorem StreamState.setPop_halted (t : StreamState) (c n : Nat) : (t.setPop c n).halted = t.halted := rfl
@[simp] theorem StreamState.setPop_loops (t : StreamState) (c n : Nat) : (t.setPop c n).loops = t.loops := rfl
@[simp] theorem StreamState.setPop_fpctl (t : StreamState) (c n : Nat) : (t.setPop c n).fpctl = t.fpctl := rfl
@[simp] theorem StreamState.setPop_fpflags (t : StreamState) (c n : Nat) : (t.setPop c n).fpflags = t.fpflags := rfl
@[simp] theorem StreamState.setPop_seed (t : StreamState) (c n : Nat) : (t.setPop c n).seed = t.seed := rfl
@[simp] theorem StreamState.setPop_wstat (t : StreamState) (c n : Nat) : (t.setPop c n).wstat = t.wstat := rfl
@[simp] theorem StreamState.setPop_pushes (t : StreamState) (c n : Nat) : (t.setPop c n).pushes = t.pushes := rfl
@[simp] theorem StreamState.setPop_mark (t : StreamState) (c n : Nat) : (t.setPop c n).mark = t.mark := rfl
@[simp] theorem StreamState.setPop_abandoned (t : StreamState) (c n : Nat) : (t.setPop c n).abandoned = t.abandoned := rfl
@[simp] theorem StreamState.setPop_earlier (t : StreamState) (c n : Nat) : (t.setPop c n).earlier = t.earlier := rfl
@[simp] theorem StreamState.setPop_granted (t : StreamState) (c n : Nat) : (t.setPop c n).granted = t.granted := rfl
@[simp] theorem StreamState.setPop_ibuf (t : StreamState) (c n : Nat) : (t.setPop c n).ibuf = t.ibuf := rfl
@[simp] theorem StreamState.setPop_worked (t : StreamState) (c n : Nat) : (t.setPop c n).worked = t.worked := rfl
@[simp] theorem StreamState.setPop_since (t : StreamState) (c n : Nat) : (t.setPop c n).since = t.since := rfl
@[simp] theorem StreamState.setPop_moved (t : StreamState) (c n : Nat) : (t.setPop c n).moved = t.moved := rfl
@[simp] theorem StreamState.setPop_fpUses (t : StreamState) (c n : Nat) : (t.setPop c n).fpUses = t.fpUses := rfl
@[simp] theorem StreamState.setPop_fpTop (t : StreamState) (c n : Nat) : (t.setPop c n).fpTop = t.fpTop := rfl

/-! ### Tables -/

theorem Tab.find_put {α : Type} (t : Tab α) (k : Nat) (x : α) (j : Nat) :
    (t.put k x).find j = if k = j then some x else t.find j := by
  induction t with
  | nil => simp only [Tab.put, Tab.find]
  | cons e t ih =>
    obtain ⟨i, y⟩ := e
    simp only [Tab.put]
    split
    · simp only [Tab.find]
    · split
      · subst i; simp only [Tab.find]; split <;> rfl
      · simp only [Tab.find, ih]
        by_cases hi : i = j
        · have : ¬ k = j := by omega
          simp [hi, this]
        · simp [hi]

@[simp] theorem Tab.at_put_self {α : Type} (t : Tab α) (k : Nat) (x d : α) : (t.put k x).at k d = x := by
  simp [Tab.at, Tab.find_put]

theorem Tab.at_put_ne {α : Type} (t : Tab α) {k j : Nat} (h : k ≠ j) (x d : α) : (t.put k x).at j d = t.at j d := by
  simp [Tab.at, Tab.find_put, h]

/-- A second write of a key replaces the first. -/
theorem Tab.put_put {α : Type} (t : Tab α) (k : Nat) (x y : α) : (t.put k x).put k y = t.put k y := by
  induction t with
  | nil => simp [Tab.put]
  | cons e t ih =>
    obtain ⟨i, z⟩ := e
    by_cases h1 : k < i
    · simp [Tab.put, h1]
    · by_cases h2 : k = i
      · simp [Tab.put, h2]
      · simp [Tab.put, h1, h2, ih]

/-! ### Reading back what was written -/

@[simp] theorem State.core_updCore (s : State) (c : Nat) (f : CoreState → CoreState) : (s.updCore c f).core c = f (s.core c) := by
  simp [State.updCore, State.setCore, State.core]

theorem State.core_updCore_ne (s : State) {c j : Nat} (h : c ≠ j) (f : CoreState → CoreState) :
    (s.updCore c f).core j = s.core j := by
  simp [State.updCore, State.setCore, State.core, Tab.at_put_ne _ h]

@[simp] theorem State.cluster_updCluster (s : State) (c : Nat) (f : ClusterState → ClusterState) :
    (s.updCluster c f).cluster c = f (s.cluster c) := by
  simp [State.updCluster, State.cluster]

theorem State.cluster_updCluster_ne (s : State) {c j : Nat} (h : c ≠ j) (f : ClusterState → ClusterState) :
    (s.updCluster c f).cluster j = s.cluster j := by
  simp [State.updCluster, State.cluster, Tab.at_put_ne _ h]

@[simp] theorem State.die_updDie (s : State) (d : Nat) (f : DieState → DieState) : (s.updDie d f).die d = f (s.die d) := by
  simp [State.updDie, State.die]

theorem State.die_updDie_ne (s : State) {d j : Nat} (h : d ≠ j) (f : DieState → DieState) : (s.updDie d f).die j = s.die j := by
  simp [State.updDie, State.die, Tab.at_put_ne _ h]

@[simp] theorem State.tenant_updTenant (s : State) (t : Nat) (f : TenantState → TenantState) :
    (s.updTenant t f).tenant t = f (s.tenant t) := by
  simp [State.updTenant, State.tenant]

theorem State.tenant_updTenant_ne (s : State) {t j : Nat} (h : t ≠ j) (f : TenantState → TenantState) :
    (s.updTenant t f).tenant j = s.tenant j := by
  simp [State.updTenant, State.tenant, Tab.at_put_ne _ h]

@[simp] theorem CoreState.str_setStr (k : CoreState) (l : Lane) (t : StreamState) : (k.setStr l t).str l = t := by
  cases l <;> rfl

theorem CoreState.str_setStr_ne (k : CoreState) {l j : Lane} (h : l ≠ j) (t : StreamState) : (k.setStr l t).str j = k.str j := by
  cases l <;> cases j <;> first | rfl | exact absurd rfl h

@[simp] theorem State.fcore_updMe (s : State) (f : StreamState → StreamState) : (s.updMe f).fcore = s.fcore := rfl

@[simp] theorem State.fcore_updMyCore (s : State) (f : CoreState → CoreState) : (s.updMyCore f).fcore = s.fcore := rfl

@[simp] theorem State.me_updMe (s : State) (f : StreamState → StreamState) : (s.updMe f).me = f s.me := by
  simp [State.updMe, State.me, State.str, State.updStr, State.fcore]

@[simp] theorem State.myCore_updMyCore (s : State) (f : CoreState → CoreState) : (s.updMyCore f).myCore = f s.myCore := by
  simp [State.updMyCore, State.myCore, State.fcore]

/-- Two updates of a core are one. -/
theorem State.updCore_updCore (s : State) (c : Nat) (f k : CoreState → CoreState) :
    (s.updCore c f).updCore c k = s.updCore c fun x => k (f x) := by
  simp only [State.updCore, State.setCore, State.core, Tab.at_put_self, Tab.put_put]

@[simp] theorem CoreState.setStr_setStr (k : CoreState) (l : Lane) (t u : StreamState) :
    (k.setStr l t).setStr l u = k.setStr l u := by
  cases l <;> rfl

/-- Two updates of the issuing stream are one. -/
@[simp] theorem State.updMe_updMe (s : State) (f k : StreamState → StreamState) :
    (s.updMe f).updMe k = s.updMe fun t => k (f t) := by
  have h : ∀ c l, (s.updStr c l f).updStr c l k = s.updStr c l fun t => k (f t) := by
    intro c l
    simp only [State.updStr, State.updCore_updCore, CoreState.str_setStr, CoreState.setStr_setStr]
  exact h s.fcore s.focusLane

/-- Two updates of the issuing stream's core are one. -/
@[simp] theorem State.updMyCore_updMyCore (s : State) (f k : CoreState → CoreState) :
    (s.updMyCore f).updMyCore k = s.updMyCore fun x => k (f x) := State.updCore_updCore s _ f k

theorem StreamState.rs_ws (t : StreamState) (d r : BitVec 5) (x : Word) : (t.ws d x).rs r = if d = r then x else t.rs r := by
  simp only [StreamState.rs, StreamState.ws, Vector.getElem_set, BitVec.toNat_inj]

theorem StreamState.rv_wv (t : StreamState) (d r : BitVec 5) (x : Vec) : (t.wv d x).rv r = if d = r then x else t.rv r := by
  simp only [StreamState.rv, StreamState.wv, Vector.getElem_set, BitVec.toNat_inj]

theorem StreamState.rk_wk (t : StreamState) (d r : BitVec 3) (x : Vec) : (t.wk d x).rk r = if d = r then x else t.rk r := by
  simp only [StreamState.rk, StreamState.wk, Vector.getElem_set, BitVec.toNat_inj]

/-- `p0` reads true whatever is written to it (R26). -/
@[simp] theorem StreamState.rp_zero (t : StreamState) : t.rp 0 = true := rfl

/-- `m0` reads all ones whatever is written to it (R26). -/
@[simp] theorem StreamState.rm_zero (t : StreamState) : t.rm 0 = BitVec.allOnes 128 := rfl

end Sys2Proof.Machine
end

