-- ==== Sys2Proof/Laws/Issue.lean ====
section
/-! SUPPORT. What issuing an instruction comes to: the body runs where the checks of R275 pass and the predicate holds, and
each failing check has its trap; what holding a line changes. -/

namespace Sys2Proof.Machine

theorem State.issues_iff (s : State) (i : Instr) :
    s.issues i = true ↔ i.streams.contains s.focusLane = true ∧ i.wellFormed = true ∧ i.regsOk s.focusLane = true ∧
      i.minLevel ≤ s.levelOf s.fcore ∧ (i.pred.any fun g => !s.me.guard g) = false := by
  simp only [State.issues, Bool.and_eq_true, decide_eq_true_eq, Bool.not_eq_true', and_assoc]

/-- An instruction that issues runs its body, wherever it stands. -/
theorem State.issueAt_of_issues {s : State} {i : Instr} (h : s.issues i = true) (pc : Pc) (body : State → State) :
    s.issueAt i i.minLevel i.pred pc body = body s := by
  obtain ⟨h1, h2, h3, h4, h5⟩ := (s.issues_iff i).mp h
  simp only [State.issueAt, h1, h2, h3, h5, Nat.not_lt.mpr h4, Bool.not_true, Bool.false_eq_true, if_false]

/-- An instruction that issues runs its body. -/
theorem State.issue_of_issues {s : State} {i : Instr} (h : s.issues i = true) (body : State → State) :
    s.issue i i.minLevel i.pred body = body s := State.issueAt_of_issues h _ body

/-- As `issue_of_issues`, in the form of a meaning. -/
theorem State.next_issue {s : State} {i : Instr} (h : s.issues i = true) (body : State → State) :
    Host.Outcome.next (s.issue i i.minLevel i.pred body) = (Host.Outcome.next (body s) : Host.Outcome State Fault Refusal) := by
  rw [State.issue_of_issues h]

/-- A false predicate: the stream goes on, and nothing else changes (R274). -/
theorem State.issueAt_of_skip {s : State} {i : Instr} (h1 : i.streams.contains s.focusLane = true) (h2 : i.wellFormed = true)
    (h3 : i.regsOk s.focusLane = true) (h4 : i.minLevel ≤ s.levelOf s.fcore)
    (h5 : (i.pred.any fun g => !s.me.guard g) = true) (pc : Pc) (body : State → State) :
    s.issueAt i i.minLevel i.pred pc body = s.updMe (·.doneAt pc) := by
  simp only [State.issueAt, h1, h2, h3, h5, Nat.not_lt.mpr h4, Bool.not_true, Bool.false_eq_true, if_false, if_true]

/-- Check 5 of R275. -/
theorem State.issueAt_of_stream {s : State} {i : Instr} (h1 : i.streams.contains s.focusLane = false) (n : Nat)
    (g : Option Guard) (pc : Pc) (body : State → State) : s.issueAt i n g pc body = s.trap causeStream 0 := by
  simp only [State.issueAt, h1, Bool.not_false, if_true]

/-- Check 6 of R275. -/
theorem State.issueAt_of_field {s : State} {i : Instr} (h1 : i.streams.contains s.focusLane = true) (h2 : i.wellFormed = false)
    (n : Nat) (g : Option Guard) (pc : Pc) (body : State → State) : s.issueAt i n g pc body = s.trap causeIllegal 1 := by
  simp only [State.issueAt, h1, h2, Bool.not_true, Bool.not_false, Bool.false_eq_true, if_false, if_true]

/-- Check 7 of R275. -/
theorem State.issueAt_of_register {s : State} {i : Instr} (h1 : i.streams.contains s.focusLane = true)
    (h2 : i.wellFormed = true) (h3 : i.regsOk s.focusLane = false) (n : Nat) (g : Option Guard) (pc : Pc)
    (body : State → State) : s.issueAt i n g pc body = s.trap causeIllegal 3 := by
  simp only [State.issueAt, h1, h2, h3, Bool.not_true, Bool.not_false, Bool.false_eq_true, if_false, if_true]

/-! ### The instruction buffer (R33) -/

/-- An update of the buffer that looks at the buffer. -/
theorem State.updMe_ibuf (s : State) (g : List (Nat × List Nat) → List (Nat × List Nat)) :
    (s.updMe fun t => { t with ibuf := g t.ibuf }) = s.updMe fun t => { t with ibuf := g s.me.ibuf } := rfl

/-- Reading lines into a buffer changes the buffer of the issuing stream, and draws a free value. -/
theorem State.bufferLine_eq (s : State) (line : Nat) (l : Line) :
    ∃ b, s.bufferLine line l = ({ s with fresh := s.fresh + 1 } : State).updMe fun t => { t with ibuf := b } := by
  unfold State.bufferLine State.draw
  dsimp only
  generalize (if l.last = true then [] else _) = ahead
  exact ⟨_, State.updMe_ibuf _ fun b => ((line, l.words) :: ahead ++ b.filter fun x => !((line, l.words) :: ahead).any (·.1 == x.1)).take 4⟩

/-- Holding a line changes no more than reading it does. -/
theorem State.holdLine_eq (s : State) (line : Nat) (l : Line) :
    s.holdLine line l = s ∨
      ∃ b, s.holdLine line l = ({ s with fresh := s.fresh + 1 } : State).updMe fun t => { t with ibuf := b } := by
  unfold State.holdLine
  split
  · exact .inl rfl
  · exact .inr (s.bufferLine_eq line l)

@[simp] theorem State.bufferLine_mem (s : State) (line : Nat) (l : Line) : (s.bufferLine line l).mem = s.mem := rfl
@[simp] theorem State.bufferLine_clusters (s : State) (line : Nat) (l : Line) : (s.bufferLine line l).clusters = s.clusters := rfl
@[simp] theorem State.bufferLine_dies (s : State) (line : Nat) (l : Line) : (s.bufferLine line l).dies = s.dies := rfl
@[simp] theorem State.bufferLine_tenants (s : State) (line : Nat) (l : Line) : (s.bufferLine line l).tenants = s.tenants := rfl
@[simp] theorem State.bufferLine_mod (s : State) (line : Nat) (l : Line) : (s.bufferLine line l).mod = s.mod := rfl

@[simp] theorem State.holdLine_mem (s : State) (line : Nat) (l : Line) : (s.holdLine line l).mem = s.mem := by
  unfold State.holdLine; split <;> simp
@[simp] theorem State.keepLine_mem (s : State) (line : Nat) (l : Line) : (s.keepLine line l).mem = s.mem := by
  unfold State.keepLine; split <;> simp

end Sys2Proof.Machine
end

