-- ==== Sys2Proof/Laws/Memory.lean ====
section
/-! SUPPORT. Every operation on memory keeps its canonical form, and what a read after a write gives. -/

namespace Sys2Proof.Machine

/-! ### Sorted tables -/

theorem Tab.sorted_iff {α : Type} (t : Tab α) : t.sorted = true ↔ t.Pairwise fun a b => a.1 < b.1 := by
  induction t with
  | nil => simp [Tab.sorted]
  | cons e t ih =>
    cases t with
    | nil => simp [Tab.sorted]
    | cons f t =>
      obtain ⟨i, x⟩ := e
      obtain ⟨j, y⟩ := f
      simp only [Tab.sorted, Bool.and_eq_true, decide_eq_true_eq, ih, List.pairwise_cons, List.mem_cons]
      constructor
      · rintro ⟨h, h1, h2⟩
        refine ⟨?_, h1, h2⟩
        rintro a (rfl | ha)
        · exact h
        · exact Nat.lt_trans h (h1 a ha)
      · rintro ⟨h, h1, h2⟩
        exact ⟨h (j, y) (Or.inl rfl), h1, h2⟩

theorem Tab.mem_of_mem_put {α : Type} {t : Tab α} {k : Nat} {x : α} {e : Nat × α} (h : e ∈ t.put k x) :
    e = (k, x) ∨ e ∈ t := by
  induction t with
  | nil => simpa [Tab.put] using h
  | cons f t ih =>
    obtain ⟨i, y⟩ := f
    simp only [Tab.put] at h
    split at h
    · simpa using h
    · split at h
      · rcases List.mem_cons.mp h with h | h
        · exact Or.inl h
        · exact Or.inr (List.mem_cons_of_mem _ h)
      · rcases List.mem_cons.mp h with h | h
        · exact Or.inr (h ▸ List.mem_cons_self)
        · exact (ih h).imp_right (List.mem_cons_of_mem _)

theorem Tab.mem_of_mem_del {α : Type} {t : Tab α} {k : Nat} {e : Nat × α} (h : e ∈ t.del k) : e ∈ t := by
  induction t with
  | nil => simp [Tab.del] at h
  | cons f t ih =>
    obtain ⟨i, y⟩ := f
    simp only [Tab.del] at h
    split at h
    · exact List.mem_cons_of_mem _ h
    · simp only [List.mem_cons] at h ⊢
      exact h.imp_right ih

theorem Tab.sorted_put {α : Type} {t : Tab α} (h : t.sorted = true) (k : Nat) (x : α) : (t.put k x).sorted = true := by
  rw [Tab.sorted_iff] at h ⊢
  induction t with
  | nil => simp [Tab.put]
  | cons f t ih =>
    obtain ⟨i, y⟩ := f
    rw [List.pairwise_cons] at h
    simp only [Tab.put]
    split
    · rename_i hk
      rw [List.pairwise_cons, List.pairwise_cons]
      refine ⟨?_, h⟩
      intro a ha
      rcases List.mem_cons.mp ha with rfl | ha
      · exact hk
      · exact Nat.lt_trans hk (h.1 a ha)
    · split
      · rename_i hk
        subst hk
        exact List.pairwise_cons.mpr h
      · rw [List.pairwise_cons]
        refine ⟨?_, ih h.2⟩
        intro a ha
        rcases Tab.mem_of_mem_put ha with rfl | ha
        · show i < k
          omega
        · exact h.1 a ha

theorem Tab.sorted_del {α : Type} {t : Tab α} (h : t.sorted = true) (k : Nat) : (t.del k).sorted = true := by
  rw [Tab.sorted_iff] at h ⊢
  induction t with
  | nil => simp [Tab.del]
  | cons f t ih =>
    obtain ⟨i, y⟩ := f
    rw [List.pairwise_cons] at h
    simp only [Tab.del]
    split
    · exact h.2
    · rw [List.pairwise_cons]
      exact ⟨fun a ha => h.1 a (Tab.mem_of_mem_del ha), ih h.2⟩

theorem Tab.find_of_lt {α : Type} {t : Tab α} {k : Nat} (h : ∀ e ∈ t, k < e.1) : t.find k = none := by
  induction t with
  | nil => rfl
  | cons f t ih =>
    obtain ⟨i, y⟩ := f
    have := h (i, y) List.mem_cons_self
    simp only [Tab.find]
    rw [if_neg (by simp only at this; omega)]
    exact ih fun e he => h e (List.mem_cons_of_mem _ he)

theorem Tab.find_del {α : Type} {t : Tab α} (h : t.sorted = true) (k j : Nat) :
    (t.del k).find j = if k = j then none else t.find j := by
  rw [Tab.sorted_iff] at h
  induction t with
  | nil => simp [Tab.del, Tab.find]
  | cons f t ih =>
    obtain ⟨i, y⟩ := f
    rw [List.pairwise_cons] at h
    simp only [Tab.del]
    split
    · rename_i hi
      subst hi
      by_cases hj : i = j
      · subst hj
        simp only [if_true]
        exact Tab.find_of_lt fun e he => h.1 e he
      · simp [Tab.find, hj]
    · simp only [Tab.find, ih h.2]
      by_cases hj : i = j
      · have : ¬ k = j := by omega
        simp [hj, this]
      · simp [hj]

/-! ### The canonical form -/

theorem Memory.wf_iff (m : List Host.Cell) :
    Memory.wf m = true ↔ (m.Pairwise fun a b => a.1 < b.1) ∧ ∀ c ∈ m, c.2 ≠ 0 := by
  simp only [Memory.wf, Bool.and_eq_true, List.all_eq_true, bne_iff_ne, ne_eq]
  rw [Tab.sorted_iff]

theorem Memory.wf_nil : Memory.wf [] = true := rfl

theorem Memory.wf_write {m : List Host.Cell} (h : Memory.wf m = true) (k : Nat) (b : Byte) :
    Memory.wf (memWrite m k b) = true := by
  simp only [Memory.wf, Bool.and_eq_true, List.all_eq_true, bne_iff_ne, ne_eq] at h ⊢
  unfold memWrite
  split
  · exact ⟨Tab.sorted_del h.1 k, fun c hc => h.2 c (Tab.mem_of_mem_del hc)⟩
  · rename_i hb
    refine ⟨Tab.sorted_put h.1 k b, fun c hc => ?_⟩
    rcases Tab.mem_of_mem_put hc with rfl | hc
    · simpa using hb
    · exact h.2 c hc

theorem Memory.wf_writes {m : List Host.Cell} (h : Memory.wf m = true) (k : Nat) (bs : List Nat) :
    Memory.wf (memWrites m k bs) = true := by
  induction bs generalizing m k with
  | nil => exact h
  | cons b t ih => exact ih (Memory.wf_write h k _) (k + 1)

theorem Memory.wf_filter {m : List Host.Cell} (h : Memory.wf m = true) (p : Host.Cell → Bool) : Memory.wf (m.filter p) = true := by
  rw [Memory.wf_iff] at h ⊢
  exact ⟨h.1.filter p, fun c hc => h.2 c (List.mem_filter.mp hc).1⟩

theorem Memory.wf_zero {m : List Host.Cell} (h : Memory.wf m = true) (k n : Nat) : Memory.wf (memZero m k n) = true :=
  Memory.wf_filter h _

theorem Memory.wf_fill {m : List Host.Cell} (h : Memory.wf m = true) (k n : Nat) (f : Nat → Byte) :
    Memory.wf (memFill m k n f) = true := by
  rw [Memory.wf_iff] at h ⊢
  have hr : ((List.range n).map fun i => (k + i, f i)).Pairwise fun a b => a.1 < b.1 := by
    rw [List.pairwise_map]
    exact List.pairwise_lt_range.imp fun h => by simpa using h
  constructor
  · simp only [memFill, List.pairwise_append, List.mem_append, List.mem_filter, List.mem_map, List.mem_range,
      decide_eq_true_eq]
    refine ⟨⟨h.1.filter _, hr.filter _, ?_⟩, h.1.filter _, ?_⟩
    · rintro a ⟨-, ha⟩ b ⟨⟨i, -, rfl⟩, -⟩
      show a.1 < k + i
      omega
    · rintro a (⟨-, ha⟩ | ⟨⟨i, hi, rfl⟩, -⟩) b ⟨-, hb⟩
      · omega
      · show k + i < b.1
        omega
  · intro c hc
    simp only [memFill, List.mem_append, List.mem_filter, bne_iff_ne, ne_eq] at hc
    rcases hc with (hc | hc) | hc
    · exact h.2 c hc.1
    · exact hc.2
    · exact h.2 c hc.1

/-! ### Reading what was written -/

theorem memRead_write {m : List Host.Cell} (h : Memory.wf m = true) (k j : Nat) (b : Byte) :
    memRead (memWrite m k b) j = if k = j then b else memRead m j := by
  have hs : Tab.sorted m = true := by
    simp only [Memory.wf, Bool.and_eq_true] at h
    exact h.1
  unfold memWrite memRead Tab.at
  split
  · rename_i hb
    have hb : b = 0 := by simpa using hb
    rw [Tab.find_del hs]
    split
    · simp [hb]
    · rfl
  · rw [Tab.find_put]
    split <;> rfl

theorem memRead_writes {m : List Host.Cell} (h : Memory.wf m = true) (k j : Nat) (bs : List Nat) :
    memRead (memWrites m k bs) j =
      if k ≤ j ∧ j < k + bs.length then BitVec.ofNat 8 (bs.getD (j - k) 0) else memRead m j := by
  induction bs generalizing m k with
  | nil =>
    rw [if_neg (by simp only [List.length_nil]; omega)]
    rfl
  | cons b t ih =>
    rw [memWrites, ih (Memory.wf_write h k _) (k + 1), memRead_write h]
    simp only [List.length_cons]
    by_cases h1 : k + 1 ≤ j ∧ j < k + 1 + t.length
    · rw [if_pos h1, if_pos (by omega)]
      obtain ⟨i, rfl⟩ : ∃ i, j = k + 1 + i := ⟨j - (k + 1), by omega⟩
      rw [show k + 1 + i - (k + 1) = i by omega, show k + 1 + i - k = i + 1 by omega]
      rfl
    · rw [if_neg h1]
      by_cases h2 : k = j
      · subst h2
        rw [if_pos rfl, if_pos (by omega), Nat.sub_self]
        rfl
      · rw [if_neg h2, if_neg (by omega)]

theorem find_filter_of {m : List Host.Cell} (p : Host.Cell → Bool) (j : Nat) (hp : ∀ b, p (j, b) = true) :
    Tab.find (m.filter p) j = Tab.find m j := by
  induction m with
  | nil => rfl
  | cons e t ih =>
    obtain ⟨i, y⟩ := e
    by_cases hi : i = j
    · subst hi
      simp [hp y, Tab.find]
    · by_cases h : p (i, y) = true
      · simp [h, Tab.find, hi, ih]
      · simp [h, Tab.find, hi, ih]

theorem find_filter_none {m : List Host.Cell} (p : Host.Cell → Bool) (j : Nat) (hp : ∀ b, p (j, b) = false) :
    Tab.find (m.filter p) j = none := by
  induction m with
  | nil => rfl
  | cons e t ih =>
    obtain ⟨i, y⟩ := e
    by_cases h : p (i, y) = true
    · have hi : ¬ i = j := by rintro rfl; simp [hp y] at h
      simp [h, Tab.find, hi, ih]
    · simp [h, ih]

theorem memRead_zero (m : List Host.Cell) (k n j : Nat) :
    memRead (memZero m k n) j = if k ≤ j ∧ j < k + n then 0 else memRead m j := by
  unfold memRead memZero Tab.at
  by_cases h : k ≤ j ∧ j < k + n
  · rw [if_pos h, find_filter_none]
    · rfl
    · intro b
      simp only [Bool.or_eq_false_iff, decide_eq_false_iff_not]
      omega
  · rw [if_neg h, find_filter_of]
    intro b
    simp only [Bool.or_eq_true, decide_eq_true_eq]
    omega

/-! ### The state -/

theorem State.reset_mem_wf : Memory.wf State.reset.mem = true := rfl

theorem State.zeroLoc_wf {s : State} (h : Memory.wf s.mem = true) (k n : Nat) : Memory.wf (s.zeroLoc k n).mem = true :=
  Memory.wf_zero h k n

theorem State.carryBank_wf {s : State} (h : Memory.wf s.mem = true) (cl b : Nat) (old new : BitVec 2) :
    Memory.wf (s.carryBank cl b old new).mem = true := by
  simp only [State.carryBank]
  split
  · exact State.zeroLoc_wf h _ _
  · split
    · exact Memory.wf_fill h _ _ _
    · exact h

theorem foldl_wf {α : Type} (f : List Host.Cell → α → List Host.Cell)
    (hf : ∀ m a, Memory.wf m = true → Memory.wf (f m a) = true) (l : List α) {m : List Host.Cell} (h : Memory.wf m = true) :
    Memory.wf (l.foldl f m) = true := by
  induction l generalizing m with
  | nil => exact h
  | cons a t ih => exact ih (hf m a h)

theorem State.putBack_wf {s : State} (h : Memory.wf s.mem = true) (x : Saved) (c : Nat) :
    Memory.wf (s.putBack x c).mem = true := by
  simp only [State.putBack, State.updCluster_mem]
  refine foldl_wf _ (fun m e hm => ?_) _ (foldl_wf _ (fun m b hm => Memory.wf_zero hm _ _) _
    (foldl_wf _ (fun m b hm => Memory.wf_zero hm _ _) _ h))
  split
  · exact Memory.wf_write hm _ _
  · exact Memory.wf_write hm _ _

theorem State.placeWord_wf {s : State} (h : Memory.wf s.mem = true) (w : BitVec 32) : Memory.wf (s.placeWord w).mem = true := by
  simp only [State.placeWord, State.updDie_mem, State.setCore_mem, State.updTenant_mem]
  exact Memory.wf_writes (Memory.wf_zero h _ _) _ _

/-- The word-sized watch of a granule and the wake-up of a parked stream leave memory alone. -/
theorem State.mwaitReturn_mem (s : State) (core : Nat) (d : BitVec 5) (code : Nat) : (s.mwaitReturn core d code).mem = s.mem := rfl

theorem State.watchOccurs_mem (s : State) (core code : Nat) : (s.watchOccurs core code).mem = s.mem := by
  simp only [State.watchOccurs]
  split
  · rfl
  · split
    · rfl
    · split <;> rfl

theorem State.watchWritten_mem (s : State) (k n : Nat) : (s.watchWritten k n).mem = s.mem := by
  have : ∀ (l : List (Nat × CoreState)) (s : State), (l.foldl (init := s) fun s (x : Nat × CoreState) =>
      match x.2.watch with
      | some w => if w.armed && overlaps (w.granule * 64) 64 k n then s.watchOccurs x.1 0 else s
      | none => s).mem = s.mem := by
    intro l
    induction l with
    | nil => intro s; rfl
    | cons x t ih =>
      intro s
      rw [List.foldl_cons, ih]
      split
      · split
        · exact State.watchOccurs_mem s _ _
        · rfl
      · rfl
  exact this s.cores s

theorem State.checkpointWritten_mem (s : State) (k n : Nat) : (s.checkpointWritten k n).mem = s.mem := by
  have h : ∀ (c : Bool) (f : ModuleState → ModuleState), (if c = true then s.updMod f else s).mem = s.mem := by
    intro c f
    cases c <;> rfl
  simp only [State.checkpointWritten]
  split
  · exact h _ _
  · split
    · exact h _ _
    · rw [State.updMod_mem]
      exact h _ _

/-- A performed write writes its bytes, and no other location. -/
theorem State.writeLoc_mem (s : State) (k : Nat) (bs : List Nat) : (s.writeLoc k bs).mem = memWrites s.mem k bs := by
  simp only [State.writeLoc]
  show (State.watchWritten _ k bs.length).mem = _
  rw [State.watchWritten_mem]
  show memWrites (State.repair _ k bs.length).mem k bs = _
  rw [State.repair_mem, State.checkpointWritten_mem]

theorem State.writeLoc_wf {s : State} (h : Memory.wf s.mem = true) (k : Nat) (bs : List Nat) :
    Memory.wf (s.writeLoc k bs).mem = true := by
  rw [State.writeLoc_mem]
  exact Memory.wf_writes h k bs

end Sys2Proof.Machine
end

