-- ==== Sys2Proof/Laws/PerInstr.lean ====
section
/-! SUPPORT. Laws stated for each instruction of the table: the predicate that governs an instruction is the predicate pair
of its word (R274, R277). -/

namespace Sys2Proof.Laws

/-- The predicate pair of the encoded word is the predicate that governs the instruction. -/
def GuardField.Statement (i : Instr) : Prop := ∀ g, i.pred = some g → fG (encode i) = g

theorem GuardField.add : ∀ a b c d, GuardField.Statement (.add a b c d) := by
  intro _ _ _ _ _ h; cases h; exact fG_packR ..
theorem GuardField.sub : ∀ a b c d, GuardField.Statement (.sub a b c d) := by
  intro _ _ _ _ _ h; cases h; exact fG_packR ..
theorem GuardField.and : ∀ a b c d, GuardField.Statement (.and a b c d) := by
  intro _ _ _ _ _ h; cases h; exact fG_packR ..
theorem GuardField.or : ∀ a b c d, GuardField.Statement (.or a b c d) := by
  intro _ _ _ _ _ h; cases h; exact fG_packR ..
theorem GuardField.xor : ∀ a b c d, GuardField.Statement (.xor a b c d) := by
  intro _ _ _ _ _ h; cases h; exact fG_packR ..
theorem GuardField.andn : ∀ a b c d, GuardField.Statement (.andn a b c d) := by
  intro _ _ _ _ _ h; cases h; exact fG_packR ..
theorem GuardField.shl : ∀ a b c d, GuardField.Statement (.shl a b c d) := by
  intro _ _ _ _ _ h; cases h; exact fG_packR ..
theorem GuardField.shr : ∀ a b c d, GuardField.Statement (.shr a b c d) := by
  intro _ _ _ _ _ h; cases h; exact fG_packR ..
theorem GuardField.sar : ∀ a b c d, GuardField.Statement (.sar a b c d) := by
  intro _ _ _ _ _ h; cases h; exact fG_packR ..
theorem GuardField.min : ∀ a b c d, GuardField.Statement (.min a b c d) := by
  intro _ _ _ _ _ h; cases h; exact fG_packR ..
theorem GuardField.minn : ∀ a b c d, GuardField.Statement (.minn a b c d) := by
  intro _ _ _ _ _ h; cases h; exact fG_packR ..
theorem GuardField.max : ∀ a b c d, GuardField.Statement (.max a b c d) := by
  intro _ _ _ _ _ h; cases h; exact fG_packR ..
theorem GuardField.maxn : ∀ a b c d, GuardField.Statement (.maxn a b c d) := by
  intro _ _ _ _ _ h; cases h; exact fG_packR ..
theorem GuardField.mov : ∀ a b c, GuardField.Statement (.mov a b c) := by
  intro _ _ _ _ h; cases h; exact fG_packR ..
theorem GuardField.clz : ∀ a b c, GuardField.Statement (.clz a b c) := by
  intro _ _ _ _ h; cases h; exact fG_packR ..
theorem GuardField.ctz : ∀ a b c, GuardField.Statement (.ctz a b c) := by
  intro _ _ _ _ h; cases h; exact fG_packR ..
theorem GuardField.popc : ∀ a b c, GuardField.Statement (.popc a b c) := by
  intro _ _ _ _ h; cases h; exact fG_packR ..
theorem GuardField.sel : ∀ a b c d, GuardField.Statement (.sel a b c d) := nofun
theorem GuardField.mul : ∀ a b c d, GuardField.Statement (.mul a b c d) := by
  intro _ _ _ _ _ h; cases h; exact fG_packR ..
theorem GuardField.mulh : ∀ a b c d, GuardField.Statement (.mulh a b c d) := by
  intro _ _ _ _ _ h; cases h; exact fG_packR ..
theorem GuardField.mulhn : ∀ a b c d, GuardField.Statement (.mulhn a b c d) := by
  intro _ _ _ _ _ h; cases h; exact fG_packR ..
theorem GuardField.div : ∀ a b c d, GuardField.Statement (.div a b c d) := by
  intro _ _ _ _ _ h; cases h; exact fG_packR ..
theorem GuardField.divn : ∀ a b c d, GuardField.Statement (.divn a b c d) := by
  intro _ _ _ _ _ h; cases h; exact fG_packR ..
theorem GuardField.rem : ∀ a b c d, GuardField.Statement (.rem a b c d) := by
  intro _ _ _ _ _ h; cases h; exact fG_packR ..
theorem GuardField.remn : ∀ a b c d, GuardField.Statement (.remn a b c d) := by
  intro _ _ _ _ _ h; cases h; exact fG_packR ..
theorem GuardField.addi : ∀ a b c d, GuardField.Statement (.addi a b c d) := by
  intro _ _ _ _ _ h; cases h; exact fG_packI ..
theorem GuardField.andi : ∀ a b c d, GuardField.Statement (.andi a b c d) := by
  intro _ _ _ _ _ h; cases h; exact fG_packI ..
theorem GuardField.ori : ∀ a b c d, GuardField.Statement (.ori a b c d) := by
  intro _ _ _ _ _ h; cases h; exact fG_packI ..
theorem GuardField.xori : ∀ a b c d, GuardField.Statement (.xori a b c d) := by
  intro _ _ _ _ _ h; cases h; exact fG_packI ..
theorem GuardField.shli : ∀ a b c d, GuardField.Statement (.shli a b c d) := by
  intro _ _ _ _ _ h; cases h; exact fG_packI ..
theorem GuardField.shri : ∀ a b c d, GuardField.Statement (.shri a b c d) := by
  intro _ _ _ _ _ h; cases h; exact fG_packI ..
theorem GuardField.sari : ∀ a b c d, GuardField.Statement (.sari a b c d) := by
  intro _ _ _ _ _ h; cases h; exact fG_packI ..
theorem GuardField.funl : ∀ a b c d e, GuardField.Statement (.funl a b c d e) := by
  intro _ _ _ _ _ _ h; cases h; exact fG_packR ..
theorem GuardField.funr : ∀ a b c d e, GuardField.Statement (.funr a b c d e) := by
  intro _ _ _ _ _ _ h; cases h; exact fG_packR ..
theorem GuardField.cmp : ∀ a b c d e f g, GuardField.Statement (.cmp a b c d e f g) := by
  intro _ _ _ _ _ _ _ _ h; cases h; exact fG_packR ..
theorem GuardField.cmpi : ∀ a b c d e f, GuardField.Statement (.cmpi a b c d e f) := by
  intro _ _ _ _ _ _ _ h; cases h; exact fG_packI ..
theorem GuardField.li : ∀ a b c, GuardField.Statement (.li a b c) := by
  intro _ _ _ _ h; cases h; exact fG_packL ..
theorem GuardField.lui : ∀ a b c, GuardField.Statement (.lui a b c) := by
  intro _ _ _ _ h; cases h; exact fG_packL ..
theorem GuardField.plog : ∀ a b c d e, GuardField.Statement (.plog a b c d e) := by
  intro _ _ _ _ _ _ h; cases h; exact fG_packR ..
theorem GuardField.adda : ∀ a b c d, GuardField.Statement (.adda a b c d) := by
  intro _ _ _ _ _ h; cases h; exact fG_packR ..
theorem GuardField.mova : ∀ a b c, GuardField.Statement (.mova a b c) := by
  intro _ _ _ _ h; cases h; exact fG_packR ..
theorem GuardField.movs : ∀ a b c, GuardField.Statement (.movs a b c) := by
  intro _ _ _ _ h; cases h; exact fG_packR ..
theorem GuardField.addai : ∀ a b c d, GuardField.Statement (.addai a b c d) := by
  intro _ _ _ _ _ h; cases h; exact fG_packI ..
theorem GuardField.fadd : ∀ a b c d e, GuardField.Statement (.fadd a b c d e) := by
  intro _ _ _ _ _ _ h; cases h; exact fG_packR ..
theorem GuardField.fsub : ∀ a b c d e, GuardField.Statement (.fsub a b c d e) := by
  intro _ _ _ _ _ _ h; cases h; exact fG_packR ..
theorem GuardField.fmul : ∀ a b c d e, GuardField.Statement (.fmul a b c d e) := by
  intro _ _ _ _ _ _ h; cases h; exact fG_packR ..
theorem GuardField.fmin : ∀ a b c d e, GuardField.Statement (.fmin a b c d e) := by
  intro _ _ _ _ _ _ h; cases h; exact fG_packR ..
theorem GuardField.fmax : ∀ a b c d e, GuardField.Statement (.fmax a b c d e) := by
  intro _ _ _ _ _ _ h; cases h; exact fG_packR ..
theorem GuardField.fclass : ∀ a b c d, GuardField.Statement (.fclass a b c d) := by
  intro _ _ _ _ _ h; cases h; exact fG_packR ..
theorem GuardField.ffma : ∀ a b c d e, GuardField.Statement (.ffma a b c d e) := by
  intro _ _ _ _ _ _ h; cases h; exact fG_packR ..
theorem GuardField.fcmp : ∀ a b c d e f g, GuardField.Statement (.fcmp a b c d e f g) := by
  intro _ _ _ _ _ _ _ _ h; cases h; exact fG_packR ..
theorem GuardField.fcvt : ∀ a b c d e f g, GuardField.Statement (.fcvt a b c d e f g) := by
  intro _ _ _ _ _ _ _ _ h; cases h; exact fG_packR ..
theorem GuardField.br : ∀ a b c, GuardField.Statement (.br a b c) := by
  intro _ _ _ _ h; cases h; exact fG_packB ..
theorem GuardField.jmp : ∀ a b, GuardField.Statement (.jmp a b) := nofun
theorem GuardField.call : ∀ a b c, GuardField.Statement (.call a b c) := by
  intro _ _ _ _ h; cases h; exact fG_packB ..
theorem GuardField.jmpi : ∀ a b, GuardField.Statement (.jmpi a b) := by
  intro _ _ _ h; cases h; exact fG_packR ..
theorem GuardField.ret : ∀ a, GuardField.Statement (.ret a) := by
  intro _ _ h; cases h; exact fG_packR ..
theorem GuardField.retA : ∀ a, GuardField.Statement (.retA a) := by
  intro _ _ h; cases h; exact fG_packR ..
theorem GuardField.calli : ∀ a b, GuardField.Statement (.calli a b) := by
  intro _ _ _ h; cases h; exact fG_packR ..
theorem GuardField.brx : ∀ a b c, GuardField.Statement (.brx a b c) := nofun
theorem GuardField.brq : ∀ a b c d, GuardField.Statement (.brq a b c d) := nofun
theorem GuardField.loop : ∀ a b c d e, GuardField.Statement (.loop a b c d e) := by
  intro _ _ _ _ _ _ h; cases h; exact fG_packI ..
theorem GuardField.endl : ∀ a b c, GuardField.Statement (.endl a b c) := by
  intro _ _ _ _ h; cases h; exact fG_packI ..
theorem GuardField.ld : ∀ a b c d e f, GuardField.Statement (.ld a b c d e f) := by
  intro _ _ _ _ _ _ _ h; cases h; exact fG_packM ..
theorem GuardField.lds : ∀ a b c d e f, GuardField.Statement (.lds a b c d e f) := by
  intro _ _ _ _ _ _ _ h; cases h; exact fG_packM ..
theorem GuardField.st : ∀ a b c d e f, GuardField.Statement (.st a b c d e f) := by
  intro _ _ _ _ _ _ _ h; cases h; exact fG_packM ..
theorem GuardField.ldq : ∀ a b c d e, GuardField.Statement (.ldq a b c d e) := by
  intro _ _ _ _ _ _ h; cases h; exact fG_packM ..
theorem GuardField.stq : ∀ a b c d e, GuardField.Statement (.stq a b c d e) := by
  intro _ _ _ _ _ _ h; cases h; exact fG_packM ..
theorem GuardField.vadd : ∀ a b c d e, GuardField.Statement (.vadd a b c d e) := nofun
theorem GuardField.vsub : ∀ a b c d e, GuardField.Statement (.vsub a b c d e) := nofun
theorem GuardField.vmul : ∀ a b c d e, GuardField.Statement (.vmul a b c d e) := nofun
theorem GuardField.vmin : ∀ a b c d e, GuardField.Statement (.vmin a b c d e) := nofun
theorem GuardField.vmax : ∀ a b c d e, GuardField.Statement (.vmax a b c d e) := nofun
theorem GuardField.vabs : ∀ a b c d, GuardField.Statement (.vabs a b c d) := nofun
theorem GuardField.vneg : ∀ a b c d, GuardField.Statement (.vneg a b c d) := nofun
theorem GuardField.vfma : ∀ a b c d e, GuardField.Statement (.vfma a b c d e) := nofun
theorem GuardField.vshl : ∀ a b c d e, GuardField.Statement (.vshl a b c d e) := nofun
theorem GuardField.vshr : ∀ a b c d e, GuardField.Statement (.vshr a b c d e) := nofun
theorem GuardField.vsar : ∀ a b c d e, GuardField.Statement (.vsar a b c d e) := nofun
theorem GuardField.lut3 : ∀ a b c d e, GuardField.Statement (.lut3 a b c d e) := nofun
theorem GuardField.vfunl : ∀ a b c d e, GuardField.Statement (.vfunl a b c d e) := nofun
theorem GuardField.vfunr : ∀ a b c d e, GuardField.Statement (.vfunr a b c d e) := nofun
theorem GuardField.vcmp : ∀ a b c d e f, GuardField.Statement (.vcmp a b c d e f) := nofun
theorem GuardField.vsel : ∀ a b c d, GuardField.Statement (.vsel a b c d) := nofun
theorem GuardField.vcvt : ∀ a b c d e f g, GuardField.Statement (.vcvt a b c d e f g) := nofun
theorem GuardField.vcvtbInto : ∀ a b c d e f, GuardField.Statement (.vcvtbInto a b c d e f) := nofun
theorem GuardField.vcvtbOut : ∀ a b c d e, GuardField.Statement (.vcvtbOut a b c d e) := nofun
theorem GuardField.vred : ∀ a b c d e, GuardField.Statement (.vred a b c d e) := nofun
theorem GuardField.vscan : ∀ a b c d e, GuardField.Statement (.vscan a b c d e) := nofun
theorem GuardField.vtopk : ∀ a b c d e f, GuardField.Statement (.vtopk a b c d e f) := nofun
theorem GuardField.vperm : ∀ a b c d e, GuardField.Statement (.vperm a b c d e) := nofun
theorem GuardField.vbcst : ∀ a b c d, GuardField.Statement (.vbcst a b c d) := nofun
theorem GuardField.viota : ∀ a b c, GuardField.Statement (.viota a b c) := nofun
theorem GuardField.vext : ∀ a b c d, GuardField.Statement (.vext a b c d) := nofun
theorem GuardField.vins : ∀ a b c d, GuardField.Statement (.vins a b c d) := nofun
theorem GuardField.vexp2 : ∀ a b c d, GuardField.Statement (.vexp2 a b c d) := nofun
theorem GuardField.vlog2 : ∀ a b c d, GuardField.Statement (.vlog2 a b c d) := nofun
theorem GuardField.vrcp : ∀ a b c d, GuardField.Statement (.vrcp a b c d) := nofun
theorem GuardField.vrsq : ∀ a b c d, GuardField.Statement (.vrsq a b c d) := nofun
theorem GuardField.vrnd : ∀ a b, GuardField.Statement (.vrnd a b) := nofun
theorem GuardField.vpopc : ∀ a b c d, GuardField.Statement (.vpopc a b c d) := nofun
theorem GuardField.vclz : ∀ a b c d, GuardField.Statement (.vclz a b c d) := nofun
theorem GuardField.vmask : ∀ a b c d, GuardField.Statement (.vmask a b c d) := nofun
theorem GuardField.vld : ∀ a b c d e f, GuardField.Statement (.vld a b c d e f) := nofun
theorem GuardField.vst : ∀ a b c d e f, GuardField.Statement (.vst a b c d e f) := nofun
theorem GuardField.kclr : ∀ a b, GuardField.Statement (.kclr a b) := by
  intro _ _ _ h; cases h; exact fG_packK ..
theorem GuardField.kset : ∀ a b c d, GuardField.Statement (.kset a b c d) := by
  intro _ _ _ _ _ h; cases h; exact fG_packK ..
theorem GuardField.ksetd : ∀ a b c d, GuardField.Statement (.ksetd a b c d) := by
  intro _ _ _ _ _ h; cases h; exact fG_packK ..
theorem GuardField.kget : ∀ a b c d, GuardField.Statement (.kget a b c d) := by
  intro _ _ _ _ _ h; cases h; exact fG_packK ..
theorem GuardField.kld : ∀ a b c d, GuardField.Statement (.kld a b c d) := by
  intro _ _ _ _ _ h; cases h; exact fG_packK ..
theorem GuardField.kst : ∀ a b c d, GuardField.Statement (.kst a b c d) := by
  intro _ _ _ _ _ h; cases h; exact fG_packK ..
theorem GuardField.kseti : ∀ a b c d, GuardField.Statement (.kseti a b c d) := by
  intro _ _ _ _ _ h; cases h; exact fG_packKI ..
theorem GuardField.kpush : ∀ a b c d, GuardField.Statement (.kpush a b c d) := by
  intro _ _ _ _ _ h; cases h; exact fG_packR ..
theorem GuardField.knote : ∀ a b c d, GuardField.Statement (.knote a b c d) := by
  intro _ _ _ _ _ h; cases h; exact fG_packR ..
theorem GuardField.qkick : ∀ a b c, GuardField.Statement (.qkick a b c) := by
  intro _ _ _ _ h; cases h; exact fG_packR ..
theorem GuardField.qlink : ∀ a b c d, GuardField.Statement (.qlink a b c d) := by
  intro _ _ _ _ _ h; cases h; exact fG_packR ..
theorem GuardField.qpop : ∀ a b c d e, GuardField.Statement (.qpop a b c d e) := by
  intro _ _ _ _ _ _ h; cases h; exact fG_packR ..
theorem GuardField.qpush : ∀ a b c d e, GuardField.Statement (.qpush a b c d e) := by
  intro _ _ _ _ _ _ h; cases h; exact fG_packR ..
theorem GuardField.qpeek : ∀ a b c, GuardField.Statement (.qpeek a b c) := by
  intro _ _ _ _ h; cases h; exact fG_packR ..
theorem GuardField.qstat : ∀ a b c d, GuardField.Statement (.qstat a b c d) := by
  intro _ _ _ _ _ h; cases h; exact fG_packR ..
theorem GuardField.bankm : ∀ a b c, GuardField.Statement (.bankm a b c) := by
  intro _ _ _ _ h; cases h; exact fG_packR ..
theorem GuardField.bankf : ∀ a b c, GuardField.Statement (.bankf a b c) := by
  intro _ _ _ _ h; cases h; exact fG_packR ..
theorem GuardField.accal : ∀ a b c, GuardField.Statement (.accal a b c) := by
  intro _ _ _ _ h; cases h; exact fG_packR ..
theorem GuardField.accfr : ∀ a b c, GuardField.Statement (.accfr a b c) := by
  intro _ _ _ _ h; cases h; exact fG_packR ..
theorem GuardField.accgive : ∀ a b c, GuardField.Statement (.accgive a b c) := by
  intro _ _ _ _ h; cases h; exact fG_packR ..
theorem GuardField.bacq : ∀ a b c, GuardField.Statement (.bacq a b c) := by
  intro _ _ _ _ h; cases h; exact fG_packR ..
theorem GuardField.brel : ∀ a b, GuardField.Statement (.brel a b) := by
  intro _ _ _ h; cases h; exact fG_packR ..
theorem GuardField.slotrel : ∀ a b c, GuardField.Statement (.slotrel a b c) := by
  intro _ _ _ _ h; cases h; exact fG_packR ..
theorem GuardField.cflush : ∀ a b, GuardField.Statement (.cflush a b) := by
  intro _ _ _ h; cases h; exact fG_packR ..
theorem GuardField.pref : ∀ a b, GuardField.Statement (.pref a b) := by
  intro _ _ _ h; cases h; exact fG_packR ..
theorem GuardField.ruarm : ∀ a b c, GuardField.Statement (.ruarm a b c) := by
  intro _ _ _ _ h; cases h; exact fG_packR ..
theorem GuardField.ruinv : ∀ a b c, GuardField.Statement (.ruinv a b c) := by
  intro _ _ _ _ h; cases h; exact fG_packR ..
theorem GuardField.rustat : ∀ a b c, GuardField.Statement (.rustat a b c) := by
  intro _ _ _ _ h; cases h; exact fG_packR ..
theorem GuardField.scpost : ∀ a b c, GuardField.Statement (.scpost a b c) := by
  intro _ _ _ _ h; cases h; exact fG_packR ..
theorem GuardField.scread : ∀ a b c, GuardField.Statement (.scread a b c) := by
  intro _ _ _ _ h; cases h; exact fG_packR ..
theorem GuardField.scwait : ∀ a b c d, GuardField.Statement (.scwait a b c d) := by
  intro _ _ _ _ _ h; cases h; exact fG_packR ..
theorem GuardField.amo : ∀ a b c d e f g h, GuardField.Statement (.amo a b c d e f g h) := by
  intro _ _ _ _ _ _ _ _ _ h; cases h; exact fG_packM ..
theorem GuardField.lock : ∀ a b c, GuardField.Statement (.lock a b c) := by
  intro _ _ _ _ h; cases h; exact fG_packR ..
theorem GuardField.unlock : ∀ a b c, GuardField.Statement (.unlock a b c) := by
  intro _ _ _ _ h; cases h; exact fG_packR ..
theorem GuardField.bara : ∀ a b c, GuardField.Statement (.bara a b c) := by
  intro _ _ _ _ h; cases h; exact fG_packR ..
theorem GuardField.barw : ∀ a b c d, GuardField.Statement (.barw a b c d) := by
  intro _ _ _ _ _ h; cases h; exact fG_packR ..
theorem GuardField.baraw : ∀ a b c d, GuardField.Statement (.baraw a b c d) := by
  intro _ _ _ _ _ h; cases h; exact fG_packR ..
theorem GuardField.wreg : ∀ a b, GuardField.Statement (.wreg a b) := by
  intro _ _ _ h; cases h; exact fG_packR ..
theorem GuardField.wdereg : ∀ a b, GuardField.Statement (.wdereg a b) := by
  intro _ _ _ h; cases h; exact fG_packR ..
theorem GuardField.whold : ∀ a b, GuardField.Statement (.whold a b) := by
  intro _ _ _ h; cases h; exact fG_packR ..
theorem GuardField.wholdRel : ∀ a b, GuardField.Statement (.wholdRel a b) := by
  intro _ _ _ h; cases h; exact fG_packR ..
theorem GuardField.mon : ∀ a b c, GuardField.Statement (.mon a b c) := by
  intro _ _ _ _ h; cases h; exact fG_packR ..
theorem GuardField.mwait : ∀ a b c, GuardField.Statement (.mwait a b c) := by
  intro _ _ _ _ h; cases h; exact fG_packR ..
theorem GuardField.rend : GuardField.Statement .rend := nofun
theorem GuardField.fence : ∀ a b, GuardField.Statement (.fence a b) := by
  intro _ _ _ h; cases h; exact fG_packL ..
theorem GuardField.fencesc : ∀ a, GuardField.Statement (.fencesc a) := by
  intro _ _ h; cases h; exact fG_packL ..
theorem GuardField.sysrd : ∀ a b c, GuardField.Statement (.sysrd a b c) := by
  intro _ _ _ _ h; cases h; exact fG_packR ..
theorem GuardField.syswr : ∀ a b c, GuardField.Statement (.syswr a b c) := by
  intro _ _ _ _ h; cases h; exact fG_packR ..
theorem GuardField.trap : ∀ a b, GuardField.Statement (.trap a b) := by
  intro _ _ _ h; cases h; exact fG_packR ..
theorem GuardField.eret : ∀ a b c, GuardField.Statement (.eret a b c) := by
  intro _ _ _ _ h; cases h; exact fG_packR ..
theorem GuardField.bkpt : ∀ a, GuardField.Statement (.bkpt a) := by
  intro _ _ h; cases h; exact fG_packR ..
theorem GuardField.time : ∀ a b c, GuardField.Statement (.time a b c) := by
  intro _ _ _ _ h; cases h; exact fG_packR ..
theorem GuardField.pause : ∀ a b, GuardField.Statement (.pause a b) := by
  intro _ _ _ h; cases h; exact fG_packR ..
theorem GuardField.idle : ∀ a, GuardField.Statement (.idle a) := by
  intro _ _ h; cases h; exact fG_packR ..
theorem GuardField.nop : ∀ a, GuardField.Statement (.nop a) := by
  intro _ _ h; cases h; exact fG_packR ..
theorem GuardField.gath : ∀ a b c d e, GuardField.Statement (.gath a b c d e) := by
  intro _ _ _ _ _ _ h; cases h; exact fG_packR ..
theorem GuardField.scat : ∀ a b c d, GuardField.Statement (.scat a b c d) := by
  intro _ _ _ _ _ h; cases h; exact fG_packR ..
theorem GuardField.ximm : ∀ a, GuardField.Statement (.ximm a) := nofun
theorem GuardField.copy : ∀ a b, GuardField.Statement (.copy a b) := nofun
theorem GuardField.gcopy : ∀ a b, GuardField.Statement (.gcopy a b) := nofun
theorem GuardField.mcast : ∀ a b, GuardField.Statement (.mcast a b) := nofun
theorem GuardField.mxd : ∀ a, GuardField.Statement (.mxd a) := nofun
theorem GuardField.mxc : ∀ a, GuardField.Statement (.mxc a) := nofun
theorem GuardField.mxl : ∀ a, GuardField.Statement (.mxl a) := nofun
theorem GuardField.mxr : ∀ a, GuardField.Statement (.mxr a) := nofun
theorem GuardField.mxdrn : ∀ a, GuardField.Statement (.mxdrn a) := nofun
theorem GuardField.coll : ∀ a, GuardField.Statement (.coll a) := nofun
theorem GuardField.null : ∀ a b, GuardField.Statement (.null a b) := nofun
theorem GuardField.link : ∀ a b, GuardField.Statement (.link a b) := nofun
theorem GuardField.note : ∀ a b, GuardField.Statement (.note a b) := nofun
theorem GuardField.recordFetch : ∀ a b, GuardField.Statement (.recordFetch a b) := nofun
theorem GuardField.recordWaitsSatisfied : ∀ a b, GuardField.Statement (.recordWaitsSatisfied a b) := nofun
theorem GuardField.recordOrderSatisfied : ∀ a b, GuardField.Statement (.recordOrderSatisfied a b) := nofun
theorem GuardField.permitGrant : ∀ a b, GuardField.Statement (.permitGrant a b) := nofun
theorem GuardField.recordTokenPop : ∀ a b, GuardField.Statement (.recordTokenPop a b) := nofun
theorem GuardField.progressMark : ∀ a b, GuardField.Statement (.progressMark a b) := nofun
theorem GuardField.tileCommit : ∀ a, GuardField.Statement (.tileCommit a) := nofun
theorem GuardField.recordRetire : ∀ a b, GuardField.Statement (.recordRetire a b) := nofun
theorem GuardField.chainModeEnter : ∀ a b, GuardField.Statement (.chainModeEnter a b) := nofun
theorem GuardField.chainFetch : ∀ a b, GuardField.Statement (.chainFetch a b) := nofun
theorem GuardField.copyShareSplit : ∀ a, GuardField.Statement (.copyShareSplit a) := nofun
theorem GuardField.leaseRunTimeout : ∀ a, GuardField.Statement (.leaseRunTimeout a) := nofun
theorem GuardField.leasePermitStall : ∀ a, GuardField.Statement (.leasePermitStall a) := nofun
theorem GuardField.jobComplete : ∀ a, GuardField.Statement (.jobComplete a) := nofun
theorem GuardField.hostCompletionEntry : ∀ a, GuardField.Statement (.hostCompletionEntry a) := nofun
theorem GuardField.queueDeadlockTrap : ∀ a, GuardField.Statement (.queueDeadlockTrap a) := nofun
theorem GuardField.addressQueueFault : ∀ a, GuardField.Statement (.addressQueueFault a) := nofun
theorem GuardField.tlbWalkComplete : ∀ a, GuardField.Statement (.tlbWalkComplete a) := nofun
theorem GuardField.bankmApply : ∀ a b, GuardField.Statement (.bankmApply a b) := nofun
theorem GuardField.counterPostPerform : ∀ a, GuardField.Statement (.counterPostPerform a) := nofun
theorem GuardField.postRefusalReturn : ∀ a, GuardField.Statement (.postRefusalReturn a) := nofun
theorem GuardField.unregisteredRecheck : ∀ a b, GuardField.Statement (.unregisteredRecheck a b) := nofun
theorem GuardField.tahrForward : ∀ a, GuardField.Statement (.tahrForward a) := nofun
theorem GuardField.mwaitTimeout : ∀ a, GuardField.Statement (.mwaitTimeout a) := nofun
theorem GuardField.idleTimeout : ∀ a, GuardField.Statement (.idleTimeout a) := nofun
theorem GuardField.pauseExpire : ∀ a b, GuardField.Statement (.pauseExpire a b) := nofun
theorem GuardField.fencescCompletion : ∀ a b, GuardField.Statement (.fencescCompletion a b) := nofun
theorem GuardField.objAlloc : ∀ a, GuardField.Statement (.objAlloc a) := nofun
theorem GuardField.objFree : ∀ a, GuardField.Statement (.objFree a) := nofun
theorem GuardField.objRearm : ∀ a, GuardField.Statement (.objRearm a) := nofun
theorem GuardField.map : ∀ a, GuardField.Statement (.map a) := nofun
theorem GuardField.unmap : ∀ a, GuardField.Statement (.unmap a) := nofun
theorem GuardField.changePermissions : ∀ a, GuardField.Statement (.changePermissions a) := nofun
theorem GuardField.mapShootdownDone : ∀ a, GuardField.Statement (.mapShootdownDone a) := nofun
theorem GuardField.launchPlace : ∀ a b c, GuardField.Statement (.launchPlace a b c) := nofun
theorem GuardField.preempt : ∀ a, GuardField.Statement (.preempt a) := nofun
theorem GuardField.preemptSave : ∀ a, GuardField.Statement (.preemptSave a) := nofun
theorem GuardField.restore : ∀ a b, GuardField.Statement (.restore a b) := nofun
theorem GuardField.gangGateOpen : ∀ a b c, GuardField.Statement (.gangGateOpen a b c) := nofun
theorem GuardField.gangCancel : ∀ a b c, GuardField.Statement (.gangCancel a b c) := nofun
theorem GuardField.recordStallStop : ∀ a b, GuardField.Statement (.recordStallStop a b) := nofun
theorem GuardField.faultQueueCopy : ∀ a, GuardField.Statement (.faultQueueCopy a) := nofun
theorem GuardField.watchdogAlarm : ∀ a, GuardField.Statement (.watchdogAlarm a) := nofun
theorem GuardField.markhorDrainDone : ∀ a, GuardField.Statement (.markhorDrainDone a) := nofun
theorem GuardField.markhorHoldExpire : ∀ a, GuardField.Statement (.markhorHoldExpire a) := nofun
theorem GuardField.markhorReload : ∀ a b, GuardField.Statement (.markhorReload a b) := nofun
theorem GuardField.coreResetComplete : ∀ a b, GuardField.Statement (.coreResetComplete a b) := nofun
theorem GuardField.mkctlEngineReset : ∀ a, GuardField.Statement (.mkctlEngineReset a) := nofun
theorem GuardField.mkctlCoreReset : ∀ a, GuardField.Statement (.mkctlCoreReset a) := nofun
theorem GuardField.mkctlDieWarmReset : ∀ a, GuardField.Statement (.mkctlDieWarmReset a) := nofun
theorem GuardField.mkctlTenantReset : ∀ a, GuardField.Statement (.mkctlTenantReset a) := nofun
theorem GuardField.mkctlModuleReset : ∀ a, GuardField.Statement (.mkctlModuleReset a) := nofun
theorem GuardField.dieQuiesceDone : ∀ a, GuardField.Statement (.dieQuiesceDone a) := nofun
theorem GuardField.dieWritebackDone : ∀ a, GuardField.Statement (.dieWritebackDone a) := nofun
theorem GuardField.dieResetDone : ∀ a, GuardField.Statement (.dieResetDone a) := nofun
theorem GuardField.dieRetrainDone : ∀ a, GuardField.Statement (.dieRetrainDone a) := nofun
theorem GuardField.dieReadmit : ∀ a, GuardField.Statement (.dieReadmit a) := nofun
theorem GuardField.recvNackDeadline : ∀ a b c, GuardField.Statement (.recvNackDeadline a b c) := nofun
theorem GuardField.recvAbandonDeadline : ∀ a b c, GuardField.Statement (.recvAbandonDeadline a b c) := nofun
theorem GuardField.sendRetransmitTimeout : ∀ a b, GuardField.Statement (.sendRetransmitTimeout a b) := nofun
theorem GuardField.sendLossTimeout : ∀ a b, GuardField.Statement (.sendLossTimeout a b) := nofun
theorem GuardField.collTimeout : ∀ a, GuardField.Statement (.collTimeout a) := nofun
theorem GuardField.routeSwap : ∀ a, GuardField.Statement (.routeSwap a) := nofun
theorem GuardField.submitSysregWrite : ∀ a, GuardField.Statement (.submitSysregWrite a) := nofun
theorem GuardField.submitAttestation : ∀ a, GuardField.Statement (.submitAttestation a) := nofun
theorem GuardField.submitPreemptionNotice : ∀ a, GuardField.Statement (.submitPreemptionNotice a) := nofun
theorem GuardField.auditReplay : ∀ a, GuardField.Statement (.auditReplay a) := nofun
theorem GuardField.auditCompare : ∀ a, GuardField.Statement (.auditCompare a) := nofun
theorem GuardField.parityAlarm : ∀ a, GuardField.Statement (.parityAlarm a) := nofun
theorem GuardField.protocolAlarm : ∀ a, GuardField.Statement (.protocolAlarm a) := nofun
theorem GuardField.scrubResetDue : ∀ a, GuardField.Statement (.scrubResetDue a) := nofun
theorem GuardField.ucieLinkDown : ∀ a b, GuardField.Statement (.ucieLinkDown a b) := nofun
theorem GuardField.ucieLinkUp : ∀ a b, GuardField.Statement (.ucieLinkUp a b) := nofun
theorem GuardField.fragmentDataReceive : ∀ a b, GuardField.Statement (.fragmentDataReceive a b) := nofun
theorem GuardField.fragmentParityReceive : ∀ a b, GuardField.Statement (.fragmentParityReceive a b) := nofun
theorem GuardField.ackReceive : ∀ a b, GuardField.Statement (.ackReceive a b) := nofun
theorem GuardField.nackReceive : ∀ a b, GuardField.Statement (.nackReceive a b) := nofun
theorem GuardField.lossReceive : ∀ a b, GuardField.Statement (.lossReceive a b) := nofun
theorem GuardField.gangCancelReceive : ∀ a b, GuardField.Statement (.gangCancelReceive a b) := nofun
theorem GuardField.portDown : ∀ a, GuardField.Statement (.portDown a) := nofun
theorem GuardField.portUp : ∀ a, GuardField.Statement (.portUp a) := nofun
theorem GuardField.edzanPortDown : ∀ a, GuardField.Statement (.edzanPortDown a) := nofun
theorem GuardField.edzanPortUp : ∀ a, GuardField.Statement (.edzanPortUp a) := nofun
theorem GuardField.powerOnBoot : ∀ a, GuardField.Statement (.powerOnBoot a) := nofun
theorem GuardField.hsqtailWrite : ∀ a b c, GuardField.Statement (.hsqtailWrite a b c) := nofun
theorem GuardField.stgcfgCacheWrite : ∀ a b c, GuardField.Statement (.stgcfgCacheWrite a b c) := nofun
theorem GuardField.lqtailWrite : ∀ a b c d, GuardField.Statement (.lqtailWrite a b c d) := nofun
theorem GuardField.fqresWrite : ∀ a b c, GuardField.Statement (.fqresWrite a b c) := nofun
theorem GuardField.rtswapWrite : ∀ a b c, GuardField.Statement (.rtswapWrite a b c) := nofun
theorem GuardField.bootclrWrite : ∀ a b, GuardField.Statement (.bootclrWrite a b) := nofun
theorem GuardField.mmclrWrite : ∀ a b c, GuardField.Statement (.mmclrWrite a b c) := nofun
theorem GuardField.sysregWrite : ∀ a b c, GuardField.Statement (.sysregWrite a b c) := nofun
theorem GuardField.systemSpaceAccess : ∀ a b c d, GuardField.Statement (.systemSpaceAccess a b c d) := nofun
theorem GuardField.hostMemoryAccess : ∀ a b c d, GuardField.Statement (.hostMemoryAccess a b c d) := nofun
theorem GuardField.scrubWord : ∀ a b c d, GuardField.Statement (.scrubWord a b c d) := nofun
theorem GuardField.dbgSoftHalt : ∀ a, GuardField.Statement (.dbgSoftHalt a) := nofun
theorem GuardField.dbgHardHalt : ∀ a, GuardField.Statement (.dbgHardHalt a) := nofun
theorem GuardField.dbgPreciseHalt : ∀ a b, GuardField.Statement (.dbgPreciseHalt a b) := nofun
theorem GuardField.dbgResume : ∀ a, GuardField.Statement (.dbgResume a) := nofun
theorem GuardField.throttlingBubble : ∀ a, GuardField.Statement (.throttlingBubble a) := nofun
theorem GuardField.portNotice : GuardField.Statement .portNotice := nofun
theorem GuardField.ckctlSnapshot : GuardField.Statement .ckctlSnapshot := nofun
theorem GuardField.ckctlRestore : GuardField.Statement .ckctlRestore := nofun
theorem GuardField.ckctlDiscard : GuardField.Statement .ckctlDiscard := nofun
theorem GuardField.checkpointChunkCopy : GuardField.Statement .checkpointChunkCopy := nofun
theorem GuardField.snapshotComplete : GuardField.Statement .snapshotComplete := nofun
theorem GuardField.mismatchSave : GuardField.Statement .mismatchSave := nofun

end Sys2Proof.Laws
end

