-- ==== Sys2Proof/Tests/Slice0.lean ====
section
/-! SUPPORT. Tests. Words and results are those of the spec's worked examples and tables, or hand calculation from its
rules; the witnesses show that the hypotheses of the statements can be met. -/

namespace Sys2Proof.Tests

open Sys2Proof Sys2Proof.Machine

set_option Elab.async false

/-- The predicate `p0` and the mask `m0`, without zeroing. -/
def g0 : Guard := ⟨0, false⟩
def k0 : MaskSel := ⟨0, false⟩

/-- Every word decodes to the instruction beside it. -/
def decodes (l : List (Nat × Instr)) : Bool :=
  l.all fun x => match decodeWord (BitVec.ofNat 32 x.1) with
    | .ok i => i == x.2
    | .error _ => false

/-- Every word is refused, with the error beside it. -/
def refuses (l : List (Nat × DecodeErr)) : Bool :=
  l.all fun x => match decodeWord (BitVec.ofNat 32 x.1) with
    | .ok _ => false
    | .error e => e == x.2

/-! ### Decoding: the words that the reference chapters write out -/

theorem test_words_integer : decodes [
    (0x04061100, .add g0 3 1 2), (0xFC000018, .ximm 24), (0x08061010, .addi g0 3 1 16), (0x0C021FF0, .andi g0 1 1 (-16)),
    (0x0406400E, .clz g0 3 4), (0x0406400F, .ctz g0 3 4), (0x20048A36, .cmp g0 0 2 8 20 3 6),
    (0x20261122, .cmp g0 2 3 1 2 2 2), (0x24022205, .cmpi g0 0 1 2 2 5), (0x04061116, .div g0 3 1 2),
    (0x04061117, .divn g0 3 1 2), (0x1C061101, .funl g0 3 1 2 1), (0x1C061141, .funr g0 3 1 2 1),
    (0x280201F0, .li g0 1 0x1F0), (0x28040064, .li g0 2 100), (0x2C027F00, .lui g0 1 0x7F00),
    (0x0406110B, .max g0 3 1 2), (0x04061113, .mul g0 3 1 2), (0x04061114, .mulh g0 3 1 2), (0x100210FF, .ori g0 1 1 0xFF),
    (0x30061108, .plog g0 3 1 2 8), (0x04064010, .popc g0 3 4), (0x18021804, .sari g0 1 1 4),
    (0x05461111, .sel ⟨2, true⟩ 3 1 2), (0x05061111, .sel ⟨2, false⟩ 3 1 2), (0x18021030, .shli g0 1 1 48),
    (0x18021404, .shri g0 1 1 4), (0x04061104, .xor g0 3 1 2), (0x14021FFF, .xori g0 1 1 (-1)),
    (0x34021200, .adda g0 1 1 4), (0x38042080, .addai g0 2 2 128), (0x34021001, .mova g0 1 1), (0x34043002, .movs g0 2 3)] = true := by
  decide +kernel

theorem test_words_float : decodes [
    (0x40061100, .fadd g0 3 1 2 0), (0x48041102, .fcmp g0 0 2 1 2 0 2), (0x4C085010, .fcvt g0 4 5 0 false 2 0),
    (0x4C085041, .fcvt g0 4 5 0 false 8 1), (0x44061130, .ffma g0 3 1 2 3), (0x44061100, .ffma g0 3 1 2 0),
    (0x40061122, .fmul g0 3 1 2 2)] = true := by decide +kernel

theorem test_words_control : decodes [
    (0x54080005, .call g0 1 5), (0x5CA00002, .brx ⟨1, false⟩ 4 2), (0x61180001, .brq 2 false 3 1),
    (0x61580001, .brq 2 true 3 1), (0x58007001, .calli g0 7), (0x68000000, .endl g0 0 false), (0x68020000, .endl g0 0 true),
    (0x68060000, .endl g0 1 true), (0x680A0000, .endl g0 2 true), (0x5800F000, .retA g0), (0x5801F000, .ret g0),
    (0x58007000, .jmpi g0 7), (0x50080003, .jmp 1 3), (0x64002000, .loop g0 0 false 2 0), (0x64063600, .loop g0 1 true 3 3)] = true := by
  decide +kernel

theorem test_words_memory : decodes [
    (0x6C2640C0, .ld g0 19 4 0 3 0), (0x6C082382, .ld g0 4 2 3 2 2), (0x780410C1, .ldq g0 2 1 0 1), (0x7008207F, .lds g0 4 2 0 1 (-1)),
    (0x740A10C0, .st g0 5 1 0 3 0), (0x74082382, .st g0 4 2 3 2 2), (0x7C001081, .stq g0 1 0 2 1),
    (0xF4022184, .gath g0 1 2 3 2), (0xF4002185, .scat g0 2 3 2), (0xD8004008, .cflush g0 4), (0xD8004009, .pref g0 4),
    (0xE40C30D9, .amo g0 6 3 0 true false true 9)] = true := by decide +kernel

theorem test_words_vector : decodes [
    (0x8C2F0C20, .lut3 0 11 24 12 0x20), (0x8C50CDE8, .lut3 0 20 6 13 0xE8), (0x8C102296, .lut3 0 4 1 2 0x96),
    (0x80061100, .vadd k0 3 1 2 0), (0x80061101, .vsub k0 3 1 2 0), (0x80061102, .vmul k0 3 1 2 0), (0x80061103, .vmin k0 3 1 2 0),
    (0x80061104, .vmax k0 3 1 2 0), (0x80061005, .vabs k0 3 1 0), (0x80061006, .vneg k0 3 1 0), (0x800211D0, .vadd k0 1 1 3 10),
    (0x80461140, .vadd ⟨0, true⟩ 3 1 2 8), (0x800600B9, .vsub k0 3 0 1 7), (0xB0061001, .vbcst k0 3 1 0), (0xB0074051, .vbcst k0 3 20 10),
    (0xBC061061, .vclz k0 3 1 12), (0x94021102, .vcmp 0 1 1 2 0 2), (0x95061130, .vcmp 2 3 1 2 6 0), (0x9C061010, .vcvt k0 3 1 0 false 2 0),
    (0x9C083710, .vcvt k0 4 3 7 false 2 0), (0x9C0610A0, .vcvt k0 3 1 0 true 4 0), (0x9C061200, .vcvt k0 3 1 2 false 0 0),
    (0xA1861010, .vcvtbInto 3 3 1 0 1 0), (0xA0083050, .vcvtbOut 4 3 0 1 0), (0xB0061143, .vext 3 1 2 8), (0x84061100, .vfma k0 3 1 2 0),
    (0x9030C601, .vfunl 0 12 6 6 1), (0x900C2208, .vfunl 0 3 1 2 8), (0x900C2288, .vfunr 0 3 1 2 8), (0xB006116C, .vins 3 1 2 13),
    (0xB006005A, .viota k0 3 11), (0xC002B0C0, .vld false 0 1 11 0 0), (0xC20610C1, .vld true 0 3 1 0 1), (0xBC062052, .vmask k0 3 2 10),
    (0xB00C1268, .vperm k0 6 1 4 13), (0xB0061150, .vperm k0 3 1 2 10), (0xBC061060, .vpopc k0 3 1 12), (0xA5061000, .vred 2 3 1 0 0),
    (0xB8060000, .vrnd k0 3), (0xB4061013, .vrsq k0 3 1 2), (0x88061132, .vsar k0 3 1 2 6), (0xA9061000, .vscan ⟨2, false⟩ 3 1 0 0),
    (0x99061100, .vsel 2 3 1 2), (0x988D8300, .vsel 1 6 24 6), (0x988E6280, .vsel 1 7 6 5), (0x88061140, .vshl k0 3 1 2 8),
    (0x88061159, .vshr k0 3 1 2 11), (0xC69850C0, .vst true 1 12 5 0 0), (0xC40510C1, .vst false 0 2 17 0 1), (0xC68860FF, .vst true 1 4 6 0 (-1)),
    (0xC692E0C3, .vst true 1 9 14 0 3), (0xC78612C0, .vst true 3 3 1 2 0), (0xAC881100, .vtopk 1 4 1 2 0 0)] = true := by decide +kernel

theorem test_words_commands_and_queues : decodes [
    (0xC8100000, .kclr g0 2), (0xC80946C0, .kget g0 1 5 3), (0xC8100B00, .kld g0 2 5 0), (0xD0004181, .knote g0 0 4 3),
    (0xD0140080, .kpush g0 10 0 1), (0xD00A2080, .kpush g0 5 2 1), (0xC8094640, .kset g0 1 5 3), (0xC8059480, .ksetd g0 0 22 10),
    (0xC8090680, .ksetd g0 1 4 3), (0xCC000010, .kseti g0 0 0 0x10), (0xC8100B41, .kst g0 2 5 1), (0xD0003002, .qkick g0 3 false),
    (0xD0003102, .qkick g0 3 true), (0xD0002183, .qlink g0 false 2 3), (0xD0042183, .qlink g0 true 2 3), (0xD4020002, .qpeek g0 1 0),
    (0xD4067000, .qpop g0 3 7 false 0), (0xD4003000, .qpop g0 0 3 false 0), (0xD4020000, .qpop g0 1 0 false 0),
    (0xD4022A00, .qpop g0 1 2 true 1), (0xD4082E01, .qpush g0 4 2 true 3), (0xD4082001, .qpush g0 4 2 false 0),
    (0xD41CB083, .qstat g0 14 11 1), (0xD4064083, .qstat g0 3 4 1), (0xE800000A, .rend)] = true := by decide +kernel

theorem test_words_banks_and_reuse : decodes [
    (0xD8082002, .accal g0 4 2), (0xD80C1002, .accal g0 6 1), (0xD800B604, .accgive g0 11 12), (0xD8005304, .accgive g0 5 6),
    (0xD8061005, .bacq g0 3 1), (0xD808D005, .bacq g0 4 13), (0xD8002181, .bankf g0 2 3), (0xD8002180, .bankm g0 2 3),
    (0xD8001006, .brel g0 1), (0xD8002187, .slotrel g0 2 3), (0xDC1C3000, .ruarm g0 14 3), (0xDC1D8002, .rustat g0 14 24)] = true := by
  decide +kernel

theorem test_words_synchronisation : decodes [
    (0xE8044002, .bara g0 2 4), (0xE8044183, .barw g0 2 4 3), (0xE8044000, .lock g0 2 4), (0xE8044001, .unlock g0 2 4),
    (0xE8045008, .mon g0 2 5), (0xE8043009, .mwait g0 2 3), (0xE0004280, .scpost g0 4 5), (0xE0064001, .scread g0 3 4),
    (0xE01B5482, .scwait g0 13 21 9), (0xE0116982, .scwait g0 8 22 19), (0xE8004005, .wreg g0 4), (0xE8004006, .wdereg g0 4),
    (0xE8004007, .whold g0 4), (0xE8004087, .wholdRel g0 4), (0xEC000006, .fence g0 6), (0xEC010000, .fencesc g0)] = true := by decide +kernel

theorem test_words_system : decodes [
    (0xF0001103, .eret g0 1 2), (0xF0064000, .sysrd g0 3 4), (0xF0004281, .syswr g0 4 5), (0xF0060085, .time g0 3 true),
    (0xF0060005, .time g0 3 false), (0xF0004002, .trap g0 4), (0xF0000004, .bkpt g0), (0xF0000007, .idle g0), (0xF0000008, .nop g0),
    (0xF0002006, .pause g0 2)] = true := by decide +kernel
/-- The rows of the opcode table that no chapter writes a word for: the row's `match` with values in its fields. -/
theorem test_words_of_the_table : decodes [
    (0x06B23201, .sub ⟨5, false⟩ 0x19 0x3 0x4), (0x04C6D102, .and ⟨1, true⟩ 0x3 0xd 0x2), (0x04F44783, .or ⟨1, true⟩ 0x1a 0x4 0xf),
    (0x04C67705, .andn ⟨1, true⟩ 0x3 0x7 0xe), (0x0446E106, .shl ⟨0, true⟩ 0x3 0xe 0x2), (0x05749387, .shr ⟨2, true⟩ 0x1a 0x9 0x7),
    (0x060CCB88, .sar ⟨4, false⟩ 0x6 0xc 0x17), (0x0486DF89, .min ⟨1, false⟩ 0x3 0xd 0x1f), (0x077BDB8A, .minn ⟨6, true⟩ 0x1d 0x1d 0x17),
    (0x0616F28C, .maxn ⟨4, false⟩ 0xb 0xf 0x5), (0x066BC00D, .mov ⟨4, true⟩ 0x15 0x1c), (0x060FA515, .mulhn ⟨4, false⟩ 0x7 0x1a 0xa),
    (0x06BFA118, .rem ⟨5, false⟩ 0x1f 0x1a 0x2), (0x04EB6F99, .remn ⟨1, true⟩ 0x15 0x16 0x1f),
    (0x438B1F01, .fsub ⟨7, false⟩ 0x5 0x11 0x1e 0x0), (0x42658B33, .fmin ⟨4, true⟩ 0x12 0x18 0x16 0x3),
    (0x428FF1A4, .fmax ⟨5, false⟩ 0x7 0x1f 0x3 0x2), (0x41339005, .fclass ⟨2, false⟩ 0x19 0x19 0x0),
    (0x52F47207, .br ⟨5, true⟩ 0x6 0x47207), (0xB563A000, .vexp2 ⟨2, true⟩ 0x11 0x1a 0x0), (0xB7125019, .vlog2 ⟨6, false⟩ 0x9 0x5 0x3),
    (0xB51C0012, .vrcp ⟨2, false⟩ 0xe 0x0 0x2), (0xD9412003, .accfr ⟨2, true⟩ 0x12 0x0), (0xDD6F4001, .ruinv ⟨2, true⟩ 0x17 0x14),
    (0xE93B9304, .baraw ⟨2, false⟩ 0x1d 0x19 0x6)] = true := by decide +kernel


/-! ### Ill-formed instructions, and words that are none -/

theorem test_illformed_terms_are_refused : ([
    .cmp g0 3 1 2 3 0 0, .cmp g0 0 1 2 3 0 10, .cmpi g0 3 1 2 0 0, .cmpi g0 0 1 2 15 0, .fadd g0 1 2 3 4, .fsub g0 1 2 3 7, .fmul g0 1 2 3 5,
    .fmin g0 1 2 3 4, .fmax g0 1 2 3 4, .ffma g0 1 2 3 4, .fclass g0 1 2 4, .fcmp g0 3 1 2 3 0 0, .fcmp g0 0 1 2 3 4 0,
    .fcvt g0 1 2 14 false 0 0, .fcvt g0 1 2 0 false 14 0, .fcvt g0 1 2 0 false 0 6, .br g0 1 1, .jmpi g0 31, .jmpi g0 15, .brq 3 false 1 1,
    .loop g0 0 true 1 5, .loop g0 0 false 1 1, .vadd k0 1 2 3 1, .vsub k0 1 2 3 4, .vmul k0 1 2 3 5, .vmin k0 1 2 3 14, .vmax k0 1 2 3 15,
    .vperm k0 1 2 3 1, .vabs k0 1 2 10, .vneg k0 1 2 13, .vfma k0 1 2 3 6, .vshl k0 1 2 3 0, .vshr k0 1 2 3 2, .vsar k0 1 2 3 3,
    .vcmp 0 1 2 3 8 6, .vcmp 0 1 2 3 1 0, .vcvt k0 1 2 1 false 0 0, .vcvt k0 1 2 0 false 14 0, .vcvt k0 1 2 0 false 2 7,
    .vcvtbInto 0 1 2 6 1 0, .vcvtbInto 0 1 2 0 0 1, .vcvtbInto 1 1 2 0 2 0, .vcvtbInto 0 1 2 0 2 6, .vcvtbOut 1 2 0 1 6, .vcvtbOut 1 2 9 1 0,
    .vred 0 1 2 0 3, .vred 0 1 2 6 6, .vscan k0 1 2 2 5, .vtopk 0 1 2 3 0 3, .vtopk 0 1 2 3 14 0, .vbcst k0 1 2 1, .viota k0 1 14,
    .vext 1 2 3 1, .vins 1 2 3 15, .vexp2 k0 1 2 6, .vlog2 k0 1 2 1, .vrcp k0 1 2 4, .vrsq k0 1 2 5, .vpopc k0 1 2 0, .vclz k0 1 2 3,
    .vmask k0 1 2 2, .vld true 2 1 2 0 0, .vld false 1 1 2 0 0, .vst true 2 1 2 0 0, .ksetd g0 0 1 2, .qpop g0 1 2 false 1,
    .qpop g0 1 2 true 2, .qpop g0 1 4 true 0, .qpush g0 5 1 true 0, .qpush g0 4 1 false 3, .amo g0 1 2 0 true false false 11] :
      List Instr).all (fun i => !i.wellFormed) = true := by decide +kernel

theorem test_words_that_are_no_instruction : refuses [
    (0, .reserved), (0x3C000000, .reserved), (0xF8000000, .reserved), (0x04000012, .reserved), (0x0400001A, .reserved),
    (0x18000C00, .reserved), (0x61800000, .reserved), (0xE400008B, .reserved), (0x0400008D, .field [.c, .a, .x]),
    (0xE4000000, .field [.c, .a]), (0xC0000000, .field [.x])] = true := by decide +kernel

theorem test_registers_that_a_stream_has :
    (Instr.add g0 16 0 0).regsOk .a = false ∧ (Instr.add g0 16 0 0).regsOk .c = true ∧ (Instr.adda g0 16 0 0).regsOk .c = false ∧
    (Instr.kget g0 4 0 0).regsOk .a = false ∧ (Instr.kget g0 4 0 0).regsOk .c = true ∧ (Instr.vtopk 0 31 1 2 0 0).regsOk .x = false ∧
    (Instr.amo g0 31 0 0 true false false 9).regsOk .c = false ∧ (Instr.amo g0 31 0 0 true false false 0).regsOk .c = true := by decide

/-! ### The test machine -/

/-- Loop level 0 is temporal, with a mark of level 1 that keeps `s1` and `a1`; level 2 is spatial. -/
def loopRows : List LoopRow :=
  [⟨1, false, false, 0, 0, 0, 0⟩, ⟨1, true, false, 0, 0, 0, 0x200000002⟩, ⟨0, false, false, 0, 0, 0, 0⟩, ⟨1, false, false, 3, 0, 0, 0⟩]

/-- A job of tenant 1. -/
def job (level : BitVec 2) : Job :=
  { tenant := 1, level := level, queue := 0, record := 0, inst := 0, image := 0x400, args := 7, idx := Vector.replicate 4 0, done := 0, prio := 0,
    preemptible := true, det := false, hostEntry := false, gang := false, gateOpen := true, joined := true, mask := 1, loops := loopRows,
    placed := 0, start := 0, banksDue := [] }

/-- 2 MB of tenant 1 at virtual address 0 lie at 0x200000 of the home memory, open to level U; its next 2 MB may only be read. -/
def maps : List Mapping := [⟨0, 0x200000, 0x200000, true, true, true⟩, ⟨0x200000, 0x400000, 0x200000, true, false, false⟩]

/-- Core 0 runs a job of tenant 1 at the level given; its TLB holds the first pages of both, and two that are not mapped. -/
def machine (level : BitVec 2) : State :=
  ((State.reset.updCore 0 fun k =>
    { k with job := some (job level), tlb := [0, 1, 2, 3, 4, 5, 6, 7, 0x1FF, 0x200, 0x1000, 0x10000].map fun p => (1, p) }).updTenant 1 fun t =>
      { t with maps := maps })

/-- The stream `l` of core 0 issues, with the registers that `f` leaves. -/
def box (l : Lane) (f : StreamState → StreamState) : State := ({ machine 0 with focusLane := l } : State).updMe f
def boxAt (level : BitVec 2) (l : Lane) (f : StreamState → StreamState) : State := ({ machine level with focusLane := l } : State).updMe f

/-- The instruction completes, in a state of which `p` holds. -/
def leaves (s : State) (i : Instr) (p : State → Bool) : Bool :=
  match exec i s with
  | .next t => p t
  | _ => false

/-- Each instruction leaves its value in `s3`, and the stream goes on; it may have read its floating-point environment. -/
def scalars (s : State) (l : List (Instr × Nat)) : Bool :=
  l.all fun x => leaves s x.1 fun t => (t.me.rs 3).toNat == x.2 &&
    t.me == { (s.me.ws 3 (t.me.rs 3)).done with fpUses := t.me.fpUses, fpTop := t.me.fpTop }

/-- Each instruction leaves its value in the low bits of `v3`. -/
def vectors (s : State) (l : List (Instr × Nat)) : Bool :=
  l.all fun x => leaves s x.1 fun t => (t.me.rv 3).toNat == x.2

/-- The cause and subcode of the stop that the instruction takes. -/
def stops (s : State) (i : Instr) : Option (Nat × Nat) :=
  match exec i s with
  | .next t => t.myCore.stop.map fun f => (f.cause, f.sub)
  | _ => none

/-! ### Results -/

/-- `s1` = 0xF000000000000005, `s2` = 7. -/
def ints : State := box .c fun t => (t.ws 1 0xF000000000000005).ws 2 7

theorem test_integer_results : scalars ints [
    (.add g0 3 1 2, 0xF00000000000000C), (.sub g0 3 1 2, 0xEFFFFFFFFFFFFFFE), (.and g0 3 1 2, 5), (.or g0 3 1 2, 0xF000000000000007),
    (.xor g0 3 1 2, 0xF000000000000002), (.andn g0 3 1 2, 0xF000000000000000), (.shl g0 3 1 2, 0x280), (.shr g0 3 1 2, 0x01E0000000000000),
    (.sar g0 3 1 2, 0xFFE0000000000000), (.min g0 3 1 2, 0xF000000000000005), (.minn g0 3 1 2, 7), (.max g0 3 1 2, 7),
    (.maxn g0 3 1 2, 0xF000000000000005), (.mov g0 3 1, 0xF000000000000005), (.clz g0 3 2, 61), (.ctz g0 3 1, 0), (.popc g0 3 1, 6),
    (.sel g0 3 1 2, 0xF000000000000005), (.mul g0 3 1 2, 0x9000000000000023), (.mulh g0 3 1 2, 0xFFFFFFFFFFFFFFFF), (.mulhn g0 3 1 2, 6)] =
      true := by decide +kernel

theorem test_division_results : scalars ints [
    (.div g0 3 1 2, 0xFDB6DB6DB6DB6DB8), (.divn g0 3 1 2, 0x2249249249249249 + 0), (.rem g0 3 1 2, 0xFFFFFFFFFFFFFFFD),
    (.remn g0 3 1 2, 6), (.div g0 3 1 4, 0xFFFFFFFFFFFFFFFF), (.divn g0 3 1 4, 0xFFFFFFFFFFFFFFFF), (.rem g0 3 1 4, 0xF000000000000005),
    (.remn g0 3 1 4, 0xF000000000000005), (.clz g0 3 4, 64), (.ctz g0 3 4, 64)] = true := by decide +kernel

theorem test_immediate_results : scalars ints [
    (.addi g0 3 2 0xFFF, 6), (.andi g0 3 1 0xFF0, 0xF000000000000000), (.ori g0 3 2 0x800, 0xFFFFFFFFFFFFF807),
    (.xori g0 3 2 0xFFF, 0xFFFFFFFFFFFFFFF8), (.shli g0 3 2 48, 0x7000000000000), (.shri g0 3 1 60, 15), (.sari g0 3 1 60, 0xFFFFFFFFFFFFFFFF),
    (.funl g0 3 1 2 4, 0x50), (.funr g0 3 1 2 1, 0x8000000000000003), (.li g0 3 0x1FFFF, 0xFFFFFFFFFFFFFFFF), (.li g0 3 100, 100),
    (.lui g0 3 0x7F00, 0x3F800000)] = true := by decide +kernel

/-- `s10` = 0 and `s11` = the least number: the corner of DIV and REM. -/
theorem test_division_overflow : scalars (box .c fun t => (t.ws 1 0x8000000000000000).ws 2 (-1)) [
    (.div g0 3 1 2, 0x8000000000000000), (.rem g0 3 1 2, 0)] = true := by decide +kernel

theorem test_addresses : leaves (box .a fun t => (t.wa 1 0x1000).ws 2 (-16)) (.adda g0 3 1 2) (fun t => t.me.ra 3 == 0xFF0) = true ∧
    leaves (box .a fun t => t.wa 1 0x1000) (.addai g0 3 1 0x800) (fun t => t.me.ra 3 == 0x800) = true ∧
    leaves (box .c fun t => t.ws 1 0x2200000000000001) (.mova g0 1 1) (fun t => t.me.ra 1 == 0x2200000000000001) = true ∧
    leaves (box .c fun t => t.wa 3 0x2200000000000001) (.movs g0 2 3) (fun t => t.me.rs 2 == 0x2200000000000001) = true := by decide +kernel

/-- CMP compares the low bits that its width names; CMPI.ltn with -1 is true of all but all ones (R310); PLOG is a table. -/
theorem test_compares :
    leaves (box .c fun t => (t.ws 1 0x100000001).ws 2 2) (.cmp g0 0 2 1 2 2 2) (·.me.rp 2) = true ∧
    leaves (box .c fun t => (t.ws 1 0x100000001).ws 2 2) (.cmp g0 0 2 1 2 3 2) (!·.me.rp 2) = true ∧
    leaves (box .c fun t => t.ws 2 5) (.cmpi g0 0 1 2 6 0xFF) (·.me.rp 1) = true ∧
    leaves (box .c fun t => t.ws 2 (-1)) (.cmpi g0 0 1 2 6 0xFF) (!·.me.rp 1) = true ∧
    leaves (box .c fun t => t.wp 1 true) (.plog g0 3 1 2 0x4) (·.me.rp 3) = true ∧
    leaves (box .c id) (.cmpi g0 0 0 2 1 0) (·.me.rp 0) = true := by decide +kernel

theorem test_a_false_predicate_only_goes_on :
    leaves (box .c fun t => t.ws 1 5) (.add ⟨1, false⟩ 3 1 1) (fun t => t.me == (box .c fun t => t.ws 1 5).me.done) = true ∧
    leaves (box .c fun t => t.ws 1 5) (.add ⟨1, true⟩ 3 1 1) (·.me.rs 3 == 10) = true := by decide +kernel

theorem test_the_checks : stops (box .x id) (.adda g0 1 1 1) = some (3, 0) ∧ stops (box .a id) (.add g0 16 0 0) = some (1, 3) ∧
    stops (box .c id) (.eret g0 1 2) = some (4, 0) ∧ stops (box .c id) (.fadd g0 1 2 3 4) = some (1, 1) := by decide +kernel

/-- f32 values in `s1`, `s2` and `s3`: 1.5, 2.25, 1.0. -/
def floats : State := box .x fun t => ((t.ws 1 0x3FC00000).ws 2 0x40100000).ws 3 0x3F800000

theorem test_scalar_float_results : scalars floats [
    (.fadd g0 3 1 2 0, 0x40700000), (.fsub g0 3 1 2 0, 0xBF400000), (.fmul g0 3 1 2 0, 0x40580000), (.ffma g0 3 1 2 0, 0x408C0000),
    (.fmin g0 3 1 2 0, 0x3FC00000), (.fmax g0 3 1 2 0, 0x40100000), (.fclass g0 3 1 0, 2 ^ 6)] = true := by decide +kernel

/-- The worked conversions of R327: -3.0 and +∞ to s32 towards zero, 1 + 2^-8 to bf16; and FCMP. -/
theorem test_conversions_and_compares_of_floats :
    leaves (box .c fun t => t.ws 5 0xC0400000) (.fcvt g0 4 5 0 false 8 1) (·.me.rs 4 == 0xFFFFFFFFFFFFFFFD) = true ∧
    leaves (box .c fun t => t.ws 5 0x7F800000) (.fcvt g0 4 5 0 false 8 1) (fun t => t.me.rs 4 == 0x7FFFFFFF && t.me.fpflags == 16) = true ∧
    leaves (box .c fun t => t.ws 5 0x3F808000) (.fcvt g0 4 5 0 false 2 0) (fun t => t.me.rs 4 == 0x3F80 && t.me.fpflags == 1) = true ∧
    leaves floats (.fcmp g0 0 2 1 2 0 2) (·.me.rp 2) = true := by decide +kernel

/-- `v1` = -6, 9, 0 …; `v2` = 7, 2, 0 … as s32. -/
def lanes : State := box .x fun t => (t.wv 1 0x00000009FFFFFFFA).wv 2 0x0000000200000007

theorem test_vector_integer_results : vectors lanes [
    (.vadd k0 3 1 2 8, 0x0000000B00000001), (.vsub k0 3 1 2 8, 0x00000007FFFFFFF3), (.vmul k0 3 1 2 8, 0x00000012FFFFFFD6),
    (.vmin k0 3 1 2 8, 0x00000002FFFFFFFA), (.vmin k0 3 1 2 12, 0x0000000200000007), (.vmax k0 3 1 2 8, 0x0000000900000007),
    (.vabs k0 3 1 8, 0x0000000900000006), (.vneg k0 3 2 8, (0xFFFFFFFEFFFFFFF9)), (.vshl k0 3 1 2 8, 0x00000024FFFFFD00),
    (.vshr k0 3 1 2 8, 0x0000000201FFFFFF), (.vsar k0 3 1 2 8, 0x00000002FFFFFFFF), (.lut3 0 3 1 2 0x96, 0x0000000BFFFFFFFD),
    (.vfunl 0 3 1 2 8, 0x000009FFFFFFFA00), (.vfunr 0 3 1 2 8, 0xFA00000002000000), (.vpopc k0 3 1 12, 0x000000020000001E),
    (.vsel 0 3 1 2, 0x00000009FFFFFFFA), (.vins 3 2 1 8, 0)] = true := by decide +kernel

/-- `v1` = 1.5, 2.25 and `v2` = 2.25, 1.0 as f32; `v3` = 1.0 in its first element. -/
def flanes : State := box .x fun t => ((t.wv 1 0x401000003FC00000).wv 2 0x3F80000040100000).wv 3 0x3F800000

theorem test_vector_float_results : vectors flanes [
    (.vadd k0 3 1 2 0, 0x4050000040700000), (.vsub k0 3 1 2 0, 0x3FA00000BF400000), (.vmul k0 3 1 2 0, 0x4010000040580000),
    (.vmin k0 3 1 2 0, 0x3F8000003FC00000), (.vmax k0 3 1 2 0, 0x4010000040100000), (.vfma k0 3 1 2 0, 0x40100000408C0000)] = true ∧
    leaves flanes (.vabs k0 3 1 0) (fun t => (t.me.rv 3).extractLsb' 0 64 == 0x401000003FC00000#64) = true ∧
    leaves flanes (.vneg k0 3 1 0) (fun t => (t.me.rv 3).extractLsb' 0 64 == 0xC0100000BFC00000#64) = true := by decide +kernel

/-- A false element of the mask keeps, or with `.z` clears, its element. -/
theorem test_vector_masks :
    vectors (box .x fun t => (((t.wv 1 0x0102).wv 3 0x0304).wm 1 0x1)) [(.vadd ⟨1, false⟩ 3 1 1 10, 0x0304), (.vadd ⟨1, true⟩ 3 1 1 10, 0x04)] =
      true := by decide +kernel

theorem test_vector_moves :
    vectors (box .x fun t => (t.wv 1 0x44332211).wv 2 0x00010203) [(.vperm ⟨1, true⟩ 3 1 2 10, 0)] = true ∧
    vectors (box .x fun t => ((t.wv 1 0x44332211).wv 2 0x00010203).wm 1 0xF) [(.vperm ⟨1, true⟩ 3 1 2 10, 0x11223344),
      (.vbcst ⟨1, true⟩ 3 2 10, 0), (.viota ⟨1, true⟩ 3 10, 0x03020100), (.vmask ⟨1, true⟩ 3 1 10, 0xFFFFFFFF),
      (.vclz ⟨1, true⟩ 3 1 10, 0x01020203)] = true ∧
    leaves (box .x fun t => (t.wv 1 0xFFFFFFF000000001).ws 2 33) (.vext 3 1 2 8) (·.me.rs 3 == 0xFFFFFFFFFFFFFFF0) = true ∧
    vectors (box .x fun t => (t.ws 1 5).ws 2 17) [(.vins 3 1 2 13, 5 * 2 ^ 64), (.vbcst k0 4 1 13, 0)] = true := by decide +kernel

theorem test_vcmp_writes_whole_elements :
    leaves (box .x fun t => (t.wv 1 0x00000005FFFFFFFF).wv 2 0x0000000500000000) (.vcmp 0 1 1 2 8 2) (·.me.rm 1 == 0xF) = true := by
  decide +kernel

/-- The worked conversions of R393 and R394. -/
theorem test_vector_conversions :
    leaves (box .x fun t => t.wv 1 0x3F80000043FA0000) (.vcvt k0 3 1 0 true 4 0)
      (fun t => (t.me.rv 3).toNat == 0x387E && t.me.fpflags == 5) = true ∧
    leaves (box .x fun t => t.wv 1 0x3F80000043FA0000) (.vcvt k0 3 1 0 false 4 0)
      (fun t => (t.me.rv 3).toNat == 0x387F && t.me.fpflags == 5) = true ∧
    leaves (box .x fun t => t.wv 1 0x3DCCCCCDBF4000003E4CCCCD40400000) (.vcvtbInto 3 3 1 0 1 0)
      (fun t => (t.me.rv 3).toNat == 0x1D2B807D && t.me.fpflags == 1) = true ∧
    vectors (box .x fun t => t.wv 4 0x1D2B807D) [(.vcvtbOut 3 4 0 1 0, 0x3E000000BF8000003E80000040400000)] = true := by decide +kernel

/-- The worked sums of R399: 1.0e8, 1.0, -1.0e8, 1.0. -/
def sums : State := box .x fun t => (t.wv 1 0x3F800000CCBEBC203F8000004CBEBC20).wm 2 0xFFFF

theorem test_reductions :
    scalars sums [(.vred 2 3 1 0 0, 0x40000000), (.vred 2 3 1 0 1, 0x4CBEBC20), (.vred 2 3 1 8 2, 0xFFFFFFFFCCBEBC20)] = true ∧
    leaves sums (.vscan ⟨2, false⟩ 3 1 0 0)
      (fun t => (t.me.rv 3).toNat == 0x400000003F8000004CBEBC204CBEBC20 && t.me.fpflags == 1) = true := by decide +kernel

/-- The worked ranks of R403. -/
def ranks : State := box .x fun t =>
  ((t.wv 1 0x40A00000BF800000000000004000000040A00000800000007FC0000040000000).wm 1 0xFFFFFFFF).ws 2 4

theorem test_vtopk :
    leaves ranks (.vtopk 1 4 1 2 0 0) (fun t => (t.me.rv 4).toNat == 0x4000000040A0000040A000007FC00000 &&
      (t.me.rv 5).extractLsb' 0 80 == 0xFFFF0000000700030001#80) = true ∧
    leaves (ranks.updMe fun t => t.ws 2 8) (.vtopk 1 4 1 2 0 1) (fun t => (t.me.rv 5).extractLsb' 0 128 ==
      0x00010006000500020004000000070003#128) = true ∧
    leaves (ranks.updMe fun t => t.ws 2 8) (.vtopk 1 4 1 2 0 2) (fun t => ((t.me.rv 4).toNat / 2 ^ 224) % 2 ^ 32 == 0 &&
      ((t.me.rv 5).toNat / 2 ^ 112) % 2 ^ 16 == 0xFFFF) = true := by decide +kernel

theorem test_functions_and_draws :
    vectors (box .x fun t => (t.wv 1 0x40400000).wm 1 0xF) [(.vexp2 ⟨1, true⟩ 3 1 0, 0x41000000), (.vrcp ⟨1, true⟩ 3 1 0, 0x3EAAAAAB)] = true ∧
    vectors (box .x fun t => (t.wv 1 0x41800000).wm 1 0xF) [(.vlog2 ⟨1, true⟩ 3 1 0, 0x40800000), (.vrsq ⟨1, true⟩ 3 1 0, 0x3E800000)] = true ∧
    leaves (box .x id) (.vrnd k0 3) (fun t => (t.me.rv 3).extractLsb' 0 32 == BitVec.ofNat 32 (cmx 0 (3 * 256))) = true := by decide +kernel

/-! ### Control -/

theorem test_jumps :
    leaves (box .c id) (.br ⟨0, false⟩ 2 1) (fun t => t.myCore.stop.isSome) = true ∧
    leaves (box .c id) (.jmp 2 0x7FFFF) (fun t => t.me.pc == ⟨-32, 2, false⟩) = true ∧
    leaves (box .c fun t => t.wp 1 true) (.br ⟨1, false⟩ 2 1) (fun t => t.me.pc == ⟨32, 2, false⟩) = true ∧
    leaves (box .c fun t => t.ws 7 0x1046) (.jmpi g0 7) (fun t => t.me.pc == ⟨0x1040, 6, false⟩) = true ∧
    leaves (box .a fun t => t.ws 15 0x1042) (.retA g0) (fun t => t.me.pc == ⟨0x1040, 2, false⟩) = true ∧
    leaves (box .x fun t => t.ws 31 0x1042) (.ret g0) (fun t => t.me.pc == ⟨0x1040, 2, false⟩) = true := by decide +kernel

/-- The line at virtual address 0: its lanes hold an XIMM, an ADDI and a NOP of stream C, and it is not the last of its image. -/
def code (l : List Nat) (tags : Nat) : State → State := fun s =>
  { s with mem := memWrites s.mem 0x200000 (bytesOf 4 tags ++ l.flatMap (bytesOf 4)) }

/-- `XIMM 24; ADDI s5, s3, 0x6A0` is `ADDI s5, s3, 100000`; the XIMM's lane is 1. -/
def line : State :=
  code [0xFC000018, 0x080A36A0, 0xF0000008] 0x0111 (box .c fun t => { t.ws 3 1 with pc := ⟨0, 1, false⟩ })

theorem test_ximm_composes : leaves line (.ximm 24) (fun t => t.me.rs 5 == 100001 && t.me.pc == ⟨0, 2, true⟩) = true := by decide +kernel

theorem test_ximm_before_an_instruction_that_takes_none : stops (code [0xFC000018, 0xF0000008] 0x011
    (box .c fun t => { t with pc := ⟨0, 1, false⟩ })) (.ximm 24) = some (1, 1) := by decide +kernel

theorem test_calls : leaves line (.call g0 1 5) (fun t => t.me.rs 31 == 2 && t.me.pc == ⟨160, 1, false⟩) = true ∧
    leaves (line.updMe fun t => t.ws 7 0x1042) (.calli g0 7) (fun t => t.me.rs 31 == 2 && t.me.pc == ⟨0x1040, 2, false⟩) = true := by
  decide +kernel

/-- A step of stream C fetches and runs the word at its place. -/
theorem test_step_runs_the_word :
    (match step { line with script := [.stream 0 .c] } with
     | .next t => t.me.rs 5 == 100001
     | _ => false) = true ∧
    (match step (State.reset.withFetchWord 32 0x08061010) with
     | .next t => t.me.rs 3 == 16
     | _ => false) = true := by decide +kernel

/-- Stream C with the lines that `b` says in its buffer. -/
def buffered (b : List (Nat × List Nat)) : State := line.updMe fun t => { t with ibuf := b }

theorem witness_StepRunsTheDecodedInstruction :
    ({ line with script := [.stream 0 .c] } : State).elapse.mayIssue 0 .c = true ∧ line.me.pc = ⟨0, 1, false⟩ ∧ line.me.ibuf = [] ∧
    line.walking (line.who 0) .fetch 0 = false ∧
    (match line.fetchLine 0 0 with
     | .ok l => l.reserved == 0 && l.tag 1 == laneTag .c && l.words.length == 8
     | _ => false) = true ∧
    (line.updMyCore fun k => { k with tlb := [] }).walking (line.who 0) .fetch 0 = true ∧
    Tab.find (buffered [(32, []), (0, [0x011])]).me.ibuf 0 = some [0x011] ∧
    (match step { buffered [(0, [0x011, 0x080A3010])] with script := [.stream 0 .c] } with
     | .next t => t.me.rs 5 == 0x11
     | _ => false) = true := by decide +kernel

/-- BRX of A exports to `bq2`, and BRQ of X takes the outcome. -/
theorem test_branch_outcomes :
    leaves (box .a fun t => t.wp 1 true) (.brx ⟨1, false⟩ 2 1) (fun t => (t.myCore.branch 2).peek == some 1 && t.me.pc.line == 32) = true ∧
    leaves ((box .x id).updMyCore fun k => k.setBranch 2 ⟨[1], 0, 0⟩) (.brq 2 false 3 1)
      (fun t => t.me.pc == ⟨32, 3, false⟩ && (t.myCore.branch 2).peek == none) = true := by decide +kernel

/-- Two iterations of level 0: LOOP, ENDL back to the top, ENDL on. -/
theorem test_loops :
    leaves (box .c fun t => { t.ws 2 2 with pc := ⟨0, 1, false⟩ }) (.loop g0 0 false 2 0)
      (fun t => t.me.loops == [⟨0, ⟨0, 1, true⟩, 2, 0, false, 1, 2, 0⟩] && t.me.pc == ⟨0, 1, true⟩) = true ∧
    leaves (box .c fun t => { t with loops := [⟨0, ⟨0, 1, true⟩, 2, 0, false, 1, 2, 0⟩], pc := ⟨32, 4, false⟩ }) (.endl g0 0 false)
      (fun t => t.me.pc == ⟨0, 1, true⟩ && t.me.iter == 1) = true ∧
    leaves (box .c fun t => { t with loops := [⟨0, ⟨0, 1, true⟩, 1, 1, false, 1, 2, 0⟩], pc := ⟨32, 4, false⟩ }) (.endl g0 0 false)
      (fun t => t.me.pc == ⟨32, 4, true⟩ && t.me.loops == []) = true := by decide +kernel

/-- The stage predicates of the worked pipeline of R348: three stages over four items, six iterations. -/
theorem test_stage_predicates : (List.range 6).map (fun i => (stagePreds 0 3 4 i).toNat / 16) = [1, 3, 7, 7, 6, 4] := by decide +kernel

theorem test_loop_traps : stops (box .c id) (.loop g0 2 false 2 0) = some (1, 4) ∧ stops (box .c id) (.endl g0 0 false) = some (1, 4) ∧
    stops (box .c fun t => { t with loops := [⟨1, Pc.zero, 1, 0, false, 1, 1, 0⟩] }) (.endl g0 1 false) = some (1, 4) := by decide +kernel

/-- ENDL.m commits a mark that keeps the registers its row names. -/
theorem test_marks : leaves (box .c fun t => { (t.ws 1 5).ws 2 6 with loops := [⟨1, Pc.zero, 2, 0, false, 1, 2, 0⟩] }) (.endl g0 1 true)
    (fun t => match t.me.mark with
      | some m => m.seq == 1 && m.s[1] == 5 && m.s[2] == 0 && m.pc == Pc.zero
      | none => false) = true := by decide +kernel

theorem test_time_and_pause :
    leaves { box .c id with tick := 5, beat := 9 } (.time g0 3 true) (·.me.rs 3 == 9) = true ∧
    leaves { box .c id with tick := 5, beat := 9 } (.time g0 3 false) (·.me.rs 3 == 5) = true ∧
    leaves { box .c fun t => t.ws 2 0x100000000 with tick := 5 } (.pause g0 2) (·.me.wait == .none) = true ∧
    leaves { box .c fun t => t.ws 2 70000 with tick := 5 } (.pause g0 2) (·.me.wait == .pause 65541) = true ∧
    leaves { box .c id with tick := 5 } (.idle g0) (·.me.wait == .idle 65541) = true ∧
    leaves (box .c id) (.nop g0) (fun t => t.me == (box .c id).me.done) = true := by decide +kernel

/-! ### Witnesses: the hypotheses of the statements can be met -/

def isOk {ε α : Type} : Except ε α → Bool
  | .ok _ => true
  | .error _ => false

theorem witness_streams_issue_integer_instructions : ([
    .add g0 1 2 3, .sub g0 1 2 3, .and g0 1 2 3, .or g0 1 2 3, .xor g0 1 2 3, .andn g0 1 2 3, .shl g0 1 2 3, .shr g0 1 2 3, .sar g0 1 2 3,
    .min g0 1 2 3, .minn g0 1 2 3, .max g0 1 2 3, .maxn g0 1 2 3, .mov g0 1 2, .clz g0 1 2, .ctz g0 1 2, .popc g0 1 2, .sel ⟨1, true⟩ 1 2 3,
    .mul g0 1 2 3, .mulh g0 1 2 3, .mulhn g0 1 2 3, .div g0 1 2 3, .divn g0 1 2 3, .rem g0 1 2 3, .remn g0 1 2 3, .addi g0 1 2 3,
    .andi g0 1 2 3, .ori g0 1 2 3, .xori g0 1 2 3, .shli g0 1 2 63, .shri g0 1 2 63, .sari g0 1 2 63, .funl g0 1 2 3 63, .funr g0 1 2 3 63,
    .cmp g0 2 3 1 2 3 9, .cmpi g0 2 3 1 9 255, .li g0 1 3, .lui g0 1 3, .plog g0 1 2 3 15, .jmp 1 3, .br ⟨1, true⟩ 1 3, .call g0 1 3,
    .jmpi g0 7, .retA g0, .calli g0 7, .nop g0, .time g0 1 true, .fence g0 1, .fencesc g0, .ximm 3, .rend, .loop g0 0 true 1 4,
    .endl g0 0 true, .qstat g0 1 2 3, .scpost g0 1 2] : List Instr).all
    (fun i => (box .a id).issues i && (box .c id).issues i && (box .x id).issues i) = true := by decide +kernel

theorem witness_streams_issue_their_own : (([
    .adda g0 1 2 3, .mova g0 1 2, .movs g0 1 2, .addai g0 1 2 3, .brx g0 1 3, .ld g0 1 2 3 3 1, .lds g0 1 2 3 3 1, .st g0 1 2 3 3 1,
    .kclr g0 1, .kset g0 1 31 3, .ksetd g0 1 30 3, .kget g0 1 31 3, .kld g0 1 2 3, .kst g0 1 2 3, .kseti g0 1 31 3, .bacq g0 1 2, .brel g0 1,
    .scread g0 1 2, .amo g0 1 2 3 true true true 10, .pause g0 1] : List Instr).all
      (fun i => (box .a id).issues i && (box .c id).issues i) &&
    ([.fadd g0 1 2 3 3, .fsub g0 1 2 3 3, .fmul g0 1 2 3 3, .fmin g0 1 2 3 3, .fmax g0 1 2 3 3, .fclass g0 1 2 3, .ffma g0 1 2 3 3,
      .fcmp g0 2 1 2 3 3 7, .fcvt g0 1 2 13 true 13 5, .ret g0] : List Instr).all
      (fun i => (box .c id).issues i && (box .x id).issues i) &&
    ([.ldq g0 3 1 2 3, .stq g0 1 2 3 3, .gath g0 3 1 2 3, .scat g0 1 2 3, .qpop g0 1 4 false 0, .qpop g0 1 5 false 0, .qpeek g0 1 4,
      .kpush g0 1 3 0, .kpush g0 1 3 2, .knote g0 1 3 0, .brq 0 true 1 3] : List Instr).all (fun i => (box .a id).issues i) &&
    ([.qkick g0 1 true, .qlink g0 true 1 2, .kpush g0 1 7 1, .kpush g0 1 7 3, .knote g0 1 3 3, .qpop g0 1 7 false 0, .qpush g0 6 1 false 0,
      .bankm g0 1 2, .bankf g0 1 2, .accal g0 1 2, .accfr g0 1 2, .accgive g0 1 2, .slotrel g0 1 2, .cflush g0 1, .pref g0 1, .ruarm g0 1 2,
      .ruinv g0 1 2, .rustat g0 1 2, .lock g0 1 2, .unlock g0 1 2, .bara g0 1 2, .barw g0 1 2 7, .baraw g0 1 2 7, .wreg g0 1, .wdereg g0 1,
      .whold g0 1, .wholdRel g0 1, .mon g0 1 2, .mwait g0 1 2, .sysrd g0 1 2, .syswr g0 1 2, .trap g0 1, .bkpt g0, .idle g0,
      .scwait g0 1 2 3] : List Instr).all (fun i => (box .c id).issues i) &&
    (boxAt 1 .c id).issues (.eret g0 1 2)) = true := by decide +kernel

theorem witness_stream_x_issues : ([
    .vadd k0 1 2 3 13, .vsub k0 1 2 3 3, .vmul k0 1 2 3 6, .vmin k0 1 2 3 0, .vmax k0 1 2 3 2, .vabs k0 1 2 9, .vneg k0 1 2 0, .vfma k0 1 2 3 3,
    .vshl k0 1 2 3 6, .vshr k0 1 2 3 13, .vsar k0 1 2 3 9, .lut3 7 1 2 3 255, .vfunl 7 1 2 3 63, .vfunr 7 1 2 3 63, .vcmp 7 7 1 2 0 7,
    .vcmp 7 7 1 2 6 5, .vsel 7 1 2 3, .vcvt k0 1 2 5 true 4 5, .vcvtbInto 7 1 2 3 1 0, .vcvtbInto 0 1 2 3 3 5, .vcvtbOut 1 2 3 3 5,
    .vred 7 1 2 13 5, .vred 7 1 2 3 2, .vscan k0 1 2 6 5, .vtopk 7 30 1 2 0 2, .vperm k0 1 2 3 13, .vbcst k0 1 2 0, .viota k0 1 3,
    .vext 1 2 3 6, .vins 1 2 3 13, .vexp2 k0 1 2 3, .vlog2 k0 1 2 0, .vrcp k0 1 2 2, .vrsq k0 1 2 3, .vrnd k0 1, .vpopc k0 1 2 6,
    .vclz k0 1 2 13, .vmask k0 1 7 9, .vld true 3 1 2 3 63, .vld false 0 1 2 3 4, .vst true 1 1 2 3 4, .brq 2 true 1 3, .qpop g0 1 3 true 3,
    .qpush g0 7 1 true 1, .qpeek g0 1 0] : List Instr).all (fun i => (box .x id).issues i) = true := by decide +kernel

/-- The line of those words, as it is fetched. -/
def lineOf (l : List Nat) (tags : Nat) : Line := ⟨(tags :: l ++ List.replicate 8 0).take 8⟩
def lineWords : Line := lineOf [0xFC000018, 0x080A36A0, 0xF0000008] 0x0111

theorem witness_XimmComposesTheImmediate : line.issues (.ximm 24) = true ∧ line.follower ⟨0, 2, false⟩ lineWords 0x080A36A0 = true ∧
    majorAcceptsXimm 0x080A36A0 = true ∧ isOk (decodeWord 0x080A36A0) = true ∧ line.issues (.addi g0 5 3 0x6A0) = true := by decide +kernel

theorem witness_XimmWithoutFollowerTraps :
    (code [0xFC000018] 0x10000001 (box .c fun t => { t with pc := ⟨0, 1, false⟩ })).seek ⟨0, 1, false⟩ = .past ∧
    (code [0xFC000018, 0xF0000008] 0x011 (box .c fun t => { t with pc := ⟨0, 1, false⟩ })).follower ⟨0, 2, false⟩
      (lineOf [0xFC000018, 0xF0000008] 0x011) 0xF0000008 = true ∧
    majorAcceptsXimm 0xF0000008 = false := by decide +kernel

theorem witness_ScalarFloatResults : floats.fpEarly 0 = none ∧ floats.fpEarly 2 = none ∧ floats.myCore.xfp = [] ∧
    (fF32.decode 0x3FC00000).isNan = false ∧ (fF32.decode 0x3FC00000).isInf = false := by decide +kernel

theorem witness_JumpsAndCalls : line.issues (.call g0 1 5) = true ∧ line.successor line.fcore line.focusLane line.me.pc = .lane 0 2 := by
  decide +kernel

theorem witness_BranchOutcomeQueues :
    (box .a id).branchFull 2 = false ∧ (box .c id).branchFull 0 = false ∧ (box .c id).branchFull 1 = false ∧
    ((box .a fun t => t.addPush (chBranch 2) 32).updMyCore fun k => k.setBranch 2 ⟨List.replicate 32 1, 0, 0⟩).branchFull 2 = true ∧
    (((box .x id).updMyCore fun k => k.setBranch 2 ⟨[1], 0, 0⟩).myCore.branch 2).peek = some 1 ∧
    ((box .x id).myCore.branch 2).peek = none := by decide +kernel

/-- A LOOP whose count is 0, at lane 1 of a line whose lane 2 holds its ENDL. -/
def skips : State := code [0x64002000, 0x68000000, 0xF0000008] 0x0111 (box .c fun t => { t with pc := ⟨0, 1, false⟩ })

theorem witness_LoopOpensALevel :
    (skips.myCore.loopRow 0).kind = 1 ∧ skips.myCore.halt = none ∧ skips.me.loops = [] ∧
    skips.skipLoop 0 .c 0 lineFuel 0 2 (0, 1) = .found 0 2 ∧
    leaves skips (.loop g0 0 false 2 0) (fun t => t.me.pc == ⟨0, 2, true⟩) = true := by decide +kernel

theorem witness_LoopChecksTrap : ((box .c id).myCore.loopRow 2).kind ≠ 1 ∧ ((box .c id).myCore.loopRow 1).mark ≠ false := by decide +kernel

theorem witness_EndlClosesAnIteration :
    let s := box .c fun t => { t with loops := [⟨1, Pc.zero, 2, 0, false, 1, 2, 0⟩] }
    (s.myCore.loopRow 1).kind = 1 ∧ (s.myCore.loopRow 1).mark = true ∧ s.myCore.halt = none ∧ (s.tenant 1).trmask = 0 ∧ s.settled = true ∧
    s.tenantOf s.fcore = 1 := by decide +kernel

theorem witness_EndlWaits :
    ({ box .a fun t => { t with loops := [⟨1, Pc.zero, 2, 0, false, 1, 2, 0⟩] } with } : State).settled = true ∧
    ((box .a id).updMyCore fun k => { k with aq := [.read 0 0 0] }).settled = false := by decide +kernel

theorem witness_StagePredicates : (3 : Nat) ≤ 4 ∧ (stagePreds 0xF7 3 4 0).toNat = 0x17 := by decide +kernel

/-! ### Memory -/

/-- `a1` = 0x100 in stream C; memory there holds 0x81, 2, 3 …, 8. -/
def mem : State := { box .c fun t => (t.wa 1 0x100).ws 5 0x1122334455667788 with
  mem := memWrites [] 0x200100 [0x81, 2, 3, 4, 5, 6, 7, 8] }

theorem test_loads : scalars mem [(.ld g0 3 1 0 0 0, 0x81), (.lds g0 3 1 0 0 0, 0xFFFFFFFFFFFFFF81), (.ld g0 3 1 0 1 1, 0x0403),
    (.lds g0 3 1 0 2 0, 0x04030281), (.ld g0 3 1 0 3 0, 0x0807060504030281)] = true := by decide +kernel

theorem test_stores :
    leaves mem (.st g0 5 1 0 2 1) (fun t => memReads t.mem 0x200103 6 == [4, 0x88, 0x77, 0x66, 0x55, 0]) = true ∧
    leaves mem (.st g0 5 1 0 3 0) (fun t => memReads t.mem 0x200100 8 == [0x88, 0x77, 0x66, 0x55, 0x44, 0x33, 0x22, 0x11]) = true ∧
    leaves mem (.kst g0 0 1 0) (fun t => t.mem == []) = true ∧
    leaves mem (.kld g0 2 1 0) (fun t => (t.me.rk 2).toNat == 0x0807060504030281) = true := by decide +kernel

theorem test_access_faults : stops mem (.ld g0 3 1 0 3 0x3F) = none ∧ stops (mem.updMe fun t => t.wa 1 0x102) (.ld g0 3 1 0 2 0) = some (0x17, 0) ∧
    stops (mem.updMe fun t => t.wa 1 0x1000000) (.ld g0 3 1 0 2 0) = some (0x10, 0) ∧
    stops (mem.updMe fun t => t.wa 1 0x200000) (.st g0 3 1 0 2 0) = some (0x11, 0) ∧
    stops (mem.updMe fun t => t.wa 1 0x8000000000000000) (.st g0 3 1 0 2 0) = some (0x12, 0) := by decide +kernel

theorem test_amo :
    leaves (mem.updMe fun t => t.ws 6 0x10) (.amo g0 6 1 0 false false false 0)
      (fun t => t.me.rs 6 == 0x04030281 && memReads t.mem 0x200100 5 == [0x91, 2, 3, 4, 5]) = true ∧
    leaves (mem.updMe fun t => (t.ws 6 0x04030281).ws 7 1) (.amo g0 6 1 0 false true true 9)
      (fun t => t.me.rs 6 == 0x04030281 && memReads t.mem 0x200100 5 == [1, 0, 0, 0, 5]) = true ∧
    leaves (mem.updMe fun t => (t.ws 6 0x04030282).ws 7 1) (.amo g0 6 1 0 false true true 9)
      (fun t => t.me.rs 6 == 0x04030281 && t.mem == mem.mem) = true := by decide +kernel

theorem witness_LoadsAndStoresComplete :
    mem.issues (.ld g0 3 1 0 3 0) = true ∧ mem.spot (mem.who 0) .read true 0x100 8 = .at (.home 0x200100) ∧
    mem.spot (mem.who 0) .write true 0x100 8 = .at (.home 0x200100) ∧ mem.spot (mem.who 0) .read false 0x100 128 = .at (.home 0x200100) ∧
    mem.spot (mem.who 0) .write false 0x100 128 = .at (.home 0x200100) ∧ mem.performed 0 .c = true ∧
    classCway mem.myCore.clsattr 0 = false ∧ Memory.wf mem.mem = true := by decide +kernel

theorem witness_CachedLoads : let s := mem.updMyCore fun k => { k with clsattr := 1 }
    s.issues (.ld g0 3 1 0 3 0) = true ∧ s.spot (s.who 0) .read true 0x100 8 = .at (.home 0x200100) ∧
    classCway s.myCore.clsattr 0 = true := by decide +kernel

/-- The chunk of the first page is to be copied. -/
def copyingChunk : State := mem.updMod fun m => { m with snap := some ⟨6, [0x20], [0x20], [], [], 0, [], 1, []⟩ }

theorem test_a_store_waits_for_its_chunk : leaves copyingChunk (.st g0 5 1 0 2 1) (fun t => t.mem == mem.mem && t.me.pc == mem.me.pc) = true ∧
    leaves copyingChunk (.ld g0 3 1 0 0 0) (fun t => t.me.rs 3 == 0x81) = true := by decide +kernel

theorem witness_LoadAndStoreFaults :
    mem.spot (mem.who 0) .read true 0x1000000 8 = .fault ⟨0x10, 0, 0x1000000⟩ ∧
    mem.spot (mem.who 0) .write true 0x200000 8 = .fault ⟨0x11, 0, 0x200000⟩ ∧
    (mem.updBank 0 3 fun b => { b with tenant := 1, pend := some 1 }).spot (mem.who 0) .read true 0x1F0000000018000 8 = .wait := by decide +kernel

theorem witness_AmoResults : (match mem.amoSpot 0x100 4 with | .ok t => t == .home 0x200100 | _ => false) = true ∧
    mem.issues (.amo g0 6 1 0 false false false 10) = true := by decide +kernel

/-- Stream A with `a1` = 0x100, `a2` = 0x180; an entry of `q4`; sixteen of them. -/
def aq (es : List Nat) : State := ({ box .a fun t => ((t.wa 1 0x100).wa 2 0x180) with
  mem := memWrites (memWrites [] 0x200100 [1, 2, 3, 4]) 0x200180 [2, 0, 0, 0] } : State).updMyCore fun k => k.setQueue 4 ⟨es, 0, 0⟩

theorem test_address_queue :
    leaves (aq []) (.ldq g0 1 1 0 0) (fun t => (t.myCore.queue 1).entries == [0x04030201] && t.myCore.aq == []) = true ∧
    leaves (aq []) (.gath g0 1 1 2 2) (fun t => (t.myCore.queue 1).entries.map (· % 2 ^ 32) == [0]) = true ∧
    leaves (aq [5]) (.stq g0 1 0 2 0) (fun t => memReads t.mem 0x200100 4 == [5, 0, 0, 0]) = true ∧
    leaves (aq []) (.stq g0 1 0 2 0) (·.me.wait == .queue 4) = true ∧
    leaves (aq (List.replicate 16 7)) (.scat g0 1 2 3) (fun t => memReads t.mem 0x200110 8 == [7, 0, 0, 0, 0, 0, 0, 0]) = true := by
  decide +kernel

theorem witness_AddressQueueInstructions :
    (aq []).myCore.aq = [] ∧ ((aq []).myCore.queue 1).accepted ≤ (aq []).me.pushed 1 ∧ (aq [5]).dataAhead 1 = some [5] ∧
    (aq []).dataAhead 1 = none ∧ (aq (List.replicate 16 7)).dataAhead 16 = some (List.replicate 16 7) ∧ (aq []).dataAhead 16 = none := by
  decide +kernel

theorem witness_PrefAndCflushComplete :
    mem.tlbHit 1 0 0x100 = true ∧ (match mem.translate (mem.who 0) .read 0x100 with
      | .ok t => t == .home 0x200100
      | _ => false) = true ∧ (Target.home 0x200100).isMemory = true ∧
    mem.mapping 1 0x100 = some ⟨0, 0x200000, 0x200000, true, true, true⟩ ∧ mem.tlbHit 1 0 0x8000 = false ∧
    mem.tlbHit 1 0 0x1000000 = true ∧ mem.mapping 1 0x1000000 = none ∧
    isOk (mem.translate (mem.who 0) .read 0x1000000) = false := by decide +kernel

/-! ### Queues, command registers, rings -/

theorem test_queues :
    leaves ((box .x id).updMyCore fun k => k.setQueue 0 ⟨[9], 3, 3⟩) (.qpop g0 1 0 false 0)
      (fun t => t.me.rv 1 == 9 && (t.myCore.queue 0).rd == 4) = true ∧
    leaves ((box .x id).updMyCore fun k => k.setQueue 0 ⟨[9], 3, 3⟩) (.qpeek g0 1 0)
      (fun t => t.me.rv 1 == 9 && (t.myCore.queue 0).rd == 3) = true ∧
    leaves (box .x id) (.qpop g0 1 0 false 0) (·.me.wait == .queue 0) = true ∧
    leaves (box .x fun t => t.ws 2 8) (.qpush g0 4 2 true 3) (fun t => (t.myCore.queue 4).entries == [8] && (t.myCore.tokens 11).acc == 1) =
      true ∧
    leaves ((box .x id).updMyCore fun k => k.setQueue 0 ⟨[9], 3, 3⟩) (.qpop g0 1 0 true 1) (·.me.wait == .token 1 2) = true := by
  decide +kernel

theorem witness_QueuePopsAndPushes :
    (((box .x id).updMyCore fun k => k.setQueue 0 ⟨[9], 3, 3⟩).myCore.queue 0).peek = some 9 ∧ ((box .x id).myCore.queue 0).peek = none ∧
    (((box .x id).updMyCore fun k => k.setTokens 6 ⟨1, 0, 0⟩).myCore.tokens 6).some = true ∧
    ((box .x id).myCore.queue 4).tryPush 0 16 = .accept ∧
    (⟨List.replicate 16 0, 0, 0⟩ : QueueReg).tryPush 16 16 = .full ∧ (⟨[1], 0, 0⟩ : QueueReg).tryPush 0 16 = .discard ∧
    (box .x id).tokenBlocked 3 = false := by decide +kernel

theorem test_command_registers :
    leaves (box .c fun t => t.ws 3 0x1122334455667788) (.ksetd g0 1 4 3) (fun t => (t.me.rk 1).toNat == 0x1122334455667788 * 2 ^ 128) = true ∧
    leaves (box .c fun t => t.ws 3 0x1122334455667788) (.kset g0 1 5 3) (fun t => (t.me.rk 1).toNat == 0x55667788 * 2 ^ 160) = true ∧
    leaves (box .c id) (.kseti g0 0 3 0x3FFF) (fun t => (t.me.rk 0).toNat == 0xFFFFFFFF * 2 ^ 96) = true ∧
    leaves (box .c fun t => t.wk 1 (0xABCDEF01 <<< 160)) (.kget g0 1 5 3) (·.me.rs 3 == 0xABCDEF01) = true ∧
    leaves (box .c fun t => t.wk 1 5) (.kclr g0 1) (·.me.rk 1 == 0) = true := by decide +kernel

theorem test_rings :
    leaves (box .c id) (.knote g0 3 4 1) (fun t => t.me.rs 3 == 1 && (t.myCore.ring .k).acc == 1 && t.me.pushed 13 == 1) = true ∧
    leaves (box .c id) (.kpush g0 3 0 3) (fun t => t.me.rs 3 == 1 && (t.myCore.ring .g).acc == 1) = true ∧
    stops ((box .a id).updMyCore fun k => k.setChain .l ⟨true, 0, 1, 0, 0, none⟩) (.kpush g0 3 0 0) = some (0x33, 0) ∧
    leaves (box .c fun t => t.ws 4 1) (.qstat g0 3 4 1) (·.me.rs 3 == -1) = true := by decide +kernel

theorem witness_RecordPushes :
    ((box .c id).myCore.chain .k).mode = false ∧ ((box .c id).myCore.ring .k).occupancy ≠ 512 ∧ (box .c id).me.pushed 13 + 1 = 1 ∧
    (⟨[], 512, 0⟩ : Ring).occupancy = 512 := by decide +kernel

/-- The first record of ring K is a NOTE. -/
def noted : State := match exec (.knote g0 3 4 1) (box .c fun t => t.ws 4 1) with
  | .next t => t
  | _ => State.reset

theorem witness_QstatResult : (noted.myCore.ring .k).acc = 1 ∧ (((noted.myCore.ring .k).slots.find 1).map (·.st.state)) = some 1 ∧
    leaves noted (.qstat g0 5 4 1) (·.me.rs 5 == 1) = true := by decide +kernel

theorem test_chains :
    leaves ((box .c fun t => t.ws 3 4).updMyCore fun k => k.setChain .l ⟨true, 0, 9, 0, 0, none⟩) (.qkick g0 3 false)
      (fun t => (t.myCore.chain .l).kicks == 4) = true ∧
    stops (box .c fun t => t.ws 3 4) (.qkick g0 3 false) = some (0x33, 0) ∧
    leaves (box .c fun t => (t.ws 3 4).wa 2 0x1000) (.qlink g0 false 2 3)
      (fun t => (t.myCore.chain .l).mode && (t.myCore.chain .l).left == 4 && (t.myCore.chain .l).addr == 0x1000) = true := by decide +kernel

theorem witness_ChainInstructions : (box .c id).repeated = none ∧ ((box .c id).myCore.ring .l).occupancy = 0 ∧
    (noted.myCore.ring .k).occupancy = 1 := by decide +kernel

theorem test_rend :
    leaves (box .x id) .rend (fun t => t.me.ended && t.me.wait == .ended) = true ∧
    leaves (box .c id) .rend (fun t => t.me.ended && (t.myCore.ring .k).acc == 1 && (t.myCore.ring .g).acc == 1) = true := by decide +kernel

theorem witness_RendEndsTheStream : (box .c id).settled = true ∧
    (match (box .c id).finalPush .k with
     | .ok (some s) => (match s.finalPush .g with
       | .ok (some t) => t.focusCore == 0 && t.focusLane == .c
       | _ => false)
     | _ => false) = true := by decide +kernel

/-! ### Banks, the accumulator, buffer rings, reuse entries -/

/-- Core 0 with bank 3 of tenant 1, in the mode given. -/
def bank (m : BitVec 2) (f : StreamState → StreamState) : State := (box .c f).updBank 0 3 fun b => { b with tenant := 1, mode := m }

theorem test_bank_modes :
    leaves (bank 1 fun t => (t.ws 1 3).ws 2 1) (.bankm g0 1 2) (fun t => t.me.pc.after) = true ∧
    leaves (bank 1 fun t => (t.ws 1 3).ws 2 2) (.bankm g0 1 2) (fun t => t.me.wait == .bank 3 && ((t.cluster 0).bank 3).pend == some 2) = true ∧
    leaves (bank 1 fun t => (t.ws 1 3).ws 2 11) (.bankf g0 1 2) (fun t => ((t.cluster 0).bank 3).fmt == 11) = true ∧
    stops (bank 1 fun t => (t.ws 1 3).ws 2 1) (.bankf g0 1 2) = some (1, 4) ∧ stops (bank 1 fun t => t.ws 1 64) (.bankm g0 1 2) = some (1, 4) ∧
    stops (bank 1 fun t => t.ws 1 4) (.bankf g0 1 2) = some (0x20, 0) := by decide +kernel

theorem witness_BankModeApplies :
    let s := bank 0 fun t => { t with wait := .bank 3 }
    let s := s.updBank 0 3 fun b => { b with pend := some 1 }
    ((s.cluster 0).bank 3).pend = some 1 ∧ ((s.cluster 0).bank 3).mode ≠ 1 ∧
    leaves s (.bankmApply 0 3) (fun t => ((t.cluster 0).bank 3).mode == 1 && t.me.pc.after) = true := by decide +kernel

theorem test_accumulator_allocation :
    leaves (box .c fun t => t.ws 1 2) (.accal g0 3 1) (fun t => t.me.rs 3 == 0 && ((t.cluster 0).accb 1).alloc && !((t.cluster 0).accb 2).alloc) =
      true ∧
    leaves ((box .c fun t => t.ws 1 2).updAcc 0 1 fun b => { b with alloc := true }) (.accal g0 3 1) (fun t => t.me.rs 3 == 2) = true ∧
    leaves (box .c fun t => t.ws 1 65) (.accal g0 3 1) (fun t => t.me.rs 3 == -1) = true ∧
    stops (box .c fun t => (t.ws 1 4).ws 2 1) (.accfr g0 1 2) = some (0x23, 0) := by decide +kernel

/-- Bank 4 belongs to core 0. -/
def owned : State := (box .c fun t => (t.ws 1 4).ws 2 1).updAcc 0 4 fun b => { b with alloc := true, tenant := 1 }

theorem test_accumulator_ownership :
    leaves owned (.accfr g0 1 2) (fun t => !((t.cluster 0).accb 4).alloc) = true ∧
    leaves (owned.updCore 1 fun k => { k with job := some (job 0) }) (.accgive g0 1 2) (fun t => ((t.cluster 0).accb 4).owner == 1) = true ∧
    stops owned (.accgive g0 1 2) = some (0x26, 0) ∧ stops (owned.updAcc 0 4 fun b => { b with owner := 2 }) (.accfr g0 1 2) = some (0x24, 0) := by
  decide +kernel

theorem witness_AccumulatorOwnership : owned.kRetired = true ∧ owned.repeated = none ∧ owned.tenantOf 0 = 1 ∧
    ((owned.cluster 0).accb 4).alloc = true := by decide +kernel

/-- Buffer ring 1 of core 0: two buffers of 1,024 bytes from offset 0x8000. -/
def rings : State := (box .c fun t => t.ws 1 1).updRing 1 fun r => { r with valid := true, count := 2, stride := 4, base := 0x80 }

theorem test_buffer_rings :
    leaves rings (.bacq g0 3 1) (fun t => t.me.ra 3 == 0x1F0000000008000 && ((t.cluster 0).ring 1).busy == 1) = true ∧
    leaves (rings.updRing 1 fun r => { r with busy := 2, acqTotal := 0 }) (.bacq g0 3 1) (·.me.wait == .stall) = true ∧
    leaves (rings.updRing 1 fun r => { r with busy := 1 }) (.brel g0 1) (fun t => ((t.cluster 0).ring 1).busy == 0) = true ∧
    stops rings (.brel g0 1) = some (0x27, 0) ∧ stops (box .c id) (.bacq g0 3 1) = some (0x27, 0) := by decide +kernel

theorem witness_BufferRingsAndSlots : ((rings.cluster 0).ring 1).valid = true ∧ ((rings.cluster 0).ring 1).owner.toNat = 0 % 4 ∧
    rings.me.pushed 66 = ((rings.cluster 0).ring 1).acqTotal ∧
    let s := (box .c fun t => (t.ws 2 1).ws 3 2).updCore 1 fun k => k.setSlots 2 0 7
    s.repeated = none ∧ s.savedSender 1 2 0 = none ∧ (s.core 1).slotsFree 2 0 = 7 ∧
    leaves s (.slotrel g0 2 3) (fun t => (t.core 1).slotsFree 2 0 == 8) = true := by decide +kernel

/-- A reuse descriptor of layer 5: m = 32, k = 64, n = 32, s8 in blocks, its regions apart in SRAM and its weights at 0x1000. -/
theorem test_reuse_without_an_entry :
    leaves (box .c fun t => t.ws 1 5) (.ruinv g0 3 1) (·.me.rs 3 == 0) = true ∧
    leaves (box .c fun t => t.ws 1 5) (.rustat g0 3 1) (·.me.rs 3 == 0) = true := by decide +kernel

theorem test_ruarm_of_a_bad_descriptor :
    leaves { box .c fun t => t.wa 1 0x100 with mem := memWrites [] 0x200100 [5] } (.ruarm g0 3 1) (·.me.rs 3 == 0x8000000000000001) = true := by
  decide +kernel

/-- Layer 5 is in slot 0 of tenant 1, with version 9. -/
def layered : State := (box .c fun t => t.ws 1 5).setDir 1 0 { DirSlot.reset with layer := 5, state := 1, version := 9, armed := true, steps := 3 }

theorem test_reuse_entries :
    leaves layered (.ruinv g0 3 1) (fun t => t.me.rs 3 == 10 && (t.dirSlot 1 0).state == 0) = true ∧
    leaves layered (.rustat g0 3 1) (·.me.rs 3 == 0x0009034000000000) = true := by decide +kernel

theorem witness_ReuseInstructions :
    let s : State := { box .c fun t => t.wa 1 0x100 with mem := memWrites [] 0x200100 [5] }
    layered.kRetired = true ∧ layered.repeated = none ∧ layered.layerClaimed 1 5 = false ∧ (layered.tenant 1).slotOf 5 = some 0 ∧
    (match s.readAs 0 false 0 0x100 64 with
     | .ok x => !descOk (BitVec.ofNat 512 (ofBytes x.1))
     | _ => false) = true := by decide +kernel

/-! ### The Tahr store -/

/-- A handle of slot 7 of die 0, generation 3. -/
def h7 : Word := 0x703

def isReg : Insert → Bool
  | .registered _ => true
  | _ => false

/-- Slot 7 holds the object, for tenant 1; `s1` names it. -/
def obj (o : Obj) (f : StreamState → StreamState) : State :=
  (box .c fun t => f (t.ws 1 h7)).updSlot 0x703 fun _ => ⟨3, 1, some o, false, [], 0, false⟩

theorem test_counters :
    leaves (obj (.counter 5) id) (.scread g0 3 1) (·.me.rs 3 == 5) = true ∧
    leaves (obj (.counter 5) (·.ws 2 5)) (.scwait g0 3 1 2) (fun t => t.me.rs 3 == 5 && t.edges == []) = true ∧
    leaves (obj (.counter 5) (·.ws 2 6)) (.scwait g0 3 1 2)
      (fun t => t.me.wait == .counter 3 0x703 6 true 0 0 && t.edges == [⟨1, false, 0x703, none⟩]) = true ∧
    leaves (obj (.counter 5) (·.ws 2 6)) (.scpost g0 1 2) (fun t => (t.die 0).posts.map (·.inc) == [6]) = true ∧
    stops (obj (.lock none false []) id) (.scread g0 3 1) = some (0x38, 0) ∧ stops (box .c fun t => t.ws 1 0x704) (.scread g0 3 1) = some (0x38, 0) := by
  decide +kernel

theorem witness_CounterInstructions :
    let s := obj (.counter 5) (·.ws 2 6)
    let u := s.flushPosts s.fcore s.focusLane 0x703
    s.performed 0 .c = true ∧ s.present 0 = true ∧ s.dieUp 0 = true ∧ u.focusCore = s.focusCore ∧ u.focusLane = s.focusLane ∧
    isOk (u.object 1 0 0x703 [0]) = true ∧ isOk (u.object 1 0 0x704 [0]) = false ∧
    isReg (u.insertEdge ⟨1, false, 0x703, none⟩) = true := by decide +kernel

theorem witness_ObjectChecks :
    let s := obj (.counter 5) id
    let p := s.updSlot 0x703 fun x => { x with poisoned := true }
    isOk (s.object 1 0 0x703 [0]) = true ∧
    (match p.object 1 0 0x703 [0] with | .error c => c == 0x39 | _ => false) = true ∧
    (match p.object 1 0 0x704 [0] with | .error c => c == 0x38 | _ => false) = true ∧
    (match p.object 2 0 0x703 [0] with | .error c => c == 0x38 | _ => false) = true := by decide +kernel

/-- A post of 2 to the counter, on which a stream waits for 7. -/
def posted : State := ((obj (.counter 5) fun t => { t with wait := .counter 3 0x703 7 true 0 0 }).updDie 0 fun d =>
  { d with posts := [⟨some 0, 1, (0, 0, 0), 1, 0, 0x703, 2, 0⟩] })

theorem witness_PostsPerform :
    (posted.die 0).posts = [⟨some 0, 1, (0, 0, 0), 1, 0, 0x703, 2, 0⟩] ∧ posted.dieUp 0 = true ∧ isOk (posted.object 1 0 0x703 [0]) = true ∧
    leaves posted (.counterPostPerform 0) (fun t => (t.slot 0x703).obj == some (.counter 7) && t.me.rs 3 == 7 && t.me.wait == .none) = true := by
  decide +kernel

theorem posted_inv : posted.Inv := by constructor <;> decide +kernel

theorem test_refused_posts :
    let s := posted.updSlot 0x703 fun x => { x with gen := 4 }
    leaves s (.counterPostPerform 0) (fun t => (t.die 0).refusals.map (·.cause) == [0x38]) = true ∧
    stops (s.updDie 0 fun d => { d with refusals := [⟨some 0, 1, (0, 0, 0), 1, 0, 0x703, 2, 0x38⟩] }) (.postRefusalReturn 0) = some (0x38, 0) := by
  decide +kernel

theorem test_locks :
    leaves (obj (.lock none true []) id) (.lock g0 3 1)
      (fun t => t.me.rs 3 == 0x2000000000000000 && (t.slot 0x703).obj == some (.lock (some 1) false [])) = true ∧
    leaves (obj (.lock (some 5) false []) id) (.lock g0 3 1)
      (fun t => t.me.wait == .lock 3 0x703 true 0 0 && (t.slot 0x703).obj == some (.lock (some 5) false [1])) = true ∧
    leaves (obj (.lock (some 1) false []) id) (.unlock g0 3 1)
      (fun t => t.me.rs 3 == 0 && (t.slot 0x703).obj == some (.lock none false [])) = true ∧
    leaves (obj (.lock (some 5) false []) id) (.unlock g0 3 1) (·.me.rs 3 == 0x1000000000000000) = true := by decide +kernel

theorem witness_Locks : let s := obj (.lock (some 5) false [1]) id
    isOk (s.object (s.tenantOf 0) (s.levelOf 0) 0x703 [2]) = true ∧ isReg (s.insertEdge ⟨1, false, 0x703, none⟩) = true ∧
    s.bestWaiter 0x703 [] = none := by decide +kernel

/-- Stream C of core 1 waits for the lock that stream C of core 0 holds. -/
def granted : State := ((obj (.lock (some 1) false [5]) id).updStr 1 .c fun t => { t with wait := .lock 4 0x703 true 0 0 }).updDie 0 fun d =>
  { d with edges := [⟨5, false, 0x703, none⟩] }

theorem witness_LockGrants : granted.bestWaiter 0x703 [5] = some 5 ∧ streamOfId 5 = some (1, .c) ∧
    leaves granted (.unlock g0 3 1) (fun t => (t.slot 0x703).obj == some (.lock (some 5) false []) && (t.str 1 .c).wait == .none) = true := by
  decide +kernel

/-- A lock whose holder waits on a lock that this stream holds: the deadlock trap. -/
theorem test_deadlock :
    let s := (obj (.lock (some 5) false []) id).updSlot 0x803 fun _ => ⟨3, 1, some (.lock (some 1) false [5]), false, [], 0, false⟩
    let s := s.updDie 0 fun d => { d with edges := [⟨5, false, 0x803, none⟩] }
    stops s (.lock g0 3 1) = some (0x08, 0) := by decide +kernel

/-- A barrier of two cores; core 1 has arrived. -/
def barrier (m ar : BitVec 256) (last : Tab Nat) : State := obj (.barrier 2 m 4 ar false last) id

theorem test_barriers :
    leaves (barrier 3 0 []) (.bara g0 3 1) (fun t => t.me.rs 3 == 4 && (t.slot 0x703).obj == some (.barrier 2 3 4 1 false [(0, 4)])) = true ∧
    leaves (barrier 3 2 [(1, 4)]) (.baraw g0 3 1 5)
      (fun t => t.me.rs 3 == 4 && t.me.rp 5 && (t.slot 0x703).obj == some (.barrier 2 3 5 0 false [(0, 4), (1, 4)])) = true ∧
    leaves (barrier 2 0 []) (.bara g0 3 1) (·.me.rs 3 == 0xFFFF) = true ∧
    leaves (barrier 3 0 []) (.barw g0 3 1 5) (fun t => t.me.rs 3 == 0xFFFF && !t.me.rp 5) = true ∧
    leaves (barrier 3 1 [(0, 4)]) (.barw g0 3 1 5) (·.me.wait == .barrier 3 5 0x703 4 false true 0 0) = true ∧
    leaves (barrier 3 0 [(0, 3)]) (.barw g0 3 1 5) (fun t => t.me.rs 3 == 3 && t.me.rp 5) = true := by decide +kernel

theorem witness_BarrierArrivals : (barrier 3 2 [(1, 4)]).me.wait.retried = true ∧ (barrier 3 2 [(1, 4)]).repeated = none ∧
    isOk ((barrier 3 2 [(1, 4)]).object 1 0 0x703 [1]) = true := by decide +kernel

theorem barrier_inv : (barrier 3 2 [(1, 4)]).Inv := by constructor <;> decide +kernel

theorem test_program_waits :
    leaves (obj .wait id) (.wreg g0 1) (fun t => t.edges == [⟨1, false, 0x703, none⟩]) = true ∧
    leaves ((obj .wait id).updDie 0 fun d => { d with edges := [⟨1, false, 0x703, none⟩] }) (.wdereg g0 1) (fun t => t.edges == []) = true ∧
    leaves (obj .wait id) (.whold g0 1) (fun t => (t.slot 0x703).holders == [1]) = true ∧
    leaves ((obj .wait id).updSlot 0x703 fun x => { x with holders := [1, 5] }) (.wholdRel g0 1) (fun t => (t.slot 0x703).holders == [5]) =
      true := by decide +kernel

theorem witness_ProgramWaits : isOk ((obj .wait id).object 1 0 0x703 [3]) = true ∧ isOk ((obj (.counter 0) id).object 1 0 0x703 [0, 3]) = true ∧
    isReg ((obj .wait id).insertEdge ⟨1, false, 0x703, none⟩) = true := by decide +kernel

theorem witness_EdgesAndCycles :
    let s := (obj .wait id).updSlot 0x703 fun x => { x with holders := [1] }
    let e : Edge := ⟨1, false, 0x703, none⟩
    (s.updDie 0 fun d => { d with edges := [e] }).cycleFrom 1 8 e = some [e] ∧ (obj .wait id).cycleFrom 1 8 e = none := by decide +kernel

theorem test_watches :
    leaves (box .c fun t => t.wa 1 0x100) (.mon g0 3 1) (fun t => t.me.rs 3 == 0 && t.myCore.watch == some ⟨0x200100 / 64, true, none, false⟩) =
      true ∧
    leaves ((box .c fun t => t.ws 1 10).updMyCore fun k => { k with watch := some ⟨0x8004, true, some 0, false⟩ }) (.mwait g0 3 1)
      (·.me.rs 3 == 0) = true ∧
    leaves (box .c fun t => t.ws 1 10) (.mwait g0 3 1) (·.me.rs 3 == 6) = true ∧
    leaves ((box .c id).updMyCore fun k => { k with watch := some ⟨0x8004, true, none, false⟩ }) (.mwait g0 3 1) (·.me.rs 3 == 4) = true ∧
    leaves ((box .c fun t => t.ws 1 10).updMyCore fun k => { k with watch := some ⟨0x8004, true, none, false⟩ }) (.mwait g0 3 1)
      (·.me.wait == .mwait 3 (some 10) true 0) = true := by decide +kernel

theorem witness_WatchInstructions :
    let s := box .c fun t => t.wa 1 0x100
    (match s.translate (s.who 0) .read 0x100 with
     | .ok t => (match s.watchTarget t 0x100 with
       | .ok k => k == some 0x200100
       | _ => false)
     | _ => false) = true ∧ s.me.abandoned = false ∧
    isReg (s.insertEdge ⟨1, true, 0x8004, none⟩) = true := by decide +kernel

theorem test_parked_waits :
    leaves { box .c fun t => { t with wait := .mwait 3 (some 9) true 0 } with beat := 9 } (.mwaitTimeout 0) (·.me.rs 3 == 4) = true ∧
    leaves { box .c fun t => { t with wait := .pause 9 } with tick := 9 } (.pauseExpire 0 .c) (·.me.wait == .none) = true ∧
    leaves { box .c fun t => { t with wait := .pause 9 } with tick := 8 } (.pauseExpire 0 .c) (·.me.wait == .pause 9) = true ∧
    leaves { box .c fun t => { t with wait := .idle 9 } with tick := 9 } (.idleTimeout 0) (·.me.wait == .none) = true ∧
    leaves { obj (.counter 5) fun t => { t with wait := .counter 3 0x703 6 false 64 9 } with tick := 9 } (.unregisteredRecheck 0 .c)
      (·.me.wait == .counter 3 0x703 6 false 128 137) = true := by decide +kernel

theorem witness_ParkedWaitsEnd :
    let s : State := { obj (.lock none true []) fun t => { t with wait := .lock 3 0x703 false 64 9 } with tick := 9 }
    isOk (s.object (s.tenantOf 0) (s.levelOf 0) 0x703 [2]) = true ∧
    leaves s (.unregisteredRecheck 0 .c) (·.me.rs 3 == 0x6000000000000000) = true := by decide +kernel

theorem test_fences :
    let s := (box .c id).updCluster 0 fun c => { c with cway := [⟨0, 0, 0⟩] }
    let t := s.updMyCore fun k => { k with clsattr := 2 ^ 4 }
    leaves s (.fence g0 2) (fun t => (t.cluster 0).cway.length == 1 && t.me.pc.after) = true ∧
    leaves t (.fence g0 2) (fun t => (t.cluster 0).cway == []) = true ∧
    leaves s (.fencesc g0) (·.me.wait == .fencesc 0 [0, 0, 0, 0] none) = true ∧
    leaves { box .c fun t => { t with wait := .fencesc 0 [0, 0, 0, 0] (some 3) } with beat := 4 } (.fencescCompletion 0 .c) (·.me.wait == .none) =
      true := by decide +kernel

/-- A request in `objctl` of die 0, where slot 7 holds an object of tenant 1. -/
def request (o : Obj) (v : Word) : State := (obj o id).updDie 0 fun d => { d with objReq := some ⟨v, 1, 1, some 0, [3]⟩ }

/-- Operation, type, tenant 1, slot 7 of die 0, expected count. -/
def objctl (op type expect : Nat) : Word := BitVec.ofNat 64 (op + type * 2 ^ 8 + 2 ^ 16 + 7 * 2 ^ 26 + expect * 2 ^ 48)

theorem test_object_requests :
    leaves (request (.counter 5) (objctl 2 0 0)) (.objFree 0) (fun t => (t.slot 0x703).obj == none && (t.die 0).objst == 0x70300000000) = true ∧
    leaves (request (.lock (some 1) false []) (objctl 2 2 0)) (.objFree 0) (fun t => (t.die 0).objst == 5) = true ∧
    leaves (request (.barrier 1 1 9 0 true []) (objctl 3 1 2)) (.objRearm 0)
      (fun t => (t.slot 0x703).obj == some (.barrier 2 3 0 0 false []) && (t.die 0).objst == 0x70300000000) = true ∧
    leaves (request (.barrier 1 1 9 0 true []) (objctl 3 1 3)) (.objRearm 0) (fun t => (t.die 0).objst == 6) = true ∧
    leaves (request (.counter 5) (objctl 1 0 1)) (.objAlloc 0) (fun t => (t.die 0).objst == 9) = true := by decide +kernel

theorem witness_ObjectRequests :
    ((request (.counter 5) (objctl 1 0 0)).objRequest 0 1).any (fun r => (request (.counter 5) (objctl 1 0 0)).objCheck r == none) = true ∧
    ((request (.counter 5) (objctl 2 0 0)).objRequest 0 2).isSome = true ∧ ((request (.counter 5) (objctl 3 0 0)).objRequest 0 3).isSome = true ∧
    (request (.counter 5) 0).objNamed (objctl 2 0 0) = some (0x703, .counter 5) ∧
    ((request (.counter 5) 0).die 0).tahr.at 8 Slot.reset = Slot.reset := by decide +kernel

/-! ### System registers, faults and their resolution -/

theorem test_system_registers :
    leaves (box .c fun t => t.ws 1 0x17) (.sysrd g0 3 1) (·.me.rs 3 == 0) = true ∧
    leaves (box .c fun t => t.ws 1 0x10) (.sysrd g0 3 1) (·.me.rs 3 == 1) = true ∧
    leaves (box .c fun t => t.ws 1 0x13) (.sysrd g0 3 1) (·.me.rs 3 == 7) = true ∧
    leaves (box .c fun t => t.ws 1 0x09) (.sysrd g0 3 1) (·.me.rs 3 == 0x2000000000000000) = true ∧
    leaves (box .c fun t => t.ws 1 0x40000001) (.sysrd g0 3 1) (·.me.rs 3 == 400) = true ∧
    stops (box .c fun t => t.ws 1 0x30400000) (.sysrd g0 3 1) = some (4, 0) ∧ stops (box .c fun t => t.ws 1 0x50000000) (.sysrd g0 3 1) = some (1, 4) ∧
    leaves (box .c fun t => (t.ws 1 1).ws 2 0x3F) (.syswr g0 1 2) (fun t => t.myCore.c.fpflags == 0x1F) = true ∧
    leaves (box .c fun t => (t.ws 1 9).ws 2 0x7000000000000001) (.syswr g0 1 2) (fun t => t.myCore.clsattr == 0x2000000000000001) = true ∧
    stops (box .c fun t => t.ws 2 5) (.syswr g0 1 2) = some (1, 4) := by decide +kernel

theorem witness_SysregStatements : let s := box .c fun t => t.ws 1 0x40000001
    regOfNumber 0 0x40000001 = some ⟨4, 0, 1⟩ ∧ regCheck (s.caller 0) ⟨4, 0, 1⟩ false = none ∧ regOfNumber 0 0x50000000 = none ∧
    regCheck (s.caller 0) ⟨3, 1, 0⟩ false = some (4, 0) ∧ s.performed 0 .a = true ∧
    ((box .c id).updMyCore fun k => { k with aq := [.read 0 0 0] }).performed 0 .a = false := by decide +kernel

theorem witness_RegisterPrivilege : regCheck ⟨0, 1, none⟩ ⟨3, 1, 0⟩ false ≠ none ∧ regCheck ⟨1, 1, none⟩ ⟨3, 1, 0⟩ false = none ∧
    regCheck ⟨1, 1, none⟩ ⟨2, 0, 0x40⟩ true ≠ none ∧ regCheck ⟨2, 0, none⟩ ⟨2, 0, 0x40⟩ true = none := by decide +kernel

/-- TRAP and BKPT stop the core; Resume goes on after them. -/
def trapped : State := match exec (.trap g0 4) (box .c fun t => t.ws 4 9) with
  | .next t => t
  | _ => State.reset

theorem test_trap_and_resume :
    trapped.myCore.stop.map (fun f => (f.cause, f.aux0, f.fseq, f.strc.flags.getLsbD 2)) = some (5, 9, 1, true) ∧
    (trapped.resume 0).myCore.stop = none ∧ (trapped.resume 0).me.pc.after = true ∧ (trapped.tenant 1).outbox.length = 1 ∧
    stops (box .c id) (.bkpt g0) = some (6, 0) := by decide +kernel

theorem witness_TakingAFault : (box .c id).myCore.stop = none ∧ trapped.myCore.stop.isSome = true ∧ ((box .c id).tenant 1).trmask = 0 ∧
    (box .c id).me.wait.retried = true ∧ (box .c id).me.pc.line &&& 31 = 0 := by decide +kernel

/-- Core 1 runs a level-S job of the tenant of the trapped core 0. -/
def handler (act : Nat) : State :=
  let s := trapped.updCore 1 fun k => { k with job := some (job 1) }
  ({ s with focusCore := 1, focusLane := .c } : State).updMe fun t => (t.ws 1 1).ws 2 (BitVec.ofNat 64 act)

theorem test_eret :
    leaves (handler 1) (.eret g0 1 2) (fun t => (t.core 0).stop == none && (t.core 0).job.isSome && t.me.pc.after) = true ∧
    leaves (handler 3) (.eret g0 1 2) (fun t => (t.core 0).stop.isSome) = true := by decide +kernel

theorem witness_EretResolvesAFrame : (handler 1).issues (.eret g0 1 2) = true ∧
    ((handler 1).updMe StreamState.done).frameCore 1 1 = some 0 ∧ (handler 1).frameSaved 1 2 = none ∧ (handler 1).frameCore 1 2 = none := by
  decide +kernel

/-! ### The host -/

theorem test_host_registers :
    leaves State.reset (.hsqtailWrite 1 1 3) (fun t => (t.tenant 1).hsqtail == 3 && t.hostReply == .done) = true ∧
    leaves State.reset (.hsqtailWrite 2 1 3) (fun t => (t.tenant 1).hsqtail == 0 && t.hostReply == .error 4) = true ∧
    leaves (State.reset.updLq 1 2 fun l => { l with cfg := 0x31 }) (.lqtailWrite 1 1 2 2) (fun t => ((t.tenant 1).lq 2).tail == 2) = true ∧
    leaves State.reset (.rtswapWrite 0 1 77) (fun t => (t.die 1).rtswap == 77 && (t.die 1).rtst == 1) = true ∧
    leaves State.reset (.rtswapWrite 1 1 77) (fun t => t.hostReply == .error 4) = true ∧
    leaves State.reset (.stgcfgCacheWrite 0 70 0x302) (fun t => t.mod.stgcfg.at 70 0 == 0x302) = true ∧
    leaves State.reset (.bootclrWrite 0 1) (·.mod.bootClear) = true ∧
    leaves (State.reset.updDie 1 fun d => { d with mmcount := [(0, 5)] }) (.mmclrWrite 0 1 0) (fun t => (t.die 1).mmcount == []) = true ∧
    leaves State.reset (.sysregWrite 0 0x40000001 9) (·.mod.gangGrace == 9) = true ∧
    leaves State.reset (.sysregWrite 1 0x40000001 9) (·.hostReply == .error 4) = true ∧
    leaves State.reset (.systemSpaceAccess 0 0xF000200000008 false 0) (·.hostReply == .data [0x90, 1, 0, 0, 0, 0, 0, 0]) = true ∧
    leaves State.reset (.systemSpaceAccess 0 0xF000200000008 true 9) (·.mod.gangGrace == 9) = true ∧
    leaves trapped (.fqresWrite 1 1 1) (fun t => t.hostReply == .done) = true := by decide +kernel

theorem witness_HostRegisterWrites : sysSpaceReg 0xF000200000008 = some ⟨4, 0, 1⟩ ∧ sysSpaceReg 0xF000000000004 = none ∧
    regOfSpace 0x40000001 = some ⟨4, 0, 1⟩ ∧ isOk (State.reset.regWr (hostCaller 0) ⟨4, 0, 1⟩ 9) = true ∧
    isOk (State.reset.regWr (hostCaller 1) ⟨4, 0, 1⟩ 9) = false ∧ isOk (State.reset.regRd (hostCaller 0) ⟨4, 0, 1⟩) = true ∧
    State.reset.present 3 = true := by decide +kernel

theorem test_host_memory :
    leaves State.reset (.hostMemoryAccess ⟨0, false⟩ 0x1000 true [1, 2]) (fun t => memReads t.mem 0x1000 3 == [1, 2, 0] && t.hostReply == .done) = true ∧
    leaves { State.reset with mem := [(0x1001, 7)] } (.hostMemoryAccess ⟨0, false⟩ 0x1000 false [0, 0]) (·.hostReply == .data [0, 7]) = true ∧
    leaves State.reset (.hostMemoryAccess ⟨0, false⟩ 0x8000000000005 true [9]) (fun t => memReads t.mem 0x8000000000005 1 == [9]) = true ∧
    leaves State.reset (.hostMemoryAccess ⟨3, true⟩ 0x1000000000 false [0])
      (fun t => t.hostReply == .error 0x14 && (t.tenant 3).outbox.map (fun f => (f.cause, f.addr.toNat)) == [(0x14, 0x1000000000)]) = true := by
  decide +kernel

theorem witness_HostMemoryAccesses : (match State.reset.hostTarget 0 0x1000 2 with | .ok k => k == 0x1000 | _ => false) = true ∧
    (match State.reset.hostTarget 0 0xF000000000000 1 with | .error c => c == 0x14 | _ => false) = true ∧ State.reset.heldChunk 0x1000 2 = none ∧
    State.reset.ecc .read 0x1000 2 0x1000 = none ∧ ({ State.reset with damaged := [0x1000] }.ecc .read 0x1000 2 0x1000).isSome = true ∧
    Memory.wf State.reset.mem = true := by decide +kernel

/-! ### Commands -/

/-- A record with a value in each field given: first byte, bytes, value. -/
def record (l : List (Nat × Nat × Nat)) : Vec := l.foldl (fun v x => vecSet v (8 * x.1) (8 * x.2.1) x.2.2) 0

/-- Record 1 of a ring of core 0, in the state given. -/
def ring (q : RingId) (v : Vec) (state : Nat) (f : Rec → Rec) : State :=
  (machine 0).updCore 0 fun k => k.setRing q ⟨[(1, f (let r := Rec.make v 1 0 0 0 false false
    { r with st := { r.st with state := state }, started := state == 7 }))], 1, 0⟩

/-- The record is as `p` says. -/
def ends (s : State) (i : Instr) (q : RingId) (p : Rec → Bool) : Bool := leaves s i fun t => (t.recOf 0 q 1).any p

/-- A COPY of two rows of 4 bytes from 0x100 to 0x300, raw, rows 16 apart at the source and 4 apart at the destination. -/
def copy : Vec := record [(0, 1, 1), (72, 1, 0xFF), (76, 4, 4), (80, 4, 2), (84, 4, 1), (88, 8, 0x100), (96, 8, 0x300), (104, 4, 16), (108, 4, 4)]

theorem test_record_fetch :
    ends (ring .l copy 1 id) (.recordFetch 0 .l) .l (·.st.state == 2) = true ∧
    ends (ring .l (vecSet copy 31 1 1) 1 id) (.recordFetch 0 .l) .l (fun r => r.st.state == 10 && r.st.cause == 0x30) = true ∧
    ends (ring .k copy 1 id) (.recordFetch 0 .k) .k (fun r => r.st.state == 10 && r.st.cause == 0x30) = true := by decide +kernel

theorem test_record_waits :
    ends (ring .l copy 2 id) (.recordWaitsSatisfied 0 .l) .l (·.st.state == 3) = true ∧
    ends (ring .l (vecSet copy 128 32 0x703) 2 id) (.recordWaitsSatisfied 0 .l) .l (fun r => r.st.state == 10 && r.st.cause == 0x38) = true := by
  decide +kernel

theorem test_record_start :
    ends (ring .l copy 3 id) (.recordOrderSatisfied 0 .l) .l (fun r => r.st.state == 7 && r.plan == some ⟨false, 4, 32768, false⟩) = false ∧
    ends (ring .l copy 3 id) (.recordOrderSatisfied 0 .l) .l (fun r => r.st.state == 7 && r.plan.isSome) = true ∧
    ends (ring .l (vecSet copy 8 8 2) 6 id) (.recordTokenPop 0 .l) .l (fun r => r.st.state == 6) = true := by decide +kernel

theorem witness_RecordsAdvance : let s := ring .l copy 1 id
    s.engineStarts 0 .l = true ∧ s.cursor 0 .l = some 1 ∧ (s.recOf 0 .l 1).isSome = true ∧
    s.recordOk 0 .l copy false false false = true ∧ s.recordOk 0 .k copy false false false = false ∧
    isOk (s.unsatisfied 0 []) = true ∧ isOk (s.unsatisfied 0 [(0x703, 1)]) = false ∧ s.heavy 0 copy = false := by decide +kernel

theorem witness_RecordsStart : let s := ring .l copy 3 id
    (s.recOf 0 .l 1).any (fun r => s.overlapping 0 .l r == none) = true ∧ isMx (cmdKind copy) = false := by decide +kernel

/-- The copy has begun; source rows hold 1, 2, 3, 4 and 5, 6, 7, 8. -/
def copying : State := { (ring .l copy 7 fun r => { r with plan := some ((machine 0).makePlan 0 copy) }) with
  mem := memWrites (memWrites [] 0x200100 [1, 2, 3, 4]) 0x200110 [5, 6, 7, 8] }

theorem test_copy : leaves copying (.copy 0 .l) (fun t => memReads t.mem 0x200300 9 == [1, 2, 3, 4, 5, 6, 7, 8, 0] &&
    (t.recOf 0 .l 1).any (·.performed)) = true := by decide +kernel

theorem witness_CopiesPerformChunks : copying.engineRuns 0 .l = true ∧ ((copying.core 0).ring .l).ret < ((copying.core 0).ring .l).acc ∧
    cmdKind copy = 1 ∧ ((copying.core 0).ring .l).head.any (fun r => r.st.state == 7 && r.performed == false && r.plan.isSome &&
      decide (r.st.mark < r.chunks) && (match copying.moveAll 0 copy (r.plan.getD ⟨false, 0, 0, false⟩)
        ((r.plan.getD ⟨false, 0, 0, false⟩).pieces (cpTotalRows copy) 0) with
       | .ok l => (match copying.engineTargets (copying.who 0) true (movedWrites l) with
         | .ok _ => true
         | _ => false)
       | _ => false)) = true := by decide +kernel

theorem test_null_note_and_link :
    ends (ring .k (record [(0, 1, 0x3D)]) 7 id) (.null 0 .k) .k (·.performed) = true ∧
    ends (ring .g (record [(0, 1, 0x3F)]) 7 id) (.note 0 .g) .g (·.performed) = true ∧
    leaves (ring .l (record [(0, 1, 0x3E), (72, 8, 0x1000), (80, 4, 5), (84, 1, 1)]) 7 id) (.link 0 .l)
      (fun t => ((t.core 0).chain .l).addr == 0x1000 && ((t.core 0).chain .l).left == 5) = true := by decide +kernel

/-- A NOTE of a chain whose engine was reset is fetched again from 0x100. -/
def refetched : State := { (ring .l (record [(0, 1, 0x3F), (4, 4, 1)]) 7 fun r => { r with refetch := true, source := some 0x100 }) with
  mem := memWrites [] 0x200100 [0x3F] }

theorem witness_RecordsAreFetchedAgain : refetched.engineRuns 0 .l = true ∧
    (match refetched.engineRead (refetched.who 0) 0x100 128 with
     | .ok b => b.take 2 == [0x3F, 0]
     | _ => false) = true ∧ ends refetched (.note 0 .l) .l (fun r => !r.refetch && !r.performed) = true := by decide +kernel

theorem test_marks_and_retirement :
    ends (ring .l copy 7 fun r => { r with performed := true, plan := some ⟨false, 4, 4, false⟩ }) (.progressMark 0 .l) .l (·.st.mark == 1) = true ∧
    leaves (ring .k (record [(0, 1, 0x3F)]) 7 fun r => { r with performed := true }) (.recordRetire 0 .k)
      (fun t => ((t.core 0).ring .k).ret == 1 && (t.recOf 0 .k 1).any (·.st.state == 8)) = true := by decide +kernel

theorem witness_MarksAndRetirement : let s := ring .k (record [(0, 1, 0x3D), (48, 4, 0x703), (52, 4, 2)]) 7 fun r => { r with performed := true }
    let s := s.updSlot 0x703 fun _ => ⟨3, 1, some (.counter 5), false, [], 0, false⟩
    s.engineRuns 0 .k = true ∧ ((s.core 0).ring .k).head.any (fun r => r.finished && r.posted == false) = true ∧
    s.badSignal 0 (record [(0, 1, 0x3D), (48, 4, 0x703), (52, 4, 2)]) = none ∧
    s.badSignal 0 (record [(0, 1, 0x3D), (48, 4, 0x704), (52, 4, 2)]) = some 0x38 ∧
    leaves s (.recordRetire 0 .k) (fun t => (t.slot 0x703).obj == some (.counter 7)) = true := by decide +kernel

/-- An MXD of 1 by 1 by 2 over s8 operands in banks 0 and 1: 3 * 5 + 4 * 6 = 39. -/
def mxd : Vec := record [(0, 1, 0x10), (72, 2, 1), (74, 2, 1), (76, 2, 2), (79, 1, 1), (80, 4, 0), (84, 4, 0x8000), (88, 4, 32), (92, 4, 32)]

def multiplying : State :=
  let s := (ring .k mxd 7 id).updAcc 0 0 fun b => { b with alloc := true, tenant := 1 }
  let s := (s.updBank 0 0 fun b => { b with mode := 1, tenant := 1, fmt := 6 }).updBank 0 1 fun b => { b with mode := 1, tenant := 1, fmt := 6 }
  let s := s.updCluster 0 fun c => { c with lease := { c.lease with holder := some 0 } }
  { s with mem := memWrites (memWrites [] (sramKey 0 0) [3, 4]) (sramKey 0 0x8000) [5, 6] }

theorem test_mxd : leaves multiplying (.mxd 0) (fun t => (t.cluster 0).cells.map (·.elems) == some [(0, 0x421C0000)] &&
    ((t.cluster 0).accb 0).busy) = true := by decide +kernel

theorem witness_MatrixCommandsPerformTiles : multiplying.engineRuns 0 .k = true ∧ 0 < mxTiles mxd ∧ cmdKind mxd = 0x10 ∧
    multiplying.tileSpot 0 mxd 0 = .ok () := by decide +kernel

/-- The tile is committed with its mark. -/
theorem test_tile_commit :
    let s := (ring .k mxd 7 fun r => { r with performed := true }).updCluster 0 fun c => { c with cells := some ⟨0, [(0, 0x421C0000)], []⟩ }
    leaves s (.tileCommit 0) (fun t => memReads t.mem (accKey 0 0) 4 == [0, 0, 0x1C, 0x42] && (t.cluster 0).cells == none) = true := by
  decide +kernel

theorem test_chain_fetch :
    let s := { machine 0 with mem := memWrites [] 0x201000 [0x3F] }
    let s := s.updCore 0 fun k => k.setChain .l ⟨true, 0x1000, 2, 0, 1, none⟩
    leaves s (.chainFetch 0 .l) (fun t => ((t.core 0).chain .l).addr == 0x1080 && ((t.core 0).ring .l).acc == 1) = true ∧
    leaves ((machine 0).updCore 0 fun k => { k.setChain .s { Chain.reset with link := some (0x1000, 3) } with
      c := { k.c with wait := .ringFull .s } }) (.chainModeEnter 0 .s)
      (fun t => ((t.core 0).chain .s).mode && ((t.core 0).chain .s).left == 3 && t.me.pc.after) = true := by decide +kernel

theorem witness_ChainsAdvance : let s := (machine 0).updCore 0 fun k => k.setChain .l ⟨true, 0x1000, 2, 0, 1, none⟩
    s.engineStarts 0 .l = true ∧ (s.core 0).chainBlocked .l = false ∧
    (match s.engineRead (s.who 0) 0x1000 128 with
     | .ok _ => true
     | _ => false) = true ∧ (machine 0).mayIssue 0 .c = true := by decide +kernel

theorem test_engine_limits :
    leaves ({ (machine 0).updCluster 0 fun c => { c with lease := { c.lease with holder := some 0 } } with tick := 65536 }) (.leaseRunTimeout 0)
      (fun t => (t.cluster 0).lease.ending) = true ∧
    leaves (ring .l copy 7 id) (.copyShareSplit 0) (fun t => (t.core 0).shareL == 256) = true ∧
    leaves ({ (ring .l copy 7 id).updCore 0 fun k => { k with preempting := true } with tick := 65536 }) (.recordStallStop 0 .l)
      (fun t => (t.recOf 0 .l 1).any (·.st.state == 1)) = true := by decide +kernel

theorem witness_EngineLimits :
    let s := { ((ring .k mxd 5 id).updCluster 0 fun c => { c with lease := { c.lease with holder := some 0 } }) with tick := 4096 }
    let s := s.updCore 1 fun _ => { (ring .k mxd 4 id).core 0 with job := some (job 0) }
    ((s.core 0).ring .k).head.any (fun r => r.st.state == 5 && decide (r.tick + 4096 ≤ s.tick.toNat)) = true ∧
    (s.leaseRequest 1).isSome = true := by decide +kernel

/-! ### Jobs, mapping and launching -/

/-- A NOTE that the ring has retired as the final record. -/
def closed : Ring := ⟨[(1, { Rec.make (record [(0, 1, 0x3F)]) 1 0 0 0 false false with final := true, st := ⟨8, 0, 0, 0, 1, 1, 0, 0, 0, false⟩ })], 1, 1⟩

/-- The job of core 0 has executed its three RENDs and closed its rings. -/
def finishedJob : State := (machine 0).updCore 0 fun k =>
  { k with ringL := closed, ringK := closed, ringS := closed, ringG := closed, c := { k.c with ended := true },
           a := { k.a with ended := true }, x := { k.x with ended := true } }

theorem test_job_complete : leaves finishedJob (.jobComplete 0) (fun t => (t.core 0).job == none && (t.progress 1 0 0).completed == [0]) = true ∧
    leaves (machine 0) (.jobComplete 0) (fun t => (t.core 0).job.isSome) = true := by decide +kernel

/-- A completion for record 3 of queue 2 waits for a ring of 4 entries at virtual 0x1000. -/
def completion : State := (machine 0).updTenant 1 fun t => { t with hcqcfg := 0x1021, entries := [⟨1, 0, 2, 3, 0x703, 0, none⟩] }

theorem test_host_completion : leaves completion (.hostCompletionEntry 1)
    (fun t => (t.tenant 1).hcqtail == 1 && (t.tenant 1).entries == [] && memReads t.mem 0x201020 1 == [1]) = true := by decide +kernel

theorem witness_JobsComplete : let k := finishedJob.core 0
    k.job.isSome = true ∧ k.c.ended = true ∧ k.a.ended = true ∧ k.x.ended = true ∧ k.stop = none ∧
    (k.ring .l).finished = true ∧ (k.ring .k).finished = true ∧ (k.ring .s).finished = true ∧ (k.ring .g).finished = true ∧
    cfgEn (completion.tenant 1).hcqcfg = true ∧
    isOk (completion.writeVa (completion.hwWho 1) (cfgSlot (completion.tenant 1).hcqcfg 32 1) (HostEntry.bytes ⟨1, 0, 2, 3, 0x703, 0, none⟩ 1 0)) = true := by
  decide +kernel

/-- Every stream of core 0 waits on a queue. -/
def deadlocked : State :=
  let s := (machine 0).updCore 0 fun k => { k with
    c := { k.c with wait := .queue 3 }, a := { k.a with wait := .token 0 1 }, x := { k.x with wait := .branchQueue 2 } }
  { s with tick := 70000 }

theorem test_queue_deadlock : leaves deadlocked (.queueDeadlockTrap 0) (fun t =>
    (t.core 0).stop.map (fun f => (f.cause, f.aux0)) == some (7, 3)) = true ∧
    leaves { deadlocked with tick := 65535 } (.queueDeadlockTrap 0) (fun t => (t.core 0).stop == none) = true := by decide +kernel

/-- The head of the address queue reads a page that is not mapped. -/
def faulting : State := (machine 0).updCore 0 fun k => { k with aq := [.read 0 0x10000000 0] }

theorem test_address_queue_fault : leaves faulting (.addressQueueFault 0) (fun t =>
    (t.core 0).stop.map (fun f => (f.cause, f.src, f.addr.toNat)) == some (0x10, 2, 0x10000000) && (t.core 0).aq.length == 1) = true := by
  decide +kernel

/-- The miss on die 0 is of tenant 1 at page 9, for core 0. -/
def missing : State := (machine 0).updDie 0 fun d => { d with missTable := [(1, 9, [0])] }

/-- The TLBs on the way from core 0 take the page. -/
def walked (s : State) : State :=
  let s := ({ s with fresh := s.fresh + 1 } : State).updDie 0 fun x =>
    { x with missTable := x.missTable.filter (· != (1, 9, [0])), tlb := tlbFill 32768 x.tlb (1, 9) }
  (s.updCluster 0 fun x => { x with tlb := tlbFill 1024 x.tlb (1, 9) }).updCore 0 fun x => { x with tlb := tlbFill 64 x.tlb (1, 9) }

theorem test_table_walk : leaves missing (.tlbWalkComplete 0) (fun t => (t.die 0).missTable == [] &&
    (t.die 0).tlb.contains (1, 9) && (t.core 0).tlb.contains (1, 9)) = true := by
  have h : execTlbWalkComplete 0 missing = .next (walked missing) := by
    simp only [execTlbWalkComplete, State.draw]
    rw [show (((missing.die (0 : BitVec 2).toNat).missTable)[Config.freeNat missing.fresh % min 64 (missing.die (0 : BitVec 2).toNat).missTable.length]?) =
      some (1, 9, [0]) from by show ([(1, 9, [0])] : List (Nat × Nat × List Nat))[Config.freeNat missing.fresh % 1]? = _; rw [Nat.mod_one]; rfl]
    rfl
  simp only [leaves, exec, h]
  decide +kernel

theorem witness_CoreEvents : let k := deadlocked.core 0
    k.job.isSome = true ∧ k.stop = none ∧ k.c.wait.onQueue = true ∧ k.a.wait.onQueue = true ∧ k.x.wait.onQueue = true ∧
    k.c.ended = false ∧ k.lastChange + 65536 ≤ deadlocked.tick.toNat ∧ (faulting.core 0).aq ≠ [] ∧ (faulting.core 0).resetting = none ∧
    faulting.dieUp 0 = true ∧ (match (faulting.drain 0 33).2 with
      | .fault .. => true
      | _ => false) = true ∧ ((missing.die 0).tlb.length < 32768) := by decide +kernel

/-- A mapping request of tenant 0: op, 2 MB for tenant 1 with all rights. -/
def mapping (op va pa : Nat) (begun : Bool) : State := (machine 0).updDie 0 fun d =>
  { d with mapReq := some ⟨BitVec.ofNat 64 (op + 2 * 2 ^ 6 + 0xE00 + 2 ^ 16), 2, 0, none, [va, pa] ++ if begun then [1] else []⟩ }

theorem test_mapping_requests :
    leaves (mapping 1 0x400000 0x800001 false) (.map 0) (fun t => (t.die 0).mapst == 2 && (t.tenant 1).maps.length == 2) = true ∧
    leaves (mapping 1 0 0x800000 false) (.map 0) (fun t => (t.die 0).mapst != 0 && (t.tenant 1).maps.length == 2) = true ∧
    leaves (mapping 2 0x200000 0 false) (.unmap 0) (fun t => (t.die 0).mapReq.isSome && (t.tenant 1).maps.length == 2) = true ∧
    leaves (mapping 2 0x200000 0 true) (.mapShootdownDone 0) (fun t => (t.die 0).mapReq == none && (t.tenant 1).maps.length == 1) = true ∧
    leaves (mapping 3 0x200000 0 false) (.changePermissions 0) (fun t => ((t.die 0).mapReq.map (·.args.length)) == some 3) = true ∧
    leaves (mapping 3 0x200000 0 true) (.mapShootdownDone 0) (fun t => (t.tenant 1).maps.all fun m => m.w) = true := by decide +kernel

/-- Whether there is table memory left is a free value (DESIGN CHOICE, log 10). -/
theorem witness_MappingRequests :
    ((mapping 1 0x400000 0x800000 false).die 0).mapReq = some ⟨0x10E81, 2, 0, none, [0x400000, 0x800000]⟩ ∧
    (Config.tableRoom 1 2 = true → (mapping 1 0x400000 0x800000 false).mapCheck ⟨0x10E81, 2, 0, none, [0x400000, 0x800000]⟩ = none) ∧
    (((mapping 2 0x200000 0 true).die 0).mapReq.map fun r => mapOp r.value) = some 2 ∧ (mapping 2 0x200000 0 true).midChunk 1 = false ∧
    (((mapping 3 0x200000 0 true).die 0).mapReq.map fun r => mapOp r.value) = some 3 := by
  refine ⟨by decide +kernel, fun h => ?_, by decide +kernel, by decide +kernel, by decide +kernel⟩
  exact (rfl : _ = if !Config.tableRoom 1 2 then some 7 else none).trans (by simp [h])

/-- The bytes of a launch record: image, mask address, `done` and `ctl`; the values of bytes 40, 48 and 54 of a gang's. -/
def launchBytes (image maskp done ctl : Nat) (gang : List (Nat × Nat × Nat)) : List Nat :=
  bytesOf 64 (record ([(0, 8, image), (16, 8, maskp), (56, 4, done), (60, 1, ctl)] ++ gang)).toNat

/-- An image at virtual 0x8000 with one line, a mask of core 1 at 0x9000, and record 0 of launch queue 2 of tenant 1 at 0x1000. -/
def launching (rec : List Nat) (f : Progress → Progress) : State :=
  let image := memWrites (memWrites [] 0x201000 rec) 0x208000
    (bytesOf 64 (record [(0, 4, 1), (4, 4, 64), (8, 4, 1), (12, 4, 0x200), (16, 4, 0x300), (22, 1, 0xFF), (24, 4, 0x300), (28, 4, 0x300)]).toNat)
  let s := { machine 0 with mem := memWrites (memWrites image 0x208040 (bytesOf 4 0x10000321)) 0x209000 [2] }
  s.updLq 1 2 fun l => { l with cfg := 0x1021, tail := 1, progress := [(0, f Progress.reset)] }

theorem test_launch_place :
    leaves (launching (launchBytes 0x8000 0x9000 0 3 []) id) (.launchPlace 1 2 0) (fun t =>
      (t.core 1).job.any (fun j => j.tenant == 1 && j.prio == 3 && j.queue == 2) && (t.str 1 .a).pc == ⟨0x8040, 2, false⟩ &&
      (t.str 1 .x).pc == ⟨0x8040, 3, false⟩) = true ∧
    leaves (launching (launchBytes 0x8000 0x9000 0 0x80 []) id) (.launchPlace 1 2 0) (fun t => (t.progress 1 2 0).fail == 1) = true ∧
    leaves (launching (launchBytes 0xA000 0x9000 0 3 []) id) (.launchPlace 1 2 0) (fun t => (t.progress 1 2 0).fail == 3) = true := by
  decide +kernel

theorem witness_LaunchesPlaceJobs : let b := launchBytes 0x8000 0x9000 0 3 []
    let s := launching b id
    let w (x : Launch) : State := s.noteReady.adopt 1 2 0 x
    (0 ∈ ((s.tenant 1).lq 2).considered) ∧ isOk (s.launchBytes 1 2 0) = true ∧ lrBad b = false ∧
    lrBad (launchBytes 0x8000 0x9000 0 0x80 []) = true ∧ s.pairsReady 1 0 (lrPairs b) = some true ∧
    s.pairsReady 1 0 [(0x703, 1)] = none ∧
    (match s.noteReady.readLaunch 1 2 0 b with
     | .ok x => (w x).nextInst 1 2 0 x == some (0, 1) && (w x).chosen 1 ((w x).launchCand 1 2 0 x.bytes) && !(w x).ringInUse 1 x &&
         ((w x).keptCtx 1 x 0).isNone
     | _ => false) = true := by decide +kernel

/-- A launch that names bank 3 alone, as an SRAM bank in format 6. -/
def banksOf (b : Nat × Nat × Nat) : Launch := ⟨[], 1, 0, [], [b], [], []⟩
def giving (mode : BitVec 2) (tail : Nat) : State := (machine 0).updBank 0 3 fun b => { b with tenant := 1, mode := mode, tail := tail }

theorem witness_LaunchesSetBanks :
    (((giving 0 0).startJob 0 (job 0) (banksOf (3, 1, 6))).cluster 0).bank 3 = { (((giving 0 0).cluster 0).bank 3) with mode := 1, fmt := 6 } ∧
    ((((giving 3 1).startJob 0 (job 0) (banksOf (3, 1, 6))).cluster 0).bank 3).pend = some 1 ∧
    ((((giving 3 1).startJob 0 (job 0) (banksOf (3, 1, 6))).core 0).job.map (·.banksDue)) = some [(3, 1)] := by decide +kernel

/-- A saved job that ran on core 0, where a second job of a higher priority has been found ready. -/
def leaving : State := (machine 0).updCore 0 fun k => { k with preempting := true }

def restoring : State := match exec (.preemptSave 0) leaving with
  | .next t => t
  | _ => State.reset

theorem test_preemption :
    leaves (((machine 0).updCore 0 fun k => { k with job := some { job 0 with gang := true } }).updProgress 1 0 0
      fun p => { p with cancelled := true }) (.preempt 0) (fun t => (t.core 0).preempting && (t.core 0).gen == 1) = true ∧
    leaves (machine 0) (.preempt 0) (fun t => (t.core 0).preempting == false) = true ∧
    leaves leaving (.preemptSave 0) (fun t => (t.core 0).job == none && t.mod.saved.length == 1) = true ∧
    leaves restoring (.restore 0 0) (fun t => (t.core 0).job.isSome && t.mod.saved == []) = true := by decide +kernel

theorem witness_PreemptionAndRestore : (machine 0).preemptable 0 = true ∧ leaving.atBoundary 0 = true ∧
    leaving.gangCancelled 0 = false ∧ (ring .l copy 7 id).atBoundary 0 = false ∧ restoring.freeCore 0 = true ∧
    restoring.mod.saved.any (fun x => x.id == 0 && x.ctx.job.isSome && (restoring.savedCores x).contains 0 && restoring.fits x 0 &&
      restoring.chosen 0 (restoring.savedCand x) && x.ctx.heldResolution.isNone) = true := by decide +kernel

/-- Core 0 runs the only instance of a taken gang record with `gang_beat` 100 and gang id 9, whose gate is closed. -/
def gang (beat : Nat) (taken : Bool) : State :=
  let b := launchBytes 0x8000 0x9000 0 0x43 [(40, 8, 100), (48, 4, 9)]
  let s := launching b fun p => { p with taken := taken, bytes := some b, placed := [0], running := 1, full := some 50, launch := some ⟨b, 1, 0x8040, [], [], [], []⟩ }
  { s.updCore 0 fun k => { k with job := some { job 0 with queue := 2, gang := true, gateOpen := false } } with beat := BitVec.ofNat 64 beat }

theorem test_gang_gates :
    leaves (gang 100 true) (.gangGateOpen 1 2 0) (fun t => (t.progress 1 2 0).gate && (t.core 0).job.any (·.gateOpen)) = true ∧
    leaves (gang 99 true) (.gangGateOpen 1 2 0) (fun t => !(t.progress 1 2 0).gate) = true ∧
    leaves (gang 499 false) (.gangCancel 1 2 0) (fun t => !(t.progress 1 2 0).cancelled) = true := by decide +kernel

theorem witness_GangGates : (((gang 500 false).gangRecord 1 2 0).map fun b => (lrGangBeat b, lrGangId b)) = some (100, 9) ∧
    (gang 500 false).sliceCores 1 2 0 = [0] ∧ ((gang 500 false).progress 1 2 0).gate = false ∧
    lrGangBeat (launchBytes 0x8000 0x9000 0 0x43 [(40, 8, 100), (48, 4, 9)]) + (gang 500 false).mod.gangGrace.toNat ≤ 500 := by
  decide +kernel

/-- A fault queue of 2 frames at virtual 0x1000. -/
def frames (head : Nat) : State := trapped.updTenant 1 fun t => { t with fqcfg := 0x1011, fqtail := 3, fqhead := head }

theorem test_fault_queue :
    leaves (frames 2) (.faultQueueCopy 1) (fun t => (t.tenant 1).fqtail == 4 && (t.tenant 1).outbox == [] &&
      memReads t.mem 0x201100 1 == [5]) = true ∧
    leaves (frames 1) (.faultQueueCopy 1) (fun t => (t.tenant 1).fqtail == 3 && (t.tenant 1).outbox.length == 1) = true := by decide +kernel

theorem witness_FaultFrames : ((frames 2).tenant 1).outbox.length = 1 ∧ cfgEn ((frames 2).tenant 1).fqcfg = true ∧
    cfgEn (trapped.tenant 1).fqcfg = false ∧
    ((frames 2).tenant 1).outbox.any (fun f => isOk ((frames 2).writeVa ((frames 2).hwWho 1) (cfgSlot 0x1011 256 3) f.bytes)) = true := by
  decide +kernel

/-! ### Markhor -/

/-- The supervisor of an engine of die 0 in the state given since cycle 0, with resets at the beats given. -/
def supervised (e : EngineId) (state : Nat) (history : List Nat) : State :=
  ((machine 0).setSup ⟨e, state, 2, 0, history, false, 0, none, none, 0, 0, (0, 0)⟩)

theorem test_engine_resets :
    leaves (supervised (.copy 0) 0 []) (.parityAlarm (.copy 0)) (fun t => (t.sup (.copy 0)).state == 1 && (t.sup (.copy 0)).trigger == 2) = true ∧
    leaves (supervised (.copy 0) 0 [0, 0]) (.protocolAlarm (.copy 0)) (fun t => (t.sup (.copy 0)).state == 4 &&
      (t.core 0).resetting.isSome) = true ∧
    leaves (supervised (.copy 0) 1 []) (.markhorDrainDone (.copy 0)) (fun t => (t.sup (.copy 0)).state == 2) = true ∧
    leaves (supervised (.copy 0) 2 []) (.markhorHoldExpire (.copy 0)) (fun t => (t.sup (.copy 0)).state == 2) = true ∧
    leaves { supervised (.copy 0) 2 [] with tick := 32 } (.markhorHoldExpire (.copy 0)) (fun t => (t.sup (.copy 0)).state == 3) = true ∧
    leaves (supervised (.copy 0) 3 []) (.markhorReload (.copy 0) true) (fun t => (t.sup (.copy 0)).state == 0 &&
      (t.sup (.copy 0)).history == [0]) = true ∧
    leaves (supervised (.copy 0) 3 []) (.markhorReload (.copy 0) false) (fun t => (t.sup (.copy 0)).state == 4) = true ∧
    leaves (machine 0) (.scrubResetDue (.array 0)) (fun t => (t.sup (.array 0)).state == 1 && (t.sup (.array 0)).trigger == 4) = true ∧
    leaves (machine 0) (.watchdogAlarm (.coll 0)) (fun t => (t.sup (.coll 0)).state == 0) = true := by decide +kernel

/-- A stream X that has not issued for 4,000 beats. -/
def stuck : State := { machine 0 with beat := 4000 }

theorem test_watchdog : leaves stuck (.watchdogAlarm (.vec 0)) (fun t => (t.sup (.vec 0)).state == 1 && (t.sup (.vec 0)).trigger == 1) = true := by
  decide +kernel

theorem witness_EngineResets : stuck.noProgress (.vec 0) = true ∧ (machine 0).noProgress (.coll 0) = false ∧
    (machine 0).xNonrestart (.copy 0) = false ∧ (machine 0).dieUp (engineDie (.copy 0)) = true ∧ (machine 0).engineIdle (.array 0) = true ∧
    (machine 0).engineCore? (.copy 0) = some 0 ∧ (supervised (.copy 0) 3 []).dieUp 0 = true := by decide +kernel

/-- X stands in a `nonrestart` level; and has a mark, a whole scrub period after its engine's last scrub, which it may have moved from. -/
def lasting : State := (machine 0).updCore 0 fun k => { k with
  job := k.job.map fun j => { j with loops := [⟨1, false, true, 0, 0, 0, 0⟩] }, x := { k.x with loops := [⟨0, Pc.zero, 2, 0, false, 1, 2, 0⟩] } }
def overdue (moved : Bool) : State :=
  { (machine 0).updCore 0 fun k => { k with x := { k.x with moved := moved, mark := some (k.x.markOf 3) } } with beat := 400000 }

theorem test_nonrestart_and_scrub :
    leaves lasting (.parityAlarm (.vec 0)) (fun t => (t.sup (.vec 0)).state == 4 && (t.core 0).resetting.isSome) = true ∧
    leaves (overdue false) (.scrubResetDue (.vec 0)) (fun t => (t.sup (.vec 0)).trigger == 4) = true ∧
    leaves (overdue true) (.scrubResetDue (.vec 0)) (fun t => (t.sup (.vec 0)).state == 0) = true := by decide +kernel

theorem witness_EngineResets_nonrestart : lasting.xNonrestart (.vec 0) = true ∧ (overdue false).pastMark (.vec 0) = true ∧
    (overdue false).engineIdle (.vec 0) = false ∧ (overdue true).pastMark (.vec 0) = false ∧
    (overdue false).scrubBeats (.vec 0) = 400000 ∧ (overdue false).xBusy 0 = true ∧ (lasting.core 0).nonrestart .x = true := by decide +kernel

/-- Core 0 is being reset; its stream C stands at a mark with `s1` = 5. -/
def resetting (resets : List Nat) : State := (machine 0).updCore 0 fun k => { k with
  resetting := some ⟨1, none, 0, 0⟩, resets := resets, c := { (k.c.ws 1 9) with pc := ⟨64, 1, false⟩, mark := some ((k.c.ws 1 5).markOf 3) } }

theorem test_core_resets :
    leaves (resetting []) (.coreResetComplete 0 true) (fun t => (t.core 0).resetting == none && (t.core 0).resets == [0] &&
      (t.str 0 .c).rs 1 == 5 && (t.str 0 .c).pc == Pc.zero) = true ∧
    leaves ((machine 0).updCore 1 fun k => { k with resetting := some ⟨1, none, 0, 0⟩, resets := [0, 0] }) (.coreResetComplete 1 true)
      (fun t => (t.core 1).offline && (t.core 1).resetting == none) = true := by decide +kernel

theorem witness_CoreResets : (resetting []).dieUp (dieOf 0) = true ∧ ((resetting []).core 0).offline = false ∧
    ((resetting []).core 0).nonrestart .c = false ∧ ((resetting []).core 0).nonrestart .a = false ∧
    ((resetting []).core 0).nonrestart .x = false ∧ ((resetting []).core 0).c.mark.isSome = true := by decide +kernel

/-- A request to `mkctl` of die 0: op, and the engine kind, core, die and tenant it names. -/
def mkctl (op kind core die tenant : Nat) : State := (machine 0).updDie 0 fun d =>
  { d with mkReq := some ⟨BitVec.ofNat 64 (op + die * 2 ^ 4 + tenant * 2 ^ 8 + kind * 2 ^ 16 + core * 2 ^ 24), 2, 0, none, []⟩, mkst := 1 }

theorem test_reset_requests :
    leaves (mkctl 1 2 5 0 0) (.mkctlEngineReset 0) (fun t => (t.sup (.copy 5)).state == 1 && (t.die 0).mkReq == none) = true ∧
    leaves (mkctl 2 0 5 0 0) (.mkctlCoreReset 0) (fun t => (t.core 5).resetting.map (fun r => (r.trigger, r.reporter)) == some (6, some 0)) = true ∧
    leaves (mkctl 4 0 0 0 2) (.mkctlTenantReset 0) (fun t => (t.core 0).job.isSome && (t.die 0).mkst == 0) = true ∧
    leaves (mkctl 4 0 0 0 1) (.mkctlTenantReset 0) (fun t => (t.core 0).job == none && (t.die 0).mkst == 0) = true := by decide +kernel

theorem witness_ResetRequests : ((mkctl 1 2 5 0 0).mkRequest 0 1).isSome = true ∧
    ((mkctl 1 2 5 0 0).mkRequest 0 1).map (fun r => mkEngine r.value) = some (.copy 5) ∧ ((mkctl 2 0 5 0 0).mkRequest 0 2).isSome = true ∧
    ((mkctl 4 0 0 0 2).mkRequest 0 4).isSome = true ∧ ((mkctl 5 0 0 0 0).mkRequest 0 5).isSome = true ∧
    (mkctl 1 2 5 0 0).xNonrestart (.copy 5) = false := by decide +kernel

def phased (n : Nat) : State := State.reset.updDie 1 fun d => { d with phase := n }

theorem test_warm_reset :
    leaves (mkctl 3 0 0 1 0) (.mkctlDieWarmReset 0) (fun t => (t.die 1).phase == 1 && (t.core 0).job.isSome && t.mod.portsUp.getLsbD 8) = true ∧
    leaves (phased 1) (.dieQuiesceDone 1) (fun t => (t.die 1).phase == 2 && t.mod.portsUp.getLsbD 7 && !t.mod.portsUp.getLsbD 8) = true ∧
    leaves (phased 1) (.dieResetDone 1) (fun t => (t.die 1).phase == 1) = true ∧
    leaves (phased 3) (.dieResetDone 1) (fun t => (t.die 1).phase == 4) = true ∧
    leaves (phased 4) (.dieRetrainDone 1) (fun t => (t.die 1).phase == 5) = true ∧
    leaves (phased 5) (.dieReadmit 1) (fun t => (t.die 1).phase == 0) = true := by decide +kernel

theorem test_warm_reset_clears : leaves ((phased 2).updSlot 0x40000703 fun x => { x with gen := 3 }) (.dieWritebackDone 1)
    (fun t => (t.die 1).phase == 3 && (t.slot 0x40000703).gen == 3) = true := by decide +kernel

theorem witness_WarmResetPhases : ((mkctl 3 0 0 0 0).mkRequest 0 3).isSome = true ∧ (mkctl 3 0 0 0 0).dieUp 0 = true ∧
    (phased 1).dieUp 1 = false ∧ (phased 1).present 1 = true := by decide +kernel

theorem test_module_reset : leaves (mkctl 5 0 0 0 0) (.mkctlModuleReset 0) (fun t => (t.core 0).job == none) = true := by decide +kernel

/-- FIPS 180-4's example, and the base point of RFC 8032, 5.1. -/
theorem test_digests_and_signatures : (sha512 [0x61, 0x62, 0x63]).take 8 = [0xDD, 0xAF, 0x35, 0xA1, 0x93, 0x61, 0x7A, 0xBA] ∧
    edBase.x = 15112221349535400772501151409588531511454012693041857206046113283949847762202 := by decide +kernel

/-- Whether the vendor signed a blob is a free value (DESIGN CHOICE, log 8). -/
theorem witness_BootOutcomes (h : edVerify (bytesOf 32 Config.vendorKey.toNat) (sha512 []) (List.replicate 64 0) = true) :
    (blobBody (List.replicate 128 0)).isSome = true := by
  have e : fieldOf (byteVals (List.replicate 128 0)) 4 4 = 0 ∧ fieldOf (byteVals (List.replicate 128 0)) 72 56 = 0 ∧
      ((byteVals (List.replicate 128 0)).drop 8).take 64 = List.replicate 64 0 := by decide +kernel
  have b : byteVals (((List.replicate 128 (0 : Byte)).drop 128).take 0) = [] := rfl
  have n : (List.replicate 128 (0 : Byte)).length = 128 := List.length_replicate
  simp only [blobBody, e, b, n, h]
  rfl

/-- A module whose last boot started step 3 and did not finish it: die 0 is left out now. -/
def hung : State := State.reset.updMod fun m => { m with boot := [(0, 2), (1, 2), (2, 1), (3, 2), (4, 2), (5, 2), (6, 2), (7, 2), (8, 2)] }

theorem witness_BootOutcomes_hung : hung.mod.bootClear = false ∧ (∀ i < 9, hung.mod.step i = if i = 2 + 0 then 1 else 2) ∧
    blobBody [] = none := by decide +kernel

/-! ### The fabric -/

/-- A header of a message of tenant 1 from endpoint 9 to endpoint 5: two data fragments and one parity fragment. -/
def hdr (type index k : Nat) : Hdr := ⟨type, index, k, 1, 40, 9, 5, 0x77, 2, 1, 600, 0, 1, 0, 0x1000⟩

/-- Die 0 is endpoint 5, whose entry is local, and tenant 1 has the key 0x77 there. -/
def fabric (f : DieState → DieState) : State :=
  (machine 0).updDie 0 fun d => f { d with fabid := 5, fpk := [(1, 0x77)], route := [(11, 0x2000000000000)] }

def dataOf (index : Nat) : Fragment := mkFragment (hdr 1 index 2) (List.replicate 512 0)

theorem test_crc : crc32 [0x31, 0x32, 0x33, 0x34, 0x35, 0x36, 0x37, 0x38, 0x39] = 0xCBF43926 := by decide +kernel

theorem test_good_fragment : fragBad (dataOf 0) = false := by
  have h : fragBytes (dataOf 0) = List.replicate 512 0 := by
    show ((List.replicate 512 0).map (BitVec.ofNat 8)).map BitVec.toNat = _
    rw [List.map_replicate, List.map_replicate]; rfl
  have p : hdrOf (dataOf 0).hdr = hdr 1 0 2 := by decide +kernel
  have n : (dataOf 0).payload.length = 512 := by
    show ((List.replicate 512 0).map (BitVec.ofNat 8)).length = 512
    rw [List.length_map, List.length_replicate]
  have c : (fragCrc (dataOf 0).hdr (List.replicate 512 0) != (dataOf 0).crc) = false := bne_self_eq_false _
  unfold fragBad
  rw [h, p, n, c]
  decide

theorem test_fragments :
    leaves (fabric id) (.fragmentDataReceive 0 ⟨(dataOf 0).hdr, 0, []⟩) (fun t => (t.die 0).fcrcerr == 1 && t.ctx 0 9 40 == none) = true ∧
    leaves (fabric fun d => { d with fpk := [] }) (.lossReceive 0 (mkFragment (hdr 5 1 1) [])) (fun t => (t.die 0).fkeydrop == 1) = true := by
  decide +kernel

/-- Die 0 has received the first data fragment. -/
def half : State := fabric fun d => { d with ctxs := [⟨9, 40, (hdr 1 0 2).pack, 0, 40, [(0, [3])], [], false, false⟩] }

theorem test_code : gmul 0x80 2 = 0x1D ∧ gmul (ginv 0x53) 0x53 = 1 ∧ (List.range 8).all (fun j => coef j 3 != 0) = true := by decide +kernel

theorem witness_FragmentsArrive : let s := fabric id
    let f := dataOf 0
    s.dieUp 0 = true ∧ (hdrOf f.hdr).dst = (s.die 0).fabid ∧ s.tenantKey 0 1 = 0x77 ∧ hdrOf f.hdr = hdr 1 0 2 ∧
    (s.die 0).late_ 9 40 = false ∧ s.ctx 0 9 40 = none ∧ (s.die 0).ctxs.length < 1024 ∧ fragBad ⟨f.hdr, 0, []⟩ = true ∧
    (match s.openCtx 0 f with
     | some v => ((v.updDie 0 fun x => x.seen 9 40).writeMsg 0 (hdr 1 0 2) 0 [3]).isSome
     | none => false) = true ∧ (s.die 0).poolUsed < 16384 := by decide +kernel

/-- Die 0 passes fragments to endpoint 5 on, by choice 2 on port 3. -/
def passing : State := fabric fun d => { d with fabid := 6, route := [(10, 0x830000)] }

theorem test_forwarding : passing.usable 0 5 = [(2, 3, 1)] ∧ leaves passing (.ackReceive 0 (mkFragment (hdr 3 0 1) [])) (fun t =>
    (t.die 0).egress.map (fun e => (e.1, (hdrOf e.2.hdr).hops)) == [(3, 2)]) = true ∧
    leaves (fabric fun d => { d with fabid := 6 }) (.ackReceive 0 (mkFragment (hdr 3 0 1) [])) (fun t => (t.die 0).fcrcerr == 1) = true := by
  decide +kernel

theorem witness_FragmentsArrive_elsewhere : let s := fabric id
    let astray : Hdr := { hdr 1 0 2 with va := 0x10000000 }
    s.routeLocal 0 5 = true ∧ passing.routeLocal 0 5 = false ∧ s.msgHeld 0 (hdr 1 0 2) = none ∧ (s.msgTargets 0 (hdr 1 0 2)).isSome = true ∧
    s.msgTargets 0 astray = none ∧ ({ hdr 1 0 1 with len := 8 } : Hdr).ok = true ∧ (hdr 1 0 1).ordered = false := by decide +kernel

/-- A message that die 0 has sent to endpoint 9 and keeps. -/
def sent (retrans : Bool) : SentMsg := ⟨40, 5, 9, 0x77, 1, 0, 0x2000, 2, [1], 1, 40, 0, retrans, none⟩
def sender (retrans : Bool) : State := fabric fun d => { d with kept := [sent retrans], route := d.route ++ [(19, 0x7700000000)] }

theorem test_replies :
    leaves (sender false) (.ackReceive 0 (mkFragment (hdr 3 0 1) [])) (fun t => (t.die 0).kept == []) = true ∧
    leaves (fabric id) (.ackReceive 0 (mkFragment (hdr 3 0 1) [])) (fun t => (t.die 0).fkeydrop == 1) = true ∧
    leaves (sender false) (.nackReceive 0 (mkFragment (hdr 4 0 1) [])) (fun t => (t.die 0).kept == [sent true]) = true ∧
    leaves (sender false) (.lossReceive 0 (mkFragment (hdr 5 0 1) [])) (fun t => (t.die 0).kept == []) = true ∧
    leaves half (.lossReceive 0 (mkFragment (hdr 5 1 2) [])) (fun t => t.ctx 0 9 40 == none && (t.die 0).past == [(9, 40)]) = true ∧
    leaves (fabric id) (.gangCancelReceive 0 (mkFragment (hdr 6 0 1) [])) (fun t => t.mod.cancelled == [(1, 40)]) = true := by decide +kernel

theorem witness_RepliesEndMessages : fragBad (mkFragment (hdr 3 0 1) []) = false ∧ fragBad (mkFragment (hdr 4 0 1) []) = false ∧
    fragBad (mkFragment (hdr 5 0 1) []) = false ∧ fragBad (mkFragment (hdr 5 1 2) []) = false ∧ fragBad (mkFragment (hdr 6 0 1) []) = false ∧
    ((sender false).die 0).kept.find? (fun x => x.dst == 9 && x.msgid == 40 && x.pkey == 0x77) = some (sent false) ∧
    (half.die 0).late_ 9 40 = false := by decide +kernel

theorem test_deadlines :
    leaves { half with beat := 39 } (.recvNackDeadline 0 9 40) (fun t => (t.ctx 0 9 40).any (!·.nacked)) = true ∧
    leaves { half with beat := 40 } (.recvNackDeadline 0 9 40) (fun t => (t.ctx 0 9 40).any (·.nacked)) = true ∧
    leaves { half with beat := 80 } (.recvAbandonDeadline 0 9 40) (fun t => t.ctx 0 9 40 == none) = true ∧
    leaves { sender false with beat := 80 } (.sendRetransmitTimeout 0 40) (fun t => (t.die 0).kept.map (·.retrans) == [true]) = true ∧
    leaves { sender true with beat := 80 } (.sendLossTimeout 0 40) (fun t => (t.die 0).kept == []) = true ∧
    leaves { sender true with beat := 79 } (.sendLossTimeout 0 40) (fun t => (t.die 0).kept.length == 1) = true := by decide +kernel

theorem witness_MessageDeadlines : (half.ctx 0 9 40).any (fun c => !c.complete && !c.nacked && c.opened == 0 && c.dl == 40 &&
      (hdrOf c.hdr).src == 9 && (hdrOf c.hdr).msgid == 40) = true ∧
    ((sender true).die 0).kept.find? (·.msgid == 40) = some (sent true) ∧ (sent true).sent + 2 * (sent true).dl = 80 := by decide +kernel

/-- A notice of port 3 waits for a ring of 4 entries at physical 0x1000. -/
def notices : State := (State.reset.updTenant 0 fun t => { t with maps := maps }).updMod fun m => { m with fnqcfg := 0x1021, notices := [⟨1, 0, false, 3, 5⟩], noticeSeq := 1, portsUp := 0xFFFFFFF7 }

theorem test_ports_and_tables :
    leaves State.reset (.portDown 3) (fun t => t.mod.portsUp == 0xFFFFFFF7 && t.mod.notices.length == 1) = true ∧
    leaves notices (.portUp 3) (fun t => t.mod.portsUp == 0xFFFFFFFF && t.mod.noticeSeq == 2) = true ∧
    leaves (State.reset.updDie 2 fun d => { d with rtst := 1, rtswap := 0, fpkShadow := [(1, 7)] }) (.routeSwap 2)
      (fun t => (t.die 2).rtst == 2 && t.tenantKey 2 1 == 7) = true ∧
    leaves State.reset (.ucieLinkDown 1 0) (fun t => t.mod.linkDown == [(0, 1)]) = true ∧
    leaves (State.reset.updMod fun m => { m with linkDown := [(0, 1)] }) (.ucieLinkUp 0 1) (fun t => t.mod.linkDown == []) = true ∧
    leaves State.reset (.edzanPortDown true) (fun t => t.mod.edzanDown1 && !t.mod.edzanDown0) = true ∧
    leaves State.reset (.edzanPortUp true) (fun t => !t.mod.edzanDown1) = true := by decide +kernel

theorem test_port_notice : leaves notices .portNotice (fun t => t.mod.notices == []) = true := by
  decide +kernel

theorem witness_PortsLinksAndTables : cfgEn notices.mod.fnqcfg = true ∧
    isOk (notices.writeVa (notices.hwWho 0) (cfgSlot 0x1021 32 0) ((⟨1, 0, false, 3, 5⟩ : Notice).bytes 0)) = true ∧
    State.reset.dieUp (3 / 8) = true ∧ notices.mod.portsUp.getLsbD 3 = false := by decide +kernel

/-! ### Submissions, checkpoints, reliability and debug -/

/-- Submission 1 of a tenant: its op, address and value. -/
def submit (tenant : BitVec 6) (op addr val : Nat) : State :=
  (((machine 0).updTenant tenant.toNat fun t => { t with maps := maps }).updTenant tenant.toNat fun t =>
    { t with hsacc := 1, hsqtail := 1, hsHeld := [bytesOf 64 (record [(0, 8, 1), (8, 1, op), (16, 8, addr), (24, 8, val)]).toNat] })

theorem test_submissions :
    leaves (submit 0 1 0xF000200000008 9) (.submitSysregWrite 0) (fun t => t.mod.gangGrace == 9 && (t.tenant 0).hsdone == 1 &&
      (t.tenant 0).hserr == 0) = true ∧
    leaves (submit 1 1 0x123 9) (.submitSysregWrite 1) (fun t => (t.tenant 1).hserr == 0x103) = true ∧
    leaves (submit 1 4 0 0) (.submitAttestation 1) (fun t => (t.tenant 1).hserr == 0x102) = true ∧
    leaves (submit 1 2 0x1001 0) (.submitAttestation 1) (fun t => (t.tenant 1).hserr == 0x104) = true ∧
    leaves (submit 1 3 0 0) (.submitPreemptionNotice 1) (fun t => (t.tenant 1).hserr == 0x103 && t.mod.snap == none) = true := by
  decide +kernel

theorem witness_SubmissionsArePerformed : (((submit 0 1 0xF000200000008 9).takeSubs 0 4096).tenant 0).hsHeld.any (fun b =>
      !subBad b && subOp b == 1 && sysSpaceReg (subAddr b) == some ⟨4, 0, 1⟩) = true ∧
    isOk ((submit 0 1 0 0).regWr (hostCaller 0) ⟨4, 0, 1⟩ 9) = true ∧
    ((submit 1 2 0x1000 0).tenant 1).hsHeld.any (fun b => !subBad b && subAddr b % 256 == 0) = true ∧
    (submit 0 3 0 0).mod.snap = none := by decide +kernel

/-- A request to `ckctl`: op and value; no region is declared and no buddy. -/
def ckctl (op rest : Nat) : State := State.reset.updMod fun m => { m with ckReq := some (BitVec.ofNat 64 (op + rest)), ckslot := 2, ckarea := 0x100000 }

theorem test_checkpoints :
    leaves (ckctl 1 0) .ckctlSnapshot (fun t => t.mod.snap.any (fun p => p.pending == []) && t.mod.ckst == 1) = true ∧
    leaves ((ckctl 1 0).updMod fun m => { m with ckslot := 0 }) .ckctlSnapshot (fun t => t.mod.snap == none && t.mod.ckst == 3) = true ∧
    leaves ((ckctl 0 0).updMod fun m => { m with snap := some ⟨6, [], [], [], [], 1, [], 1, []⟩ }) .snapshotComplete
      (fun t => t.mod.ckclean && t.mod.cleanStep == 6 && t.mod.newestSlot == some 1) = true ∧
    leaves ((ckctl 0 0).updMod fun m => { m with snap := some ⟨6, [3], [3], [], [], 1, [(7, none)], 0, []⟩ }) .checkpointChunkCopy
      (fun t => t.mod.snap.any fun p => p.pending == [3]) = true ∧
    leaves (ckctl 2 (6 * 2 ^ 32)) .ckctlRestore (fun t => t.mod.ckst == 2 && t.mod.ckReq == none) = true ∧
    leaves (ckctl 2 16) .ckctlRestore (fun t => t.mod.ckst == 4) = true ∧
    leaves (ckctl 3 0) .ckctlDiscard (fun t => t.mod.ckst == 2) = true := by decide +kernel

/-- Slot 1 holds a shard of one chunk of module 0. -/
def shard : State := { ckctl 3 0 with mem := memWrites [] 0x120000 (headerFields 0 6 1 0 ++ [1]) }

theorem test_discard : leaves shard .ckctlDiscard (fun t => t.mod.ckst == 0 && memReads t.mem 0x120018 1 == [0]) = true := by decide +kernel

theorem witness_Checkpoints : (ckctl 1 0).ckRequest 1 = some 1 ∧ (ckctl 1 0).regionsOk = true ∧
    ((ckctl 1 0).updMod fun m => { m with ckslot := 0 }).regionsOk = false ∧ (ckctl 1 0).mod.ckbuddy = 0xFFFF ∧ shard.slotsOf 0 = [1] ∧
    (ckctl 2 0).slotsOf 0 = [] ∧ (shard.slotHolds 1 6 2) = false ∧ ckFromBuddy 18 = true := by decide +kernel

/-- A snapshot whose buddy is endpoint 9; die 0 reaches it, or has no id. -/
def buddied (fabid : BitVec 16) (p : Snapshot) : State :=
  (((ckctl 1 0).updDie 0 fun d => { d with fabid := fabid, fpk := [(0, 0x77)], route := [(19, 0x77 * 2 ^ 32), (18, 0x83)] }).updMod fun m =>
    { m with ckbuddy := 9, snap := some p })
def chunks (pending sent : List Nat) (awaiting : List (BitVec 32 × Option Nat)) (phase : Nat) : Snapshot :=
  ⟨6, [3, 4], pending, sent, [], 1, awaiting, phase, []⟩

theorem test_buddy :
    leaves (buddied 5 (chunks [] [] [] 1)) .snapshotComplete (fun t => t.mod.snap.any fun p => p.phase == 2 && p.awaiting.length == 1) = true ∧
    leaves (buddied 0xFFFF (chunks [] [] [] 1)) .snapshotComplete (fun t => t.mod.snap == none && t.mod.ckst == 4) = true ∧
    ((chunks [3, 4] [3] [(7, some 3)] 1).arrived 7).pending = [4] ∧
    ((chunks [3, 4] [3] [(7, some 3), (8, some 3)] 1).arrived 7).pending = [3, 4] := by decide +kernel

theorem witness_Snapshots : let s := buddied 5 (chunks [3, 4] [3] [] 1)
    s.sendingDie = some 0 ∧ s.mayLeave 0 0 9 = true ∧ s.buddyReached = true ∧ s.ownBuddy = false ∧
    (buddied 0xFFFF (chunks [3, 4] [] [] 1)).sendingDie = none ∧ ((chunks [3, 4] [3] [] 1).pending.find? fun c => !([3].contains c)) = some 4 ∧
    (ckctl 2 16).buddyReached = false := by decide +kernel

theorem test_scrubbing :
    leaves State.reset (.scrubWord 0 2 0x10000000001003 .uncorrectable) (fun t => t.damaged == [0x10000000001000] && (t.die 0).ue.at 2 0 == 1 &&
      (t.die 0).covered.at 2 [] == [(0x10000000001000, 0x10000000001008)]) = true ∧
    leaves State.reset (.scrubWord 0 2 0x1003 .uncorrectable) (fun t => t.damaged == [] && (t.die 0).ue.at 2 0 == 0) = true ∧
    ((DieState.reset.scrubst 2 150000000).getLsbD 0, (DieState.reset.scrubst 2 150000001).getLsbD 0) = (false, true) := by decide +kernel

/-- Both copies of an object are bad: the next operation poisons it (R179). -/
theorem test_poison :
    leaves (obj (.counter 5) id) (.scrubWord 0 3 28 .uncorrectable) (fun t => (t.slot 0x703).bad == 1 && isOk (t.object 1 0 0x703 [0])) = true ∧
    leaves ((obj (.counter 5) id).updSlot 0x703 fun x => { x with bad := 3 }) (.scread g0 3 1) (fun t => (t.slot 0x703).poisoned &&
      t.myCore.stop.map (·.cause) == some 0x39 && (t.tenant 0).outbox.map (·.cause) == [0x51]) = true := by decide +kernel

theorem test_debugging :
    leaves (machine 0) (.dbgSoftHalt 0) (fun t => (t.core 0).halt == some ⟨1, 0⟩ && (t.str 0 .a).halted) = true ∧
    leaves (machine 0) (.dbgPreciseHalt 0 0) (fun t => (t.core 0).halt == some ⟨3, 0⟩) = true ∧
    leaves (machine 0) (.dbgPreciseHalt 0 2) (fun t => (t.core 0).halt == none) = true ∧
    leaves ((machine 0).updCore 0 fun k => { k with halt := some ⟨2, 0⟩, c := { k.c with halted := true } }) (.dbgResume 0)
      (fun t => (t.core 0).halt == none && !(t.str 0 .c).halted) = true ∧
    leaves { State.reset with cycle := 200 } (.throttlingBubble 450) (fun t => t.beat == 2 && t.cycle == 50 && t.tick == 0) = true ∧
    leaves { State.reset with beat := 240000000 } .mismatchSave (·.mod.mmSaved == 240000000) = true := by decide +kernel

/-- The job of core 0 has been saved. -/
def savedJob : State := ((machine 0).updMod fun m => { m with saved := [⟨7, 0, (machine 0).core 0, [], [], [], [], false, false, 0⟩] }).updCore 0 fun k =>
  { k with job := none }

theorem test_halt_of_a_saved_job :
    leaves savedJob (.dbgHardHalt 0) (fun t => t.mod.saved.map (·.ctx.halt) == [some ⟨2, 0⟩] && (t.core 0).halt == none) = true ∧
    leaves ((machine 0).updCore 0 fun k => { k with preempting := true }) (.dbgSoftHalt 0) (fun t => (t.core 0).halt == some ⟨1, 0⟩ &&
      !(t.str 0 .c).halted) = true ∧ (savedJob.savedOn 0).map (·.id) = some 7 ∧ ((machine 0).savedOn 0).isNone = true := by decide +kernel

/-- A selected record whose log differs from that of its replay on cluster 3. -/
def audited (w : Word) : State := State.reset.updDie 0 fun d => { d with audits := [⟨0, .l, 1, 2, 1, 0, [0],
  ⟨Rec.make copy 1 0 0 0 false false, job 0, [], ClusterState.reset, none, []⟩, 0, [], some 5, some (3, w)⟩] }

theorem test_audits :
    leaves (audited 5) (.auditCompare 0) (fun t => (t.tenant 0).outbox == [] && (t.die 0).audits == []) = true ∧
    leaves (audited 6) (.auditCompare 0) (fun t => (t.tenant 0).outbox.map (fun f => (f.cause, f.seq, f.aux1)) == [(0x50, 1, 3)]) = true := by
  decide +kernel

theorem witness_ReliabilityAndDebug : State.reset.dieUp 0 = true ∧ (State.reset.auditCluster 0).isSome = true ∧
    ((machine 0).core 0).loopRow 0 = ⟨1, false, false, 0, 0, 0, 0⟩ ∧ (((machine 0).core 0).loopRow 2).kind ≠ 1 := by decide +kernel

/-! ### Collectives, other matrix commands and buffers -/

/-- Rank 0 of 2 of an allreduce of one s32: 7 here, and 9 of rank 1 in the receive area. -/
def coll : Vec := record [(0, 1, 0x30), (74, 1, 0x88), (76, 2, 2), (80, 4, 1), (88, 8, 0x100), (96, 8, 0x300), (104, 8, 0x400)]

def reducing (arrivals : List (Nat × Nat × Nat × Option Nat)) (f : CollRun → CollRun) : State :=
  let x : CollRun := ⟨0, [], true, [], 0, 0, 0, 0, 16384, false⟩
  let s := ring .g coll 7 fun r => { r with coll := some (f x) }
  let s := s.updDie 0 fun d => { d with arrivals := arrivals }
  { s with mem := memWrites (memWrites (memWrites (memWrites [] 0x200100 [7]) 0x200400 [5]) 0x200408 [0, 5]) 0x200504 [9] }

theorem test_coll :
    leaves (reducing [(1, 0x504, 4, some 0)] id) (.coll 0) (fun t => memReads t.mem 0x200300 4 == [16, 0, 0, 0] &&
      (t.recOf 0 .g 1).any (·.performed)) = true ∧
    leaves (reducing [] id) (.coll 0) (fun t => (t.recOf 0 .g 1).any (!·.performed)) = true ∧
    leaves { reducing [] id with beat := 40000 } (.collTimeout 0) (fun t =>
      ((t.recOf 0 .g 1).bind (·.coll)).any fun c => c.error == 3 && c.lostRank == 1) = true ∧
    leaves (reducing [] fun c => { c with error := 3 }) (.coll 0) (fun t => ((t.recOf 0 .g 1).bind (·.coll)).any (·.closed)) = true := by
  decide +kernel

theorem witness_CollPerformsAStripe : (reducing [(1, 0x504, 4, some 0)] id).engineRuns 0 .g = true ∧ coNeeds coll = [1] ∧
    (match (reducing [] id).groupEntry 0 coll 0 with
     | .ok x => x == (5, 0x500)
     | _ => false) = true ∧
    (match (reducing [] id).stripeData 0 coll ⟨0, [], true, [], 0, 0, 0, 0, 16384, false⟩ with
     | .ok x => x == [7, 0, 0, 0]
     | _ => false) = true ∧ (reducing [] id).outstanding 0 1 = false := by decide +kernel

theorem witness_CollBeginsAStripe :
    leaves (ring .g coll 7 id) (.coll 0) (fun t => ((t.recOf 0 .g 1).bind (·.coll)).any fun c => c.stripeNo == 0 && c.stripe == 16384) = true ∧
    leaves (reducing [] fun c => { c with stripeNo := 4 }) (.coll 0) (fun t => ((t.recOf 0 .g 1).bind (·.coll)).any fun c =>
      c.stripeNo == 0 && c.base == 16384) = true := by decide +kernel

theorem witness_CollErrors : ((reducing [] id).recOf 0 .g 1).any (fun r => r.coll.any (·.error == 0)) = true := by decide +kernel

theorem test_reductions_of_integers : (reduceElem 0 8 8 0 0 [7, 0xFFFFFFFF]).1 = 6 ∧ (reduceElem 1 8 8 0 0 [7, 0xFFFFFFFF]).1 = 7 ∧
    (reduceElem 2 8 8 0 0 [7, 0xFFFFFFFF]).1 = 0xFFFFFFFF ∧ (reduceElem 3 8 8 0 0 [7, 0xFFFFFFFE]).1 = 6 := by decide +kernel

/-- A matrix command like `mxd`, of another kind and with the fields given. -/
def matrix (l : List (Nat × Nat × Nat)) (fmtA fmtB : Nat) (f : Rec → Rec) : State :=
  let s := (ring .k (record ([(72, 2, 1), (74, 2, 1), (76, 2, 2), (79, 1, 1), (80, 4, 0), (84, 4, 0x8000), (88, 4, 32), (92, 4, 32)] ++ l)) 7 f)
  let s := s.updAcc 0 0 fun b => { b with alloc := true, tenant := 1 }
  let s := s.updBank 0 0 fun b => { b with mode := 1, tenant := 1, fmt := BitVec.ofNat 4 fmtA }
  let s := s.updBank 0 1 fun b => { b with mode := 1, tenant := 1, fmt := BitVec.ofNat 4 fmtB }
  let s := s.updCluster 0 fun c => { c with lease := { c.lease with holder := some 0 } }
  { s with mem := memWrites (memWrites [] (sramKey 0 0) [3, 4]) (sramKey 0 0x8000) [5, 6] }

/-- A convolution of one pixel with a filter of one position is the product; a row past the batch is void. -/
def mxc (row0 : Nat) : State := matrix [(0, 1, 0x11), (88, 4, 0), (96, 2, 1), (98, 2, 1), (100, 2, 1), (102, 2, 2), (104, 1, 1), (105, 1, 1), (106, 1, 1),
  (107, 1, 1), (108, 1, 1), (109, 1, 1), (112, 2, 1), (114, 2, 1), (116, 4, row0)] 6 6 id

theorem test_mxc : leaves (mxc 0) (.mxc 0) (fun t => (t.cluster 0).cells.map (·.elems) == some [(0, 0x421C0000)]) = true ∧
    leaves (mxc 1) (.mxc 0) (fun t => (t.cluster 0).cells.map (·.elems) == some [] && (t.recOf 0 .k 1).any (·.st.kcount == 1)) = true := by
  decide +kernel

/-- 32 values f32, of which the first is 1.5, by 32 weights of one bit: -1.5 and 1.5. -/
def mxl (w : Nat) : State := { matrix [(0, 1, 0x12), (76, 2, 32), (88, 4, 128), (96, 1, 1)] 0 15 id with
  mem := memWrites (memWrites [] (sramKey 0 2) [0xC0, 0x3F]) (sramKey 0 0x8000) [w] }

theorem test_mxl : leaves (mxl 0) (.mxl 0) (fun t => (t.cluster 0).cells.map (·.elems) == some [(0, 0xBFC00000)]) = true ∧
    leaves (mxl 1) (.mxl 0) (fun t => (t.cluster 0).cells.map (·.elems) == some [(0, 0x3FC00000)]) = true := by decide +kernel

theorem test_mxr_without_an_entry : leaves (matrix [(0, 1, 0x13)] 6 6 fun r => { r with mxr := some ⟨0, false, 0, 0, [], []⟩ }) (.mxr 0)
    (fun t => (t.cluster 0).cells.map (·.elems) == some [(0, 0x421C0000)]) = true := by decide +kernel

/-- The accumulator holds -39.0, which is scaled by 2 and drained as f32, raw or through relu. -/
def mxdrn (act : Nat) : State := { matrix [(0, 1, 0x14), (76, 2, 0), (79, 1, 2 * act), (80, 4, 0), (84, 4, 0x40000000), (88, 4, 0), (92, 4, 0),
  (96, 8, 0x1000), (112, 4, 4), (116, 4, 64)] 6 6 id with mem := memWrites [] (accKey 0 2) [0x1C, 0xC2] }

theorem test_mxdrn : leaves (mxdrn 0) (.mxdrn 0) (fun t => memReads t.mem 0x201000 4 == [0, 0, 0x9C, 0xC2]) = true ∧
    leaves (mxdrn 1) (.mxdrn 0) (fun t => memReads t.mem 0x201000 4 == [0, 0, 0, 0] && (t.recOf 0 .k 1).any (·.performed)) = true := by
  decide +kernel

theorem witness_OtherMatrixCommands : (mxdrn 0).engineRuns 0 .k = true ∧ (((mxdrn 0).core 0).ring .k).head.any (fun r =>
      (match (mxdrn 0).drainBias 0 r.cmd 0 with
       | .ok b => b == []
       | _ => false) && ((mxdrn 0).drainTile 0 r.cmd 0 [] []).any (fun x => outsideAcc x.1 == none) && decide (0 < mxTiles r.cmd)) = true := by
  decide +kernel

/-- Bank 3 is a FIFO of one entry, whose first byte is 9; stream X reads it. -/
def fifo (tail : Nat) : State := { ((box .x fun t => t.ws 1 (0x1F0000000018000)).updBank 0 3 fun b =>
  { b with mode := 3, tenant := 1, tail := tail }) with mem := memWrites [] (sramKey 0 0x18000) [9] }

theorem test_vector_accesses :
    leaves (fifo 1) (.vld false 0 2 1 0 0) (fun t => t.me.rv 2 == 9 && ((t.cluster 0).bank 3).rd == 1) = true ∧
    leaves (fifo 0) (.vld false 0 2 1 0 0) (fun t => t.me.wait == .stall) = true ∧
    leaves (fifo 1) (.vld true 0 2 1 0 0) (fun t => t.me.wait == .token 0 2) = true ∧
    leaves (box .x fun t => (t.ws 1 0x100).wv 2 0x55) (.vst false 0 2 1 0 1) (fun t => memReads t.mem 0x200180 2 == [0x55, 0]) = true := by
  decide +kernel

theorem witness_VectorLoadsAndStores : let s := fifo 1
    s.issues (.vld false 0 2 1 0 0) = true ∧ s.inFifo 0 0x1F0000000018000 = true ∧ s.xOverlap 0 0x1F0000000018000 false = none ∧
    ((s.cluster 0).bank 3).pend = none ∧ s.ecc .read (sramKey 0 0x18000) 128 0 = none ∧
    s.issues (.vst false 0 2 1 0 1) = true ∧ s.xOverlap 0 0x100 true = none ∧ s.inFifo 0 0x100 = false ∧
    (match s.spot (s.who 0) .write true 0x100 128 with
     | .at t => t == .home 0x200100
     | _ => false) = true := by decide +kernel

/-! ### Frames and the whole machine -/

theorem machine_inv : (machine 0).Inv := by constructor <;> decide +kernel
theorem reset_inv : State.reset.Inv := by constructor <;> decide +kernel

theorem witness_StoreFrame : let s := box .c fun t => (t.wa 1 0x100).ws 2 5
    Memory.wf s.mem = true ∧ s.performed 0 .c = true ∧ s.issues (.st g0 2 1 0 2 0) = true ∧
    (match s.spot (s.who 0) .write true 0x100 4 with
     | .at t => t == .home 0x200100
     | _ => false) = true ∧ s.issues (.kst g0 3 1 0) = true ∧ leaves s (.st g0 2 1 0 2 0) (fun t => memReads t.mem 0x200100 5 == [5, 0, 0, 0, 0]) = true :=
  by decide +kernel

theorem witness_SynchronisationFrame : (obj (.counter 5) fun t => (t.ws 1 h7).ws 2 3).issues (.scwait g0 3 1 2) = true ∧
    (obj (.counter 5) id).me.wait.retried = true ∧ leaves (obj (.counter 5) fun t => (t.ws 1 h7).ws 2 3) (.scwait g0 3 1 2) (·.mem == []) = true := by
  decide +kernel

theorem witness_EveryStep : (match step { State.reset with script := [.event (.dbgSoftHalt 0)] } with
    | .next t => (t.core 0).halt == some ⟨1, 0⟩
    | _ => false) = true := by decide +kernel

/-! ### Further witnesses -/

theorem witness_ChecksComeInOrder : let s := box .c id
    (Instr.vsel 2 3 1 2).streams.contains s.focusLane = false ∧ (Instr.cmp g0 0 1 2 3 0 10).wellFormed = false ∧
    (Instr.mova g0 16 2).regsOk .c = false ∧ s.levelOf s.fcore < (Instr.eret g0 1 2).minLevel ∧
    (Instr.eret g0 1 2).streams.contains s.focusLane = true ∧ (Instr.mova g0 16 2).wellFormed = true ∧ s.me.guard ⟨1, false⟩ = false ∧
    (Instr.add ⟨1, false⟩ 1 2 3).pred = some ⟨1, false⟩ := by decide +kernel

theorem witness_EncodingAndDecodingAgree : (Instr.add g0 3 1 2).isLane = true ∧ (Instr.add g0 3 1 2).wellFormed = true ∧
    isOk (decodeWord 0x04061100) = true := by decide +kernel

theorem witness_QueueReadsComplete :
    let held (e : AqEntry) : State := (aq []).updMyCore fun k => { k with aq := [e] }
    (match (held (.read 1 0x100 0)).readAs 0 false 0 0x100 128 with
     | .ok (bs, t) => bs.take 4 == [1, 2, 3, 4] && t.focusCore == 0 && t.focusLane == .a
     | _ => false) = true ∧
    (let h := held (.gather 1 0x100 0x180 4 none)
     let list := indexAddrs 0x180 32
     h.mustWait 0 .read (list.map (·, 4)) = none ∧ (match h.readEach 0 4 list with
       | (t, .ok ix) => (match t.gatherElems 0 4 ((wordsOf ix).map fun i => (0x100 + 4 * BitVec.ofInt 64 (toSigned 32 i) : Word).toNat) with
         | (u, .ok bs) => bs.length == 128 && u.focusCore == 0 && u.focusLane == .a
         | _ => false)
       | _ => false) = true) := by decide +kernel

theorem witness_BankModeAndFormat : let s := bank 1 fun t => (t.ws 1 3).ws 2 2
    let x := (s.cluster 0).bank 3
    x.tenant.toNat = s.tenantOf 0 ∧ x.pend = none ∧ (s.me.rs 2).toNat ≠ x.mode.toNat ∧ ((s.cluster 0).bank 4).tenant.toNat ≠ s.tenantOf 0 ∧
    s.levelOf 0 ≠ 2 ∧ s.issues (.bankf g0 1 2) = true ∧ (bank 2 fun t => (t.ws 1 3).ws 2 2).issues (.bankm g0 1 2) = true := by decide +kernel

theorem witness_AccalTakesTheLeastRun : let s := (box .c fun t => t.ws 1 2).updAcc 0 1 fun b => { b with alloc := true }
    s.issues (.accal g0 3 1) = true ∧ s.repeated = none ∧ ((s.cluster 0).accb 1).alloc = true ∧ ((s.cluster 0).accb 2).alloc = false ∧
    ((s.cluster 0).accb 3).alloc = false ∧ (box .c fun t => t.ws 1 65).issues (.accal g0 3 1) = true := by decide +kernel

theorem witness_Fences : let s := (box .c id).updMyCore fun k => { k with clsattr := 2 ^ 4 }
    s.issues (.fence g0 2) = true ∧ s.performed 0 .c = true ∧ s.myCore.clsattr.getLsbD 4 = true ∧ (box .c id).myCore.clsattr.getLsbD 4 = false ∧
    ((box .a id).updMyCore fun k => { k with aq := [.read 0 0 0] }).performed 0 .a = false := by decide +kernel

theorem witness_LockOrder : let s := granted
    s.edges.contains ⟨5, false, 0x703, none⟩ = true ∧ s.bestWaiter 0x703 [5] = some 5 ∧ s.bestWaiter 0x703 [9] = none := by decide +kernel

theorem witness_TrapAndResume : (box .c id).issues (.trap g0 4) = true ∧ (box .c id).issues (.bkpt g0) = true ∧
    (box .c id).myCore.stop = none ∧ (box .c id).me.wait.retried = true ∧ (box .c id).me.pc.after = false ∧
    (box .c id).me.guard ⟨1, false⟩ = false := by decide +kernel

theorem witness_CopyChunksCoverEveryRowOnce : let p : Plan := ⟨false, 8, 3, true⟩
    0 < p.row ∧ 0 < p.chunk ∧ p.count 2 = 6 := by decide +kernel

theorem witness_ProductTileElements : tileRowList mxd 0 = [0] ∧ tileColList mxd 0 = [0] ∧ (multiplying.aRow 0 mxd 0).isSome = true := by
  decide +kernel

theorem witness_CollReductionsOfIntegers : ∀ y ∈ [5, 255, 128], y < 2 ^ (8 * typeWidth 6) := by decide +kernel

theorem witness_HeadersRoundTrip : let h := hdr 1 2 3
    h.type < 256 ∧ h.index < 256 ∧ h.k < 256 ∧ h.m < 256 ∧ h.cls < 256 ∧ h.tenant < 256 ∧ h.len < 65536 ∧ h.path < 256 ∧ h.hops < 256 ∧
    h.va < 2 ^ 64 := by decide +kernel

/-- Record 1 of the ring runs as its head, and is of this kind. -/
def headOf (s : State) (q : RingId) (kind : Nat) (p : Rec → Bool) : Bool :=
  s.engineRuns 0 q && ((s.core 0).ring q).ret == 0 && ((s.core 0).ring q).acc == 1 && ((s.core 0).ring q).head.any fun r =>
    r.st.state == 7 && cmdKind r.cmd == kind && !r.performed && !r.refetch && p r

/-- A calling LINK whose segment begins at the address given. -/
def calling (va : Nat) : State := ring .l (record [(0, 1, 0x3E), (72, 8, va), (80, 4, 1)]) 7 id

theorem witness_NullNoteAndLink : headOf (ring .k (record [(0, 1, 0x3D)]) 7 id) .k 0x3D (fun _ => true) = true ∧
    headOf (ring .g (record [(0, 1, 0x3F)]) 7 id) .g 0x3F (fun _ => true) = true ∧
    headOf (ring .l (record [(0, 1, 0x3E), (72, 8, 0x1000), (80, 4, 5), (84, 1, 1)]) 7 id) .l 0x3E
      (fun r => r.seg == none && vecField r.bytes 84 1 == 1) = true ∧
    headOf (calling 0x100) .l 0x3E (fun r => r.seg == none && vecField r.bytes 84 1 != 1) = true ∧
    (match (calling 0x100).engineRead ((calling 0x100).who 0) 0x100 128 with
     | .ok bs => bs.length == 128
     | _ => false) = true ∧
    (match (calling 0x1000000).engineRead ((calling 0x1000000).who 0) 0x1000000 128 with
     | .fault _ => true
     | _ => false) = true := by decide +kernel

theorem witness_RestoreAndDiscard :
    (ckctl 2 0).ckRequest 2 = some 2 ∧ ckFromBuddy 2 = false ∧ (ckctl 2 0).slotsOf 0 = [] ∧ (ckctl 2 16).ckRequest 2 = some 18 ∧
    ckFromBuddy 18 = true ∧ (ckctl 2 16).ownBuddy = false ∧ (ckctl 2 16).buddyReached = false ∧ shard.slotsOf 0 ≠ [] ∧
    (shard.ckRequest 3).isSome = true := by decide +kernel

/-! ### Witnesses of single clauses -/

/-- Stream `l` at an XIMM before the word given, in a line with tag `tag` for both and a NOP after them. -/
def ximmBefore (l : Lane) (tag w : Nat) : State :=
  code [0xFC000018, w, 0xF0000008] (0x10000000 + tag * 0x111) (box l fun t => { t with pc := ⟨0, 1, false⟩ })
def ximmLine (tag w : Nat) : Line := lineOf [0xFC000018, w, 0xF0000008] (0x10000000 + tag * 0x111)

theorem witness_XimmBeforeCallsAndQueues :
    ((ximmBefore .c 1 0x54080005).follower ⟨0, 2, false⟩ (ximmLine 1 0x54080005) 0x54080005 &&
      (ximmBefore .c 1 0x5CA00002).follower ⟨0, 2, false⟩ (ximmLine 1 0x5CA00002) 0x5CA00002 &&
      (ximmBefore .a 2 0x5CA00002).follower ⟨0, 2, false⟩ (ximmLine 2 0x5CA00002) 0x5CA00002 &&
      (ximmBefore .x 3 0x61180001).follower ⟨0, 2, false⟩ (ximmLine 3 0x61180001) 0x61180001) = true ∧
    ([0x54080005, 0x5CA00002, 0x61180001] : List LaneWord).all majorAcceptsXimm = true ∧
    (ximmBefore .c 1 0x54080005).successor 0 .c ⟨0, 2, false⟩ = .lane 0 3 ∧
    (code [0xFC000018, 0x54080005] 0x10000011 (box .c fun t => { t with pc := ⟨0, 1, false⟩ })).successor 0 .c ⟨0, 2, false⟩ = .past := by
  decide +kernel

theorem witness_PreciseHaltStops : (machine 0).myCore.halt = none ∧
    leaves ((box .c fun t => { t with loops := [⟨1, Pc.zero, 1, 0, false, 1, 2, 0⟩] }).updMyCore fun k => { k with halt := some ⟨3, 1⟩ })
      (.endl g0 1 true) (fun t => t.me.halted) = true ∧
    leaves ((box .c fun t => { t with loops := [⟨1, Pc.zero, 1, 0, false, 1, 2, 0⟩] }).updMyCore fun k => { k with halt := some ⟨3, 0⟩ })
      (.endl g0 1 true) (fun t => !t.me.halted) = true := by decide +kernel

/-- Level 3 lies above level 0: an ENDL of level 0 discards it, and so does a LOOP that opens level 0 again; a depth of 8 is full. -/
def nested : State := box .c fun t => { t with loops := [⟨3, Pc.zero, 2, 0, true, 1, 2, 0⟩, ⟨0, Pc.zero, 2, 0, false, 1, 2, 0⟩] }

theorem witness_loops_that_are_discarded :
    leaves nested (.endl g0 0 false) (fun t => t.me.loops.map (·.id) == [0] && (t.me.loops.map (·.left)) == [1]) = true ∧
    leaves (nested.updMe fun t => t.ws 2 5) (.loop g0 0 false 2 0) (fun t => t.me.loops.map (·.left) == [5]) = true ∧
    stops (nested.updMe fun t => t.ws 2 5) (.loop g0 1 true 2 0) = some (1, 4) ∧
    stops (box .c fun t => { t.ws 2 5 with loops := List.replicate 8 ⟨3, Pc.zero, 2, 0, false, 1, 2, 0⟩ }) (.loop g0 1 false 2 0) =
      some (1, 4) := by decide +kernel

theorem witness_branch_queues_that_are_full :
    let full (q : Nat) : State := (box .c fun t => t.addPush (chBranch q) 32).updMyCore fun k => k.setBranch q ⟨List.replicate 32 1, 0, 0⟩
    (full 0).branchFull 0 = true ∧ (full 1).branchFull 0 = false ∧ (full 1).branchFull 1 = true ∧ (full 1).issues (.brx g0 1 3) = true := by
  decide +kernel

/-- Stream C's FENCESC has `n` entries of stream A's address queue before it, or the lines dropped at beat `b`. -/
def fencing (n : Nat) (b : Option Nat) (clsattr : Word) : State :=
  ((machine 0).updCore 0 fun k => { k with clsattr := clsattr }).updStr 0 .c fun t => { t with wait := .fencesc n [0, 0, 0, 0] b }

theorem witness_FencescCompletion :
    leaves (fencing 1 none 0) (.fencescCompletion 0 .c) (fun t => (t.str 0 .c).wait == .fencesc 1 [0, 0, 0, 0] none) = true ∧
    leaves (fencing 0 none 0) (.fencescCompletion 0 .c) (fun t => (t.str 0 .c).wait == .fencesc 0 [0, 0, 0, 0] (some 0)) = true ∧
    leaves (fencing 0 none 1) (.fencescCompletion 0 .c) (fun t => (t.str 0 .c).wait == .fencesc 0 [0, 0, 0, 0] (some 0)) = true ∧
    leaves (fencing 0 (some 0) 0) (.fencescCompletion 0 .c) (fun t => (t.str 0 .c).wait == .fencesc 0 [0, 0, 0, 0] (some 0)) = true ∧
    leaves { fencing 0 (some 0) 0 with beat := 1 } (.fencescCompletion 0 .c) (fun t => (t.str 0 .c).wait == .none) = true := by decide +kernel

theorem test_pushes_out_of_sequence :
    stops (box .a fun t => { t with pushes := t.pushes.put 12 1 }) (.knote g0 3 1 0) = some (0x32, 0) ∧
    stops ((box .a fun t => { t with pushes := t.pushes.put 12 (2 ^ 30 - 1) }).updMyCore fun k => k.setRing .l ⟨[], 2 ^ 30 - 1, 2 ^ 30 - 1⟩)
      (.knote g0 3 1 0) = some (0x31, 0) := by decide +kernel

theorem witness_descriptors_that_are_not_read :
    leaves (box .c fun t => t.wa 1 0x108) (.ruarm g0 3 1) (·.me.rs 3 == 0x8000000000000001) = true ∧
    stops (box .c fun t => t.wa 1 0x1F0000000000000) (.ruarm g0 3 1) = some (causeWindow, 0) ∧
    stops (box .c fun t => t.wa 1 0x1000000) (.ruarm g0 3 1) = some (0x10, 0) := by decide +kernel

theorem witness_savedSender : let s := ((box .c fun t => (t.ws 2 0).ws 3 2).updMod fun m =>
      { m with saved := [⟨7, 0, ((machine 0).core 0).setSlots 2 0 7, [], [], [], [], false, false, 0⟩] })
    s.repeated = none ∧ s.savedSender 0 2 0 = some 7 ∧
    leaves s (.slotrel g0 2 3) (fun t => t.mod.saved.map (fun x => x.ctx.slotsFree 2 0) == [8]) = true := by decide +kernel

/-- Core 1's stream C waits to change bank 3 too, before or behind core 0. -/
def queued (l : List Nat) : State :=
  ((bank 2 fun t => (t.ws 1 3).ws 2 1).updCore 1 fun k => { k with job := some (job 0) }).updBank 0 3 fun b => { b with line := l }

theorem witness_banks_in_line :
    (queued [1]).bankTaken 0 3 = true ∧ leaves (queued [1]) (.bankm g0 1 2) (fun t => ((t.cluster 0).bank 3).line == [1, 0]) = true ∧
    (queued [0, 1]).bankTaken 0 3 = false ∧ leaves (queued [0, 1]) (.bankm g0 1 2) (fun t => ((t.cluster 0).bank 3).pend == some 1) = true ∧
    leaves ((bank 3 id).updBank 0 3 fun b => { b with pend := some 1, tail := 1 }) (.bankmApply 0 3)
      (fun t => ((t.cluster 0).bank 3).pend == some 1) = true := by decide +kernel

theorem witness_BankLines : (giving 1 0).bankTaken 0 3 = false ∧
    let s := (giving 1 0).updBank 0 3 fun b => { b with pend := some 2 }
    ((s.cluster 0).bank 3).pend ≠ none ∧ ((s.cluster 0).bank 3).line.contains 1 = false := by decide +kernel

theorem witness_HostRegisterWrites_elsewhere :
    let s := (machine 0).updMod fun m => { m with edzanDown0 := true, edzanDown1 := true }
    s.hostPort 0 = none ∧ (machine 0).hostPort 0 ≠ none ∧
    leaves s (.lqtailWrite 0 1 2 1) (fun t => t.hostReply == .error 0x16) = true ∧
    leaves ((machine 0).updLq 1 2 fun l => { l with cfg := 0x1021 }) (.lqtailWrite 0 1 2 5) (fun t => t.hostReply == .done &&
      ((t.tenant 1).lq 2).tail == 0) = true := by decide +kernel

/-- A snapshot has still to copy the chunk with the rings of tenants 0 and 1 at virtual 0x1000. -/
def stillToCopy (s : State) : State := s.updMod fun m => { m with snap := some ⟨6, [0x20], [0x20], [], [], 0, [], 1, []⟩ }

theorem witness_held_writes :
    (stillToCopy completion).heldVa (completion.hwWho 1) 0x1000 32 = some 0x201000 ∧
    leaves (stillToCopy completion) (.hostCompletionEntry 1) (fun t => (t.tenant 1).entries.length == 1) = true ∧
    leaves (stillToCopy (frames 2)) (.faultQueueCopy 1) (fun t => (t.tenant 1).outbox.length == 1) = true ∧
    leaves (stillToCopy notices) .portNotice (fun t => t.mod.notices.length == 1) = true ∧
    (stillToCopy (machine 0)).pendingChunk 0x201000 = true ∧ (machine 0).pendingChunk 0x201000 = false ∧
    ((stillToCopy (machine 0)).writeOrHold 0x201000 [7]).mod.heldWrites = [(0x201000, [7])] ∧
    (((machine 0).updMod fun m => { m with heldWrites := [(0x201000, [7])] }).performHeld).mem = [(0x201000, 7)] := by decide +kernel

/-- A record of a chain whose engine was reset, to be fetched again at 0x1000, and that runs or starts; memory there holds `v`. -/
def refetching (v : Vec) (state : Nat) (va : Word) : State :=
  { ring .l copy state fun r => { r with refetch := true, source := some va, inChain := true } with
    mem := memWrites [] 0x201000 (bytesOf 128 v.toNat) }

theorem witness_RecordsAreFetchedAgain_others :
    ends (refetching copy 7 0x1000) (.copy 0 .l) .l (fun r => !r.refetch && r.st.state == 7 && cmdKind r.bytes == 1) = true ∧
    ends (refetching copy 1 0x1000) (.recordFetch 0 .l) .l (fun r => !r.refetch && r.st.state == 1) = true ∧
    ends (refetching (vecSet copy 31 1 1) 7 0x1000) (.copy 0 .l) .l (fun r => r.st.state == 10 && r.st.cause == 0x30) = true ∧
    ends (refetching copy 1 0x1000000) (.recordFetch 0 .l) .l (fun r => r.st.state == 10 && r.st.cause == 0x10) = true ∧
    (refetching copy 1 0x1000).engineStarts 0 .l = true ∧ (refetching copy 1 0x1000).cursor 0 .l = some 1 := by decide +kernel

theorem witness_refusals : let p : Post := ⟨some 0, 1, (0, 0, 0), 1, 0, 0x703, 2, 0x38⟩
    let s := (obj (.counter 5) id).updDie 0 fun d => { d with refusals := [p] }
    s.postCore p = some 0 ∧ s.refusalReturns p = true ∧ (s.updMyCore fun k => { k with resetting := some ⟨1, none, 0, 0⟩ }).refusalReturns p = false ∧
    (s.updMyCore fun k => { k with job := none }).postCore p = none ∧ p.ofJob (job 0) = true ∧
    leaves (s.updMyCore fun k => { k with job := none }) (.postRefusalReturn 0) (fun t => (t.die 0).refusals == []) = true := by decide +kernel

/-- No die is connected to another. -/
def apart : State := (machine 0).updMod fun m => { m with linkDown := [(0, 1), (0, 2), (0, 3), (1, 2), (1, 3), (2, 3)] }

theorem witness_posts_without_a_way : apart.dieUp 1 = true ∧ apart.reaches 0 1 = false ∧
    stops { apart with focusLane := .c, cores := (box .c fun t => t.ws 1 0x40000703).cores } (.scpost g0 1 2) = some (0x15, 0) := by decide +kernel

theorem witness_replies_of_a_tenant_without_a_key : let s := (sender false).updDie 0 fun d => { d with fpk := [(1, 0x78)] }
    (sender false).mayLeave 0 1 9 = true ∧ s.mayLeave 0 1 9 = false ∧
    leaves s (.nackReceive 0 (mkFragment (hdr 4 0 1) [])) (fun t => (t.die 0).kept == []) = true ∧
    leaves { s with beat := 80 } (.sendRetransmitTimeout 0 40) (fun t => (t.die 0).kept == []) = true := by decide +kernel

theorem witness_GangGates_told : let s := (gang 100 true).updMod fun m => { m with cancelled := [(1, 9)] }
    (gang 100 true).mod.cancelled = [] ∧ (1, (9 : BitVec 32)) ∈ s.mod.cancelled ∧
    leaves s (.gangCancel 1 2 0) (fun t => (t.core 0).job == none && t.mod.cancelled == []) = true := by decide +kernel

/-- Stream C stands after lane 1 of the line at 0, whose lane 2 is its next; or after its last, which ends the image. -/
def after (lane : BitVec 3) (tags : Nat) (b : List (Nat × List Nat)) : State :=
  code [0xFC000018, 0x080A36A0] tags (box .c fun t => { t with pc := ⟨0, lane, true⟩, ibuf := b })

theorem witness_StepRunsTheDecodedInstruction_seeks :
    (match (after 1 0x011 []).seek ⟨0, 1, true⟩ with
     | .lane n j k => n == 0 && j == 2 && k == lineOf [0xFC000018, 0x080A36A0] 0x011
     | _ => false) = true ∧
    (after 2 0x10000011 []).seek ⟨0, 2, true⟩ = .past ∧
    ((after 1 0x011 []).updMyCore fun k => { k with tlb := [] }).seek ⟨0, 1, true⟩ = .miss 0 ∧
    (match ((after 1 0x011 []).updMe fun t => { t with pc := ⟨0x1000000, 1, true⟩ }).seek ⟨0x1000000, 1, true⟩ with
     | .fault f => f.cause == 0x10
     | _ => false) = true ∧
    (Tab.find (after 1 0x011 [(0, [0x011])]).me.ibuf 0).isSome = true ∧ (after 1 0x011 []).shedLines = after 1 0x011 [] := by decide +kernel

theorem witness_SynchronisationFrame_others : ([.scpost g0 1 2, .scread g0 3 1, .lock g0 3 1, .unlock g0 3 1, .bara g0 3 1, .barw g0 3 1 2,
    .baraw g0 3 1 2, .wreg g0 1, .wdereg g0 1, .whold g0 1, .wholdRel g0 1, .mon g0 3 1, .mwait g0 3 1] : List Instr).all (box .c id).issues =
      true ∧ leaves (obj (.counter 5) fun t => (t.ws 1 h7).ws 2 3) (.scpost g0 1 2) (fun t => t.mem == [] && t.me.pc.after) = true := by
  decide +kernel

theorem witness_MatrixCommands_delta : (matrix [(0, 1, 0x13)] 6 6 fun r => { r with mxr := some ⟨0, false, 3, 0, [], []⟩ }).engineRuns 0 .k = true := by
  decide +kernel

theorem witness_DemandReads : inMemory 0 2 0x10000000001003 = true ∧ inMemory 0 0 0x10000000001003 = false ∧
    inMemory 0 1 0x10000000001003 = false ∧
    leaves State.reset (.scrubWord 0 5 0x10000000001003 .corrected)
      (fun t => (t.die 0).mmcount.at (Config.subArray 2 0x10000000001003) 0 == 1) = true := by
  refine ⟨by decide +kernel, by decide +kernel, by decide +kernel, ?_⟩
  simp only [leaves, exec]
  have h : execScrubWord 0 5 0x10000000001003 .corrected State.reset =
      .next (State.reset.updDie 0 fun x => x.countError (Config.subArray 2 0x10000000001003)) := by rfl
  rw [h]
  simp [State.updDie, State.die, DieState.countError, State.reset, Tab.at, Tab.put, Tab.upd, Tab.find, DieState.reset]

/-- A firmware of one page at virtual 0x8000, whose image is that of the launches above. -/
def aFirmware : Firmware := ⟨0x8000, 0, [(0x8000, 0x208000)], ((bytesOf 64 (record [(0, 4, 1), (4, 4, 64), (8, 4, 1), (12, 4, 0x200),
  (16, 4, 0x300), (22, 1, 0xFF), (24, 4, 0x300), (28, 4, 0x300)]).toNat) ++ bytesOf 4 0x10000321).map (BitVec.ofNat 8)⟩

/-- What a blob holds of the firmware is a free value (DESIGN CHOICE, log 12). -/
theorem witness_FirmwareRuns (h : Config.firmware [] = aFirmware) :
    let f := Config.firmware []
    let m := State.reset.updTenant 0 fun x => { x with maps := f.pages.map fun p => ⟨p.1, p.2, 4096, true, true, true⟩ }
    (m.maskCores (BitVec.allOnes 256)).head? = some 0 ∧
    (match m.writeVa (m.hwWho 0) f.image (f.bytes.map (·.toNat)) with
     | .ok u => (match u.readVa (u.hwWho 0) f.image 64 with
       | .ok d => isOk (u.readImage 0 noQueue 0 (firmwareRecord f) d (List.replicate 32 255))
       | _ => false)
     | _ => false) = true := by
  simp only [h]
  decide +kernel

end Sys2Proof.Tests
end

section
/-! SUPPORT. Tables, ports and links (R17, R19, R231, R243, R244, R260): what a post and a write of the hardware's own leave of the
module level, what a port change and a due notice come to, and the proof of O49 from them. -/

namespace Sys2Proof.Machine

/-! ### Posts of the hardware leave memory and the module level alone (R180) -/

/-- `t` has the memory and the module level of `s`. -/
structure State.SameMemMod (s t : State) : Prop where
  mem : t.mem = s.mem
  mod : t.mod = s.mod

namespace State.SameMemMod

theorem refl (s : State) : s.SameMemMod s := ⟨rfl, rfl⟩

theorem trans {s t u : State} (h : s.SameMemMod t) (k : t.SameMemMod u) : s.SameMemMod u :=
  ⟨k.mem.trans h.mem, k.mod.trans h.mod⟩

theorem foldl {α : Type} {f : State → α → State} (h : ∀ (s : State) x, s.SameMemMod (f s x)) (l : List α) (s : State) :
    s.SameMemMod (l.foldl f s) :=
  List.foldlRecOn l f (refl s) fun t k x _ => k.trans (h t x)

end State.SameMemMod

theorem State.readCopies_sameMemMod (s : State) (h : BitVec 32) : s.SameMemMod (s.readCopies h) := by
  unfold State.readCopies
  dsimp only
  split
  · exact .refl s
  · split <;> exact ⟨rfl, rfl⟩

theorem State.goesOn_sameMemMod (s : State) (core : Nat) (l : Lane) : s.SameMemMod (s.goesOn core l) := by
  unfold State.goesOn
  split <;> exact ⟨rfl, rfl⟩

theorem State.wake_sameMemMod (s : State) (core : Nat) (l : Lane) (h : BitVec 32) (f : StreamState → StreamState) :
    s.SameMemMod (s.wake core l h f) :=
  have k := (s.updStr core l fun t => (f t).done).goesOn_sameMemMod core l
  ⟨k.mem, k.mod⟩

theorem State.wakeCounter_sameMemMod (s : State) (h : BitVec 32) (v : Nat) : s.SameMemMod (s.wakeCounter h v) := by
  refine .foldl (fun s x => ?_) _ s
  obtain ⟨c, l, w⟩ := x
  dsimp only
  split
  · split
    · exact s.wake_sameMemMod ..
    · exact .refl s
  · exact .refl s

theorem State.noteReady_sameMemMod (s : State) : s.SameMemMod s.noteReady := by
  refine .foldl (fun s x => .foldl (fun s y => .foldl (fun s n => ?_) _ s) _ s) _ s
  split
  · exact .refl s
  · split
    · exact .refl s
    · split <;> exact ⟨rfl, rfl⟩

theorem State.performPost_sameMemMod (s : State) (p : Post) : s.SameMemMod (s.performPost p) := by
  refine (s.readCopies_sameMemMod p.handle).trans ?_
  unfold State.performPost
  generalize s.readCopies p.handle = u
  dsimp only
  split
  case h_1 v _ =>
    have set : u.SameMemMod (u.setObj p.handle (.counter (min (v + p.inc) (2 ^ 64 - 1)))) := ⟨rfl, rfl⟩
    exact (set.trans (State.wakeCounter_sameMemMod ..)).trans (State.noteReady_sameMemMod _)
  case h_2 => exact .refl u
  case h_3 => split <;> exact ⟨rfl, rfl⟩

theorem State.sendPost_sameMemMod (s : State) (from_ : Nat) (p : Post) : s.SameMemMod (s.sendPost from_ p) := by
  unfold State.sendPost
  dsimp only
  split
  · exact s.performPost_sameMemMod p
  · split <;> exact ⟨rfl, rfl⟩

theorem State.hwPost_sameMemMod (s : State) (from_ tenant level : Nat) (h : BitVec 32) (n : Nat) :
    s.SameMemMod (s.hwPost from_ tenant level h n) := by
  unfold State.hwPost
  dsimp only
  split
  · exact .refl s
  · split
    · exact s.sendPost_sameMemMod ..
    · exact s.performPost_sameMemMod _

@[simp] theorem State.hwPost_mem (s : State) (from_ tenant level : Nat) (h : BitVec 32) (n : Nat) :
    (s.hwPost from_ tenant level h n).mem = s.mem := (s.hwPost_sameMemMod ..).mem

@[simp] theorem State.hwPost_mod (s : State) (from_ tenant level : Nat) (h : BitVec 32) (n : Nat) :
    (s.hwPost from_ tenant level h n).mod = s.mod := (s.hwPost_sameMemMod ..).mod

/-! ### A write changes of the module level only what a checkpoint keeps (R260, R261) -/

/-- The module level without its snapshot, the writes held for it, and `clean`. -/
def ModuleState.sansSnapshot (m : ModuleState) : ModuleState := { m with snap := none, heldWrites := [], ckclean := false }

theorem State.checkpointWritten_sansSnapshot (s : State) (k n : Nat) :
    (s.checkpointWritten k n).mod.sansSnapshot = s.mod.sansSnapshot := by
  have unclean : ∀ c : Bool, ((if c = true then s.updMod fun m => { m with ckclean := false } else s) : State).mod.sansSnapshot =
      s.mod.sansSnapshot := by
    intro c
    cases c <;> rfl
  unfold State.checkpointWritten
  dsimp only
  split
  · exact unclean _
  · split <;> exact unclean _

theorem State.watchOccurs_mod (s : State) (core code : Nat) : (s.watchOccurs core code).mod = s.mod := by
  unfold State.watchOccurs
  split
  · rfl
  · split
    · rfl
    · dsimp only
      split <;> rfl

theorem State.watchWritten_mod (s : State) (k n : Nat) : (s.watchWritten k n).mod = s.mod := by
  refine List.foldlRecOn (motive := fun t : State => t.mod = s.mod) s.cores _ rfl fun t ht x _ => ?_
  dsimp only
  split
  · split
    · exact (t.watchOccurs_mod x.1 0).trans ht
    · exact ht
  · exact ht

theorem State.writeLoc_sansSnapshot (s : State) (k : Nat) (bs : List Nat) :
    (s.writeLoc k bs).mod.sansSnapshot = s.mod.sansSnapshot :=
  (congrArg ModuleState.sansSnapshot (State.watchWritten_mod _ k bs.length)).trans (s.checkpointWritten_sansSnapshot k bs.length)

theorem State.writeOrHold_sansSnapshot (s : State) (k : Nat) (bs : List Nat) :
    (s.writeOrHold k bs).mod.sansSnapshot = s.mod.sansSnapshot := by
  unfold State.writeOrHold
  split
  · rfl
  · exact s.writeLoc_sansSnapshot k bs

theorem State.writeVa_sansSnapshot {s t : State} {w : Who} {va : Nat} {bs : List Nat} (h : s.writeVa w va bs = .ok t) :
    t.mod.sansSnapshot = s.mod.sansSnapshot := by
  unfold State.writeVa at h
  split at h
  · cases h
  · cases h
    exact List.foldlRecOn (motive := fun u : State × List Nat => u.1.mod.sansSnapshot = s.mod.sansSnapshot) _ _ rfl
      fun u hu x _ => (u.1.writeOrHold_sansSnapshot ..).trans hu

/-- A write of the hardware that waits for its chunk does nothing but have the chunk copied next (R260). -/
theorem State.writeThen_of_held {s t : State} {w : Who} {va k : Nat} {bs : List Nat} (fail : State) (after : State → State)
    (h : s.writeVa w va bs = .ok t) (hk : s.heldVa w va bs.length = some k) :
    s.writeThen w va bs fail after = s.hurryChunk k := by
  simp only [State.writeThen, h, hk]

theorem State.writeThen_of_free {s t : State} {w : Who} {va : Nat} {bs : List Nat} (fail : State) (after : State → State)
    (h : s.writeVa w va bs = .ok t) (hk : s.heldVa w va bs.length = none) :
    s.writeThen w va bs fail after = after t := by
  simp only [State.writeThen, h, hk]

/-! ### Ports (R231, R244) -/

/-- The mask of port `p` has bit `p` and no other. -/
theorem getLsbD_portMask (p : Nat) {j : Nat} (hj : j < 32) : (BitVec.ofNat 32 (2 ^ p)).getLsbD j = decide (j = p) := by
  simp only [BitVec.getLsbD_ofNat, hj, decide_true, Bool.true_and, Nat.testBit_two_pow, eq_comm]

theorem getLsbD_or_portMask (x : BitVec 32) (p : Nat) {j : Nat} (hj : j < 32) :
    (x ||| BitVec.ofNat 32 (2 ^ p)).getLsbD j = if j = p then true else x.getLsbD j := by
  rw [BitVec.getLsbD_or, getLsbD_portMask p hj]
  by_cases h : j = p <;> simp [h]

theorem getLsbD_and_not_portMask (x : BitVec 32) (p : Nat) {j : Nat} (hj : j < 32) :
    (x &&& ~~~BitVec.ofNat 32 (2 ^ p)).getLsbD j = if j = p then false else x.getLsbD j := by
  rw [BitVec.getLsbD_and, BitVec.getLsbD_not, getLsbD_portMask p hj]
  by_cases h : j = p <;> simp [h, hj]

/-- What a change of a port does at the module level; the notice names the identifier of the port's die. -/
theorem State.portChange_mod {s : State} {p : Nat} {up : Bool} (h : s.mod.portsUp.getLsbD p = !up) :
    ∃ f, (s.portChange p up).mod = { s.mod with
      portsUp := if up then s.mod.portsUp ||| BitVec.ofNat 32 (2 ^ p) else s.mod.portsUp &&& ~~~BitVec.ofNat 32 (2 ^ p)
      noticeSeq := s.mod.noticeSeq + 1
      notices := s.mod.notices ++ [⟨s.mod.noticeSeq + 1, s.beat.toNat, up, p, f⟩] } := by
  unfold State.portChange
  rw [if_neg (by simp [h])]
  cases up with
  | true => exact ⟨_, rfl⟩
  | false => exact ⟨_, rfl⟩

/-- The port has changed and no other, and its notice is the last of those that wait. -/
structure State.PortChanged (s t : State) (p : Nat) (up : Bool) : Prop where
  ports : ∀ j < 32, t.mod.portsUp.getLsbD j = if j = p then up else s.mod.portsUp.getLsbD j
  seq : t.mod.noticeSeq = s.mod.noticeSeq + 1
  notice : ∃ w, t.mod.notices = s.mod.notices ++ [w] ∧ w.up = up ∧ w.port = p ∧ w.seq = s.mod.noticeSeq + 1 ∧
    w.beat = s.beat.toNat

theorem State.portChange_changed {s : State} {p : Nat} {up : Bool} (h : s.mod.portsUp.getLsbD p = !up) :
    s.PortChanged (s.portChange p up) p up := by
  obtain ⟨f, hm⟩ := State.portChange_mod h
  refine ⟨fun j hj => ?_, by rw [hm], by rw [hm]; exact ⟨_, rfl, rfl, rfl, rfl, rfl⟩⟩
  rw [hm]
  cases up with
  | true => exact getLsbD_or_portMask _ p hj
  | false => exact getLsbD_and_not_portMask _ p hj

/-- The die of a port is up, or under warm reset with its links trained. -/
def State.portReady (s : State) (p : Nat) : Prop :=
  s.dieUp (p / 8) = true ∨ s.present (p / 8) = true ∧ (s.die (p / 8)).phase = 5

theorem State.portReady_iff (s : State) (p : Nat) :
    (s.dieUp (p / 8) || s.present (p / 8) && (s.die (p / 8)).phase == 5) = true ↔ s.portReady p := by
  simp only [State.portReady, Bool.or_eq_true, Bool.and_eq_true, beq_iff_eq]

theorem exec_portDown_changed {s : State} {port : BitVec 5} (h : s.mod.portsUp.getLsbD port.toNat = true) :
    ∃ t, exec (.portDown port) s = .next t ∧ s.PortChanged t port.toNat false :=
  ⟨_, rfl, State.portChange_changed h⟩

theorem exec_portUp_changed {s : State} {port : BitVec 5} (ready : s.portReady port.toNat)
    (h : s.mod.portsUp.getLsbD port.toNat = false) :
    ∃ t, exec (.portUp port) s = .next t ∧ s.PortChanged t port.toNat true :=
  ⟨_, congrArg Host.Outcome.next (if_pos ((s.portReady_iff _).mpr ready)), State.portChange_changed h⟩

theorem exec_portUp_of_not_ready {s : State} {port : BitVec 5} (h : ¬ s.portReady port.toNat) :
    exec (.portUp port) s = .next s :=
  congrArg Host.Outcome.next (if_neg (mt (s.portReady_iff _).mp h))

/-! ### Notices (R244, R260) -/

@[simp] theorem Notice.bytes_length (n : Notice) (pod : Nat) : (n.bytes pod).length = 32 := by
  simp [Notice.bytes, bytesOf]

/-- The oldest notice is in its slot: it waits no more, the ring goes on, and the ring's counter is told. -/
def State.noticeWritten (s : State) (sig : BitVec 32) (r : List Notice) : State :=
  (s.updMod fun m => { m with notices := r, fnqtail := (m.fnqtail + 1) % 2 ^ 32 }).hwPost s.hwDie 0 2 sig 1

theorem State.noticeWritten_mem (s : State) (sig : BitVec 32) (r : List Notice) : (s.noticeWritten sig r).mem = s.mem :=
  State.hwPost_mem ..

theorem State.noticeWritten_mod (s : State) (sig : BitVec 32) (r : List Notice) :
    (s.noticeWritten sig r).mod = { s.mod with notices := r, fnqtail := (s.mod.fnqtail + 1) % 2 ^ 32 } :=
  State.hwPost_mod ..

/-- Where the notice ring is enabled and has room, the oldest notice is written to its tail slot. -/
theorem exec_portNotice_of_room {s : State} {n : Notice} {r : List Notice} (hn : s.mod.notices = n :: r)
    (en : cfgEn s.mod.fnqcfg = true)
    (room : (s.mod.fnqtail + 2 ^ 32 - s.mod.fnqhead) % 2 ^ 32 < 2 ^ cfgSize s.mod.fnqcfg) :
    exec .portNotice s = .next (s.writeThen (s.hwWho 0) (cfgSlot s.mod.fnqcfg 32 s.mod.fnqtail) (n.bytes s.mod.podModule.toNat) s
      fun u => u.noticeWritten s.mod.fnqsig r) := by
  show execPortNotice s = _
  simp only [execPortNotice, hn, en, Nat.not_le.mpr room, Bool.not_true, Bool.false_eq_true, if_false]
  rfl

/-- A write of the hardware's own leaves the tail of the notice ring. -/
theorem State.writeVa_fnqtail {s t : State} {w : Who} {va : Nat} {bs : List Nat} (h : s.writeVa w va bs = .ok t) :
    t.mod.fnqtail = s.mod.fnqtail :=
  show t.mod.sansSnapshot.fnqtail = s.mod.sansSnapshot.fnqtail by rw [State.writeVa_sansSnapshot h]

/-! ### Table swap (R243) and links (R17, R19) -/

theorem exec_routeSwap_due {s : State} {die : BitVec 2} (armed : (s.die die.toNat).rtst = 1)
    (due : (s.die die.toNat).rtswap.toNat ≤ s.beat.toNat) :
    exec (.routeSwap die) s =
      .next (s.updDie die.toNat fun x => { x with route := x.routeShadow, fpk := x.fpkShadow, rtst := 2 }) :=
  if_pos (by simp only [armed, due, BEq.rfl, decide_true, Bool.and_self])

theorem exec_routeSwap_early {s : State} {die : BitVec 2} (early : s.beat.toNat < (s.die die.toNat).rtswap.toNat) :
    exec (.routeSwap die) s = .next s :=
  if_neg (by simp only [Nat.not_le.mpr early, decide_false, Bool.and_false, Bool.false_eq_true, not_false_iff])

/-- A link that goes down is marked, and no other mark changes. -/
theorem exec_ucieLinkDown_marks {d e : BitVec 2} (h : d ≠ e) (s : State) :
    ∃ t, exec (.ucieLinkDown d e) s = .next t ∧ ∀ l, l ∈ t.mod.linkDown ↔ l ∈ s.mod.linkDown ∨ l = linkPair d e := by
  by_cases marked : linkPair d e ∈ s.mod.linkDown
  · refine ⟨s, if_pos (by simp [marked]), fun l => ⟨.inl, ?_⟩⟩
    rintro (hl | rfl)
    · exact hl
    · exact marked
  · exact ⟨_, if_neg (by simp [h, marked]), fun l => by simp [State.updMod]⟩

/-- A link that comes up loses its mark, and no other mark changes. -/
theorem exec_ucieLinkUp_marks (d e : BitVec 2) (s : State) :
    ∃ u, exec (.ucieLinkUp d e) s = .next u ∧ ∀ l, l ∈ u.mod.linkDown ↔ l ∈ s.mod.linkDown ∧ l ≠ linkPair d e :=
  ⟨_, rfl, fun l => by simp [State.updMod]⟩

/-- Settles O49: each conjunct is what its event does, and the marks of links are read off the two lemmas on them. -/
theorem portsLinksAndTables : Obligations.PortsLinksAndTables := by
  intro s die e port q n r
  dsimp only
  refine ⟨exec_routeSwap_due, exec_routeSwap_early, fun h => ?down, fun ready h => ?up, exec_portUp_of_not_ready,
    fun w hn en room hw => ⟨fun k hk => ?held, fun free => ?written⟩, fun hde => ?links, ?edzan⟩
  case down =>
    obtain ⟨t, ht, c⟩ := exec_portDown_changed h
    exact ⟨t, ht, c.ports, c.seq, c.notice⟩
  case up =>
    obtain ⟨t, ht, c⟩ := exec_portUp_changed ready h
    exact ⟨t, ht, c.ports, c.seq, c.notice⟩
  case held =>
    rw [exec_portNotice_of_room hn en room, State.writeThen_of_held _ _ hw (by rwa [Notice.bytes_length])]
  case written =>
    rw [exec_portNotice_of_room hn en room, State.writeThen_of_free _ _ hw (by rwa [Notice.bytes_length])]
    refine ⟨_, rfl, w.noticeWritten_mem .., ?_, ?_⟩
    · rw [State.noticeWritten_mod]
    · rw [State.noticeWritten_mod, State.writeVa_fnqtail hw]
  case links =>
    obtain ⟨t, ht, down⟩ := exec_ucieLinkDown_marks hde s
    obtain ⟨u, hu, up⟩ := exec_ucieLinkUp_marks die e s
    refine ⟨t, u, ht, (down _).mpr (.inr rfl), hu, fun h => ((up _).mp h).2 rfl, fun l hl => ⟨?_, ?_⟩⟩
    · rw [down, or_iff_left hl]
    · rw [up, and_iff_left hl]
  case edzan => exact ⟨rfl, rfl⟩

end Sys2Proof.Machine
end

section
/-! SUPPORT. What orders or delays a stream, and atomic operations (R168, R169, R176, R184, R185, R281, R295, R363, R385): the lines
that a fence drops, what its completion waits for, the value that an AMO writes, and the proofs of O11 and O14 from them. -/

namespace Sys2Proof.Machine

/-! ### NOP, TIME and PAUSE (R281, R363, R385) -/

theorem exec_nop {s : State} {g : Guard} (hi : s.issues (.nop g) = true) : exec (.nop g) s = .next s.advance :=
  State.next_issue hi _

theorem exec_time {s : State} {g : Guard} {d : BitVec 5} {b : Bool} (hi : s.issues (.time g d b) = true) :
    exec (.time g d b) s = .next (s.writeS d (if b then s.beat else s.tick)) :=
  State.next_issue hi _

/-- The stream is done with PAUSE; it waits only where `n`, the number of cycles, is not 0. -/
theorem exec_pause {s : State} {g : Guard} {a : BitVec 5} (hi : s.issues (.pause g a) = true) {n : Nat}
    (hn : n = min ((s.me.rs a).toNat % 2 ^ 32) 65536) :
    exec (.pause g a) s =
      .next (s.updMe fun t => { t.done with wait := if n = 0 then .none else .pause (s.tick.toNat + n) }) := by
  subst hn
  refine (State.next_issue hi _).trans ?_
  simp only [beq_iff_eq]

theorem nopTimeAndPause : Parts.NopTimeAndPause := by
  intro s g d a b n
  refine ⟨exec_nop, exec_time, fun hi hn => ?_, fun hi hn => ?_⟩
  · rw [exec_pause hi rfl, if_neg hn]
  · rw [exec_pause hi rfl, if_pos hn]
    rfl

/-! ### The lines that a fence drops (R168, R169) -/

theorem cwayIn_iff (attr : Word) (m : BitVec 16) :
    cwayIn attr m = true ↔ ∃ j < 16, m.getLsbD j = true ∧ attr.getLsbD (4 * j) = true := by
  simp only [cwayIn, List.any_eq_true, List.mem_range, Bool.and_eq_true]

/-- A fence over every class looks at the classes' attributes alone. -/
theorem cwayIn_allOnes_iff (attr : Word) : cwayIn attr 0xFFFF = true ↔ ∃ j < 16, attr.getLsbD (4 * j) = true := by
  have all : ∀ j < 16, (0xFFFF : BitVec 16).getLsbD j = true := by decide
  rw [cwayIn_iff]
  exact exists_congr fun j => and_congr_right fun hj => and_iff_right (all j hj)

theorem State.fenceLines_of_cached {s : State} {core : Nat} {m : BitVec 16} (h : cwayIn (s.core core).clsattr m = true) :
    s.fenceLines core m = s.updCluster (clusterOf core) fun c => { c with cway := [] } := if_pos h

theorem State.fenceLines_of_not_cached {s : State} {core : Nat} {m : BitVec 16} (h : ¬ cwayIn (s.core core).clsattr m = true) :
    s.fenceLines core m = s := if_neg h

/-! ### FENCE (R168) -/

theorem exec_fence_of_no_class {s : State} {g : Guard} (hi : s.issues (.fence g 0) = true) :
    exec (.fence g 0) s = .next s.advance :=
  State.next_issue hi _

theorem exec_fence_of_performed {s : State} {g : Guard} {m : BitVec 16} (hi : s.issues (.fence g m) = true) (hm : m ≠ 0)
    (hp : s.performed s.fcore s.focusLane = true) : exec (.fence g m) s = .next (s.fenceLines s.fcore m).advance := by
  refine (State.next_issue hi _).trans ?_
  simp only [beq_iff_eq, hm, hp, Bool.not_true, Bool.false_eq_true, if_false]

theorem exec_fence_of_outstanding {s : State} {g : Guard} {m : BitVec 16} (hi : s.issues (.fence g m) = true) (hm : m ≠ 0)
    (hp : s.performed s.fcore s.focusLane = false) : exec (.fence g m) s = .next (s.stall .stall) := by
  refine (State.next_issue hi _).trans ?_
  simp only [beq_iff_eq, hm, hp, Bool.not_false, if_false, if_true]

/-! ### FENCESC (R169) -/

/-- The counts of accepted records of a core's rings. -/
def CoreState.accepted (k : CoreState) : List Nat := [k.ringL.acc, k.ringK.acc, k.ringS.acc, k.ringG.acc]

/-- The counts of retired records of a core's rings. -/
def CoreState.retired (k : CoreState) : List Nat := [k.ringL.ret, k.ringK.ret, k.ringS.ret, k.ringG.ret]

theorem exec_fencesc {s : State} {g : Guard} (hi : s.issues (.fencesc g) = true) :
    exec (.fencesc g) s =
      .next (s.updMe fun t => { t with wait := .fencesc s.myCore.aq.length s.myCore.accepted none }) :=
  State.next_issue hi _

/-- Where the accesses and records before the FENCESC are through, the lines are dropped, and the wait for a later beat starts. -/
theorem exec_fencescCompletion_ready {s : State} {core : BitVec 8} {l : Lane} {acc : List Nat}
    (hw : ((s.core core.toNat).str l).wait = .fencesc 0 acc none)
    (through : ∀ p ∈ acc.zip (s.core core.toNat).retired, p.1 ≤ p.2) :
    exec (.fencescCompletion core l) s = .next ((s.fenceLines core.toNat 0xFFFF).updStr core.toNat l
      fun t => { t with wait := .fencesc 0 acc (some s.beat.toNat) }) := by
  show execFencescCompletion core l s = _
  simp only [execFencescCompletion, hw]
  exact if_pos (by simpa [CoreState.retired] using through)

theorem exec_fencescCompletion_not_ready {s : State} {core : BitVec 8} {l : Lane} {n : Nat} {acc : List Nat}
    (hw : ((s.core core.toNat).str l).wait = .fencesc n acc none)
    (outstanding : n ≠ 0 ∨ ∃ p ∈ acc.zip (s.core core.toNat).retired, p.2 < p.1) :
    exec (.fencescCompletion core l) s = .next s := by
  show execFencescCompletion core l s = _
  simp only [execFencescCompletion, hw]
  refine if_neg fun ready => ?_
  simp only [Bool.and_eq_true, beq_iff_eq, List.all_eq_true, decide_eq_true_eq] at ready
  obtain ⟨hn, through⟩ := ready
  obtain hn' | ⟨p, hp, hlt⟩ := outstanding
  · exact hn' hn
  · exact absurd (through p hp) (Nat.not_le.mpr hlt)

/-- After the lines are dropped, the FENCESC completes at a beat later than the one noted. -/
theorem exec_fencescCompletion_dropped {s : State} {core : BitVec 8} {l : Lane} {n b : Nat} {acc : List Nat}
    (hw : ((s.core core.toNat).str l).wait = .fencesc n acc (some b)) :
    exec (.fencescCompletion core l) s =
      .next (if b < s.beat.toNat then (s.updStr core.toNat l StreamState.done).goesOn core.toNat l else s) := by
  show execFencescCompletion core l s = _
  simp only [execFencescCompletion, hw]

theorem State.goesOn_eq (s : State) (core : Nat) (l : Lane) :
    s.goesOn core l = if l = .x then s.updCore core fun k => { k with xTick := s.fine } else s := by
  simp only [State.goesOn, beq_iff_eq]

theorem fences : Parts.Fences := by
  intro s g m core l acc b n
  dsimp only
  refine ⟨fun hi h => ?goes, fun hi hp hc => ?drops, exec_fence_of_outstanding, exec_fencesc, exec_fencescCompletion_not_ready,
    fun hw through => ⟨fun hc => ?cached, fun hc => ?uncached⟩, fun hw => ⟨fun hb => ?later, fun hb => ?same⟩⟩
  case goes =>
    by_cases hm : m = 0
    · subst hm
      exact exec_fence_of_no_class hi
    · obtain ⟨hp, hc⟩ := h.resolve_left hm
      rw [exec_fence_of_performed hi hm hp, State.fenceLines_of_not_cached (mt (cwayIn_iff _ _).mp hc)]
      rfl
  case drops =>
    have hm : m ≠ 0 := by
      rintro rfl
      obtain ⟨j, -, hj, -⟩ := hc
      simp at hj
    rw [exec_fence_of_performed hi hm hp, State.fenceLines_of_cached ((cwayIn_iff _ _).mpr hc)]
    rfl
  case cached =>
    rw [exec_fencescCompletion_ready hw through, State.fenceLines_of_cached ((cwayIn_allOnes_iff _).mpr hc)]
    rfl
  case uncached =>
    have none : ¬ cwayIn (s.core core.toNat).clsattr 0xFFFF = true := by
      rw [cwayIn_allOnes_iff]
      rintro ⟨j, hj, h⟩
      simp [hc j hj] at h
    rw [exec_fencescCompletion_ready hw through, State.fenceLines_of_not_cached none]
  case later =>
    rw [exec_fencescCompletion_dropped hw, if_pos hb, State.goesOn_eq]
    rfl
  case same => rw [exec_fencescCompletion_dropped hw, if_neg (Nat.not_lt.mpr hb)]

/-- Settles O11: each clause is what its instruction, or the completion of FENCESC, comes to in its case. -/
theorem nopTimePauseAndFences : Obligations.NopTimePauseAndFences := ⟨nopTimeAndPause, fences⟩

/-! ### The value that an AMO writes (R176, R295) -/

/-- The new values by operation, from add to cas: of the old value and the operands `x` and `y`, at a width of `n` bytes. -/
def amoValues (n old x y : Nat) : List Nat :=
  let sg := toSigned (8 * n)
  [(old + x) % 2 ^ (8 * n), old &&& x, old ||| x, old ^^^ x, if sg old ≤ sg x then old else x,
    if sg old ≤ sg x then x else old, Nat.min old x, Nat.max old x, x, y]

/-- Every operation but fadd writes its value, and raises no flag; a cas does so where it finds what it compares with. -/
theorem amoNew_of_le_nine {op : Nat} (h : op ≤ 9) {n old x y : Nat} (found : op = 9 → old = x) :
    amoNew op n old x y = (some ((amoValues n old x y).getD op 0), 0) := by
  match op, h with
  | 0, _ | 1, _ | 2, _ | 3, _ | 4, _ | 5, _ | 6, _ | 7, _ | 8, _ => rfl
  | 9, _ =>
    obtain rfl := found rfl
    simp only [amoNew, BEq.rfl, if_true]
    rfl

theorem amoNew_of_failed_cas {op : Nat} (cas : op = 9) {n old x y : Nat} (other : old ≠ x) : amoNew op n old x y = (none, 0) := by
  subst cas
  simp only [amoNew, beq_iff_eq, other, if_false]

theorem amoNew_of_fadd {op : Nat} (fadd : op = 10) (wide : Bool) {old x y : Nat} :
    let f := if wide then fF64 else fF32
    let v := f.add 0 0 (f.decode old) (f.decode x)
    amoNew op (if wide then 8 else 4) old x y = (some v.1, v.2) := by
  subst fadd
  cases wide <;> rfl

/-! ### AMO (R176, R184, R185) -/

/-- A precise access that is aligned, follows the stream's earlier accesses and meets nothing that stops it performs. -/
theorem State.precise_of_ok {s u : State} {kind : AccKind} {va : Word} {cls n : Nat} {body : Access State}
    (aligned : va.toNat % n = 0) (performed : s.performed s.fcore s.focusLane = true) (h : body = .ok u) :
    s.precise kind va cls n body = u := by
  simp only [State.precise, aligned, performed, h, State.settle, bne_self_eq_false, Bool.not_true, Bool.false_eq_true, if_false]

/-- What an AMO that performs writes, which flags it raises, and that the old value is returned; `v` is `none` where it writes
nothing. -/
theorem exec_amo_of_spot {s : State} {g : Guard} {d a : BitVec 5} {c : BitVec 4} {wide r q : Bool} {o : BitVec 4} {t : Target}
    {n old : Nat} {v : Option Nat} {fl : Flags} (hn : n = if wide then 8 else 4) (hold : old = ofBytes (s.readLoc t.key n))
    (hi : s.issues (.amo g d a c wide r q o) = true) (aligned : (s.me.ra a).toNat % n = 0)
    (performed : s.performed s.fcore s.focusLane = true) (spot : s.amoSpot (s.me.ra a).toNat n = .ok t)
    (new : amoNew o.toNat n old ((s.me.rs d).toNat % 2 ^ (8 * n)) ((s.me.rs (d + 1)).toNat % 2 ^ (8 * n)) = (v, fl)) :
    exec (.amo g d a c wide r q o) s =
      .next (((v.elim s fun x => s.storeAt (clusterOf s.fcore) t (bytesOf n x)).amoFlags fl).writeS d (BitVec.ofNat 64 old)) := by
  subst hn hold
  refine (State.next_issue hi _).trans (congrArg _ (State.precise_of_ok aligned performed ?_))
  simp only [spot, Access.map, new]
  cases v <;> rfl

/-- Settles O14: the value written and the flags are those of `amoNew` in its three cases. -/
theorem amoResults : Obligations.AmoResults := by
  intro s g d a c wide r q o t n va old x y sg new hi aligned performed spot
  have performs {v fl} (h : amoNew o.toNat n old x y = (v, fl)) := exec_amo_of_spot rfl rfl hi aligned performed spot h
  exact ⟨fun le found => performs (amoNew_of_le_nine le found), fun cas other => performs (amoNew_of_failed_cas cas other),
    fun fadd => performs (amoNew_of_fadd fadd wide)⟩

end Sys2Proof.Machine
end
